-- ==== Sys2Proof/Word.lean ====
section
/-! DEFINITION. The word types of the model. -/

namespace Sys2Proof

/-- A 32-bit register word (05 R57). -/
abbrev Word := BitVec 32

/-- A byte of memory. -/
abbrev Byte := BitVec 8

/-- A 57-bit program counter or virtual address (03 R21). -/
abbrev Addr := BitVec 57

/-- One lane mask: bit l stands for lane l (00 R10). -/
abbrev Lanes := BitVec 32

end Sys2Proof
end

