-- ==== Sys2Proof/Syntax.lean ====
section
/-! DEFINITION. The instructions and steps of the GN8: their layouts (07 R79 to R90) and one constructor per row of
the opcode table. -/

namespace Sys2Proof

/-- The 16-bit format (07 R79): vd and vb. -/
structure H16 where
  vd : BitVec 6
  vb : BitVec 5
  deriving DecidableEq, Repr

/-- Layout N (07 R81): the stall count alone. -/
structure N where
  s : BitVec 2
  deriving DecidableEq, Repr

/-- Layout V3 (07 R81): [16:11] vd, [22:17] va, [28:23] vb, [29] La, [30] Lb, [31] G. -/
structure V3 where
  s : BitVec 2
  vd : BitVec 6
  va : BitVec 6
  vb : BitVec 6
  la : Bool
  lb : Bool
  g : Bool
  deriving DecidableEq, Repr

/-- Layout VI (07 R81): [16:11] vd, [22:17] va, [23] La, [31:24] imm8. -/
structure VI where
  s : BitVec 2
  vd : BitVec 6
  va : BitVec 6
  la : Bool
  imm : BitVec 8
  deriving DecidableEq, Repr

/-- Layout G9 (07 R81): [16:11] v, [25:17] group index. -/
structure G9 where
  s : BitVec 2
  v : BitVec 6
  n : BitVec 9
  deriving DecidableEq, Repr

/-- Layout BR (07 R81): [31:11] signed halfword displacement. -/
structure BR where
  s : BitVec 2
  d : BitVec 21
  deriving DecidableEq, Repr

/-- Layout BZ (07 R81): [16:11] va, [31:17] signed halfword displacement. -/
structure BZ where
  s : BitVec 2
  va : BitVec 6
  d : BitVec 15
  deriving DecidableEq, Repr

/-- Layout CV (07 R81): [14:11] c. -/
structure CV where
  s : BitVec 2
  c : BitVec 4
  deriving DecidableEq, Repr

/-- Layout RP (07 R81): [16:11] count less 1, [17] step vd, [18] step va, [19] step vb. -/
structure RP where
  s : BitVec 2
  n : BitVec 6
  d : Bool
  a : Bool
  b : Bool
  deriving DecidableEq, Repr

/-- Layout I8 (07 R81): [18:11] imm8. -/
structure I8 where
  s : BitVec 2
  imm : BitVec 8
  deriving DecidableEq, Repr

/-- The 64-bit format (07 R88). -/
structure F64 where
  s : BitVec 2
  vd : BitVec 6
  va : BitVec 6
  vb : BitVec 6
  vc : BitVec 6
  la : Bool
  lb : Bool
  lc : Bool
  gb : Bool
  imm : BitVec 8
  mod : BitVec 15
  deriving DecidableEq, Repr

/-! ## What the outside world and the units hand to their steps -/

/-- The configuration record, as far as one partition's model reads it (31 R355). -/
structure ConfigurationRecord where
  /-- digest its signature is checked over (R354) -/
  digest : Nat
  /-- number of partitions: 1, 2 or 4 (01 R19) -/
  partitions : Nat
  /-- harts assigned to this partition (R344) -/
  harts : List Nat
  /-- pooling chips assigned to this partition, by module chip number (R20) -/
  chips : List Nat
  /-- root ports assigned to this partition with the context for requests without a PASID (R349) -/
  ports : List (Nat × Nat)
  /-- lane widths each root port is set to: [16], [8, 8] or [4, 4, 4, 4] (R348) -/
  widths : List (Nat × List Nat)
  /-- CXL host ports assigned to this partition (R20, R350) -/
  hosts : List Nat
  /-- stacks of the module assigned to this partition (R19) -/
  hbmStacks : List Nat
  /-- spare slot of each physical cluster of the partition (R12) -/
  spares : List (Nat × Nat)
  /-- bytes firmware reserves at the top of the fast tier (R346) -/
  hbmrsv : Nat
  /-- corrected-error limits of the CECNT fields CORE, L2, HBM, CAP (R356) -/
  limits : List Nat
  /-- SRAM repair data, whose content is the device's own -/
  repair : List Nat
  /-- L2 and HBM sparing maps: the spare slices in use by die, and the spares in use by stack (R357) -/
  l2Map : List (Nat × Nat)
  hbmMap : List (Nat × Nat)
  deriving DecidableEq, Repr

/-- The end of a migration (11 R139, R140): the PTE that names it, and whether the read of the capacity tier has failed. -/
structure MigrationEnd where
  pte : Nat
  failed : Bool
  deriving DecidableEq, Repr

/-- The controls of a root port that 31 R348 names: ACS source validation, request and completion redirect, upstream
forwarding and egress control with its vector of barred ports, and whether DPC contains the port on fatal errors alone (1) or on
every uncorrectable error (2). -/
structure PortControls where
  validate : Bool
  redirect : Bool
  completions : Bool
  forward : Bool
  egress : Bool
  barred : List Nat
  dpc : Nat
  deriving DecidableEq, Repr

/-- A PCIe inbound memory request (31 R349). -/
structure InboundRequest where
  /-- the Requester ID is one of those behind the port, as ACS source validation asks (31 R348) -/
  valid : Bool := true
  /-- an MSI or MSI-X instead of a memory access: a hart, a file of its IMSIC and an identity (31 R348) -/
  msi : Option (Nat × Nat × Nat) := none
  port : Nat
  pasid : Option Nat
  /-- already translated through ATS -/
  translated : Bool
  addr : Nat
  /-- bytes to write, or none for a read of count bytes -/
  write : Option (List Byte)
  count : Nat
  deriving DecidableEq, Repr

/-- A PCIe ATS translation request (31 R349). -/
structure AtsRequest where
  port : Nat
  pasid : Option Nat
  addr : Nat
  /-- the requester asks for write access too -/
  write : Bool
  deriving DecidableEq, Repr

/-- Where a storage error strikes (27 R320). -/
inductive SoftError where
  /-- an uncorrectable error in lanes 4k to 4k + 3 of a v register (R74) -/
  | vreg (crew reg k : Nat)
  /-- an uncorrectable error in a uniform pool entry: all 32 lanes (R74) -/
  | uniform (crew reg : Nat)
  | greg (crew n : Nat)
  | returnStack (crew lane entry : Nat)
  | pcTable (crew : Nat)
  | convergence (crew : Nat)
  | token (crew : Nat)
  | slot (team core n : Nat)
  | joint (team core n : Nat)
  | barrier (team : Nat)
  | icache (core line : Nat)
  /-- an L1 sector, by physical granule number -/
  | l1 (core granule : Nat)
  /-- a scratchpad granule, by offset / 16 in the core's scratchpad -/
  | scratch (core granule : Nat)
  /-- four adjacent elements of an accumulator row -/
  | accumulator (core tile row k : Nat)
  /-- an L2, HBM, capacity-tier or fabric granule, by physical granule number -/
  | memory (granule : Nat)
  | tlb
  /-- a corrected error counted in CECNT field 0 CORE, 1 L2, 2 HBM or 3 CAP (31 R356) -/
  | corrected (field : Nat)
  deriving DecidableEq, Repr

/-- The address translation of a hart's access (31 R344, after the RISC-V privileged architecture): the levels of its tables (5 for Sv57), the root of the
first stage, none where that is bare, the root of the guest stage, none outside a guest, and the SUM and MXR bits in force, MXR for each
stage. -/
structure HartWalk where
  levels : Nat
  first : Option Nat
  guest : Option Nat
  sum : Bool
  mxr : Bool
  guestMxr : Bool
  deriving DecidableEq, Repr

/-- One memory operation of an Umadioz hart on an address, at system scope (31 R344). -/
inductive HartOp where
  | load
  | store (v : BitVec 64)
  /-- atomic add -/
  | amoAdd (v : BitVec 64)
  | amoSwap (v : BitVec 64)
  | amoAnd (v : BitVec 64)
  | amoOr (v : BitVec 64)
  | amoXor (v : BitVec 64)
  | amoMin (v : BitVec 64)
  | amoMax (v : BitVec 64)
  | amoMinu (v : BitVec 64)
  | amoMaxu (v : BitVec 64)
  /-- compare and swap -/
  | amoCas (expected new : BitVec 64)
  /-- load-reserve and store-conditional -/
  | lr
  | sc (v : BitVec 64)
  /-- FENCE rw,rw, and FENCE r,rw and FENCE rw,w (29 R327) -/
  | fence
  | fenceAcq
  | fenceRel
  /-- commits HDM decoder n of CXL host port pa's register space for a range; a dynamic one maps only its extents
  (31 R350) -/
  | hdmDecoder (n base size : Nat) (dynamic : Bool)
  /-- takes an extent of dynamic capacity, or releases it (31 R350) -/
  | extentAdd (base size : Nat)
  | extentRelease (base size : Nat)
  /-- sets the controls of root port pa, or releases it from containment (31 R348) -/
  | portControls (x : PortControls)
  | portRelease
  /-- the BMC reads the health block at offset pa over MCTP, or writes it (31 R346); no hart is named -/
  | bmcRead
  | bmcWrite (v : BitVec 64)
  /-- reads or writes a register of an interrupt file of the hart's IMSIC, and reads or claims the file's top identity -/
  | imsic (file reg : Nat) (v : Option (BitVec 64))
  | topei (file : Nat) (claims : Bool)
  /-- a memory operation whose address the hart's tables translate -/
  | mapped (w : HartWalk) (op : HartOp)
  deriving DecidableEq, Repr

/-- A hart's memory access (31 R344): the hart, whether it runs at supervisor privilege, the operation, the physical address
and the width in bytes; or one of the operations on ports, decoders and extents, and the BMC's on the health block. -/
structure HartAccess where
  hart : Nat
  supervisor : Bool
  op : HartOp
  pa : Nat
  width : Nat
  /-- the aq and rl bits of an atomic or a reserved access (29 R327) -/
  aq : Bool := false
  rl : Bool := false
  deriving DecidableEq, Repr


/-- One constructor per row of the opcode table: the Nypen instructions (07 R79 to R91), the three custom
instructions of the stack engines (29 R328), and the steps of the other agents and units. -/
inductive Instr where
  /-- MOV_16 (R80): 16-bit form of MOV: vd := vb, with an implied stall of its latency and no last-use marks. -/
  | mov16 (f : H16)
  /-- ADD_16 (R80): 16-bit form of ADD: vd := vd + vb. -/
  | add16 (f : H16)
  /-- SUB_16 (R80): 16-bit form of SUB: vd := vd - vb. -/
  | sub16 (f : H16)
  /-- AND_16 (R80): 16-bit form of AND: vd := vd and vb. -/
  | and16 (f : H16)
  /-- OR_16 (R80): 16-bit form of OR: vd := vd or vb. -/
  | or16 (f : H16)
  /-- XOR_16 (R80): 16-bit form of XOR: vd := vd xor vb. -/
  | xor16 (f : H16)
  /-- SHL_16 (R80): 16-bit register form of SHL on vd by vb. -/
  | shl16 (f : H16)
  /-- SHR_16 (R80): 16-bit register form of SHR on vd by vb. -/
  | shr16 (f : H16)
  /-- SAR_16 (R80): 16-bit register form of SAR on vd by vb. -/
  | sar16 (f : H16)
  /-- IMIN_16 (R80): 16-bit form of IMIN: vd := signed minimum of vd and vb. -/
  | imin16 (f : H16)
  /-- IMAX_16 (R80): 16-bit form of IMAX: vd := signed maximum of vd and vb. -/
  | imax16 (f : H16)
  /-- FADD_16 (R80): 16-bit form of FADD: vd := round_rne(vd + vb). -/
  | fadd16 (f : H16)
  /-- FSUB_16 (R80): 16-bit form of FSUB: vd := round_rne(vd - vb). -/
  | fsub16 (f : H16)
  /-- FMUL_16 (R80): 16-bit form of FMUL: vd := round_rne(vd × vb). -/
  | fmul16 (f : H16)
  /-- FMIN_16 (R80): 16-bit form of FMIN on vd and vb. -/
  | fmin16 (f : H16)
  /-- FMAX_16 (R80): 16-bit form of FMAX on vd and vb. -/
  | fmax16 (f : H16)
  /-- NOP (R165): Does nothing except apply its stall count. -/
  | nop (f : N)
  /-- MOV (R165): Copies b bit for bit into vd in each lane. -/
  | mov (f : V3)
  /-- MOVI (R165): Writes the sign-extended 8-bit immediate into vd. -/
  | movi (f : VI)
  /-- GMOV (R165): Copies group register gN into vd of every lane of the issue group. -/
  | gmov (f : G9)
  /-- GSET (R166): Writes va of the lowest lane into group register gN when the issue group holds every live thread, else raises 0x007. -/
  | gset (f : G9)
  /-- SPR (R167): Writes the special value named by the selector (lane, crew, team, clock, masks and so on) into vd. -/
  | spr (f : VI)
  /-- ADD (R168): Register form: vd := va + b, wrapping. -/
  | add (f : V3)
  /-- ADD_IMM (R168): Immediate form: vd := va + sext(imm8). -/
  | addImm (f : VI)
  /-- SUB (R168): Register form: vd := va - b, wrapping. -/
  | sub (f : V3)
  /-- SUB_IMM (R168): Immediate form: vd := va - sext(imm8). -/
  | subImm (f : VI)
  /-- MUL (R168): Register form: vd := low 32 bits of va × b. -/
  | mul (f : V3)
  /-- MUL_IMM (R168): Immediate form: vd := low 32 bits of va × sext(imm8). -/
  | mulImm (f : VI)
  /-- MULHI (R168): vd := high 32 bits of the signed product of va and b. -/
  | mulhi (f : V3)
  /-- MULHU (R168): vd := high 32 bits of the unsigned product of va and b. -/
  | mulhu (f : V3)
  /-- IMAD (R168): vd := low 32 bits of va × b + vd. -/
  | imad (f : V3)
  /-- IMIN (R168): vd := signed minimum of va and b. -/
  | imin (f : V3)
  /-- IMAX (R168): vd := signed maximum of va and b. -/
  | imax (f : V3)
  /-- UMIN (R168): vd := unsigned minimum of va and b. -/
  | umin (f : V3)
  /-- UMAX (R168): vd := unsigned maximum of va and b. -/
  | umax (f : V3)
  /-- AND (R168): Register form: vd := va and b. -/
  | and32 (f : V3)
  /-- AND_IMM (R168): Immediate form: vd := va and zext(imm8). -/
  | andImm (f : VI)
  /-- OR (R168): Register form: vd := va or b. -/
  | or32 (f : V3)
  /-- OR_IMM (R168): Immediate form: vd := va or zext(imm8). -/
  | orImm (f : VI)
  /-- XOR (R168): Register form: vd := va xor b. -/
  | xor (f : V3)
  /-- XOR_IMM (R168): Immediate form: vd := va xor zext(imm8). -/
  | xorImm (f : VI)
  /-- ANDN (R168): vd := va and not b. -/
  | andn (f : V3)
  /-- SHL (R169): Register form: logical left shift of va by b, 0 when the count is 32 or more. -/
  | shl (f : V3)
  /-- SHL_IMM (R169): Immediate form: left shift of va by imm8[4:0]. -/
  | shlImm (f : VI)
  /-- SHR (R169): Register form: logical right shift of va by b. -/
  | shr (f : V3)
  /-- SHR_IMM (R169): Immediate form: logical right shift of va by imm8[4:0]. -/
  | shrImm (f : VI)
  /-- SAR (R169): Register form: arithmetic right shift of va by b. -/
  | sar (f : V3)
  /-- SAR_IMM (R169): Immediate form: arithmetic right shift of va by imm8[4:0]. -/
  | sarImm (f : VI)
  /-- ROL (R169): Register form: rotates va left by b mod 32. -/
  | rol (f : V3)
  /-- ROL_IMM (R169): Immediate form: rotates va left by imm8[4:0]. -/
  | rolImm (f : VI)
  /-- CLZ (R170): vd := number of leading zero bits of va. -/
  | clz (f : V3)
  /-- POPC (R170): vd := number of one bits of va. -/
  | popc (f : V3)
  /-- BREV (R170): vd := va with its bit order reversed. -/
  | brev (f : V3)
  /-- BFX (R171): Extracts the bit field of va described by b, optionally sign-extended, into vd. -/
  | bfx (f : V3)
  /-- BFI (R171): Inserts the low bits of va into the field of vd described by b. -/
  | bfi (f : V3)
  /-- ICMP_EQ (R172): vd := 1 when va equals b, else 0. -/
  | icmpEq (f : V3)
  /-- ICMP_NE (R172): vd := 1 when va differs from b, else 0. -/
  | icmpNe (f : V3)
  /-- ICMP_LT (R172): vd := 1 when va < b signed, else 0. -/
  | icmpLt (f : V3)
  /-- ICMP_LE (R172): vd := 1 when va <= b signed, else 0. -/
  | icmpLe (f : V3)
  /-- ICMP_LTU (R172): vd := 1 when va < b unsigned, else 0. -/
  | icmpLtu (f : V3)
  /-- ICMP_LEU (R172): vd := 1 when va <= b unsigned, else 0. -/
  | icmpLeu (f : V3)
  /-- ICMP_GT (R172): vd := 1 when va > b signed, else 0. -/
  | icmpGt (f : V3)
  /-- ICMP_GTU (R172): vd := 1 when va > b unsigned, else 0. -/
  | icmpGtu (f : V3)
  /-- SEL (R173): vd := va when vd is nonzero, else b. -/
  | sel (f : V3)
  /-- ADDW (R174): Pair wd := wa + sext(b) modulo 2^64. -/
  | addw (f : V3)
  /-- SCADDW_2 (R174): Pair wd := wa + 2 × sext(b) modulo 2^64. -/
  | scaddw2 (f : V3)
  /-- SCADDW_4 (R174): Pair wd := wa + 4 × sext(b) modulo 2^64. -/
  | scaddw4 (f : V3)
  /-- SCADDW_8 (R174): Pair wd := wa + 8 × sext(b) modulo 2^64. -/
  | scaddw8 (f : V3)
  /-- SCADDW_16 (R174): Pair wd := wa + 16 × sext(b) modulo 2^64. -/
  | scaddw16 (f : V3)
  /-- FADD (R175): vd := round_rne(va + b) with flags. -/
  | fadd (f : V3)
  /-- FSUB (R175): vd := round_rne(va - b) with flags. -/
  | fsub (f : V3)
  /-- FMUL (R175): vd := round_rne(va × b) with flags. -/
  | fmul (f : V3)
  /-- FFMA (R175): vd := round_rne(va × b + vd), rounded once. -/
  | ffma (f : V3)
  /-- FFMS (R175): vd := round_rne(va × b - vd), rounded once. -/
  | ffms (f : V3)
  /-- FMIN (R176): vd := the lesser of va and b, NaN operands yielding the other. -/
  | fmin (f : V3)
  /-- FMAX (R176): vd := the greater of va and b, NaN operands yielding the other. -/
  | fmax (f : V3)
  /-- FSAT (R176): vd := va clamped to [+0, 1.0]. -/
  | fsat (f : V3)
  /-- FCMP_EQ (R177): vd := 1 when va equals b as FP32, else 0. -/
  | fcmpEq (f : V3)
  /-- FCMP_NE (R177): vd := 1 when va and b are not equal as FP32, else 0. -/
  | fcmpNe (f : V3)
  /-- FCMP_LT (R177): vd := 1 when va < b as FP32, else 0. -/
  | fcmpLt (f : V3)
  /-- FCMP_LE (R177): vd := 1 when va <= b as FP32, else 0. -/
  | fcmpLe (f : V3)
  /-- FCMP_GT (R177): vd := 1 when va > b as FP32, else 0. -/
  | fcmpGt (f : V3)
  /-- FCMP_GE (R177): vd := 1 when va >= b as FP32, else 0. -/
  | fcmpGe (f : V3)
  /-- FCMP_ORD (R177): vd := 1 when neither operand is NaN, else 0. -/
  | fcmpOrd (f : V3)
  /-- FCMP_UNO (R177): vd := 1 when either operand is NaN, else 0. -/
  | fcmpUno (f : V3)
  /-- FRND (R179): Rounds va to an FP32 integral value under the mode field. -/
  | frnd (f : V3)
  /-- FCVTI (R179): Converts FP32 va to a saturated signed 32-bit integer under the mode field. -/
  | fcvti (f : V3)
  /-- ICVTF (R179): Converts signed integer va to FP32 under the mode field. -/
  | icvtf (f : V3)
  /-- UCVTF (R179): Converts unsigned integer va to FP32 under the mode field. -/
  | ucvtf (f : V3)
  /-- FCLASS (R178): Writes a one-hot class mask of FP32 va. -/
  | fclass (f : V3)
  /-- FCOPYSIGN (R178): vd := bits [30:0] of va with bit 31 of b. -/
  | fcopysign (f : V3)
  /-- FABS (R178): vd := va with bit 31 cleared. -/
  | fabs (f : V3)
  /-- FNEG (R178): vd := va with bit 31 inverted. -/
  | fneg (f : V3)
  /-- FRCP (R180): vd := round_rne(1/va), scoreboarded. -/
  | frcp (f : V3)
  /-- FRSQ (R180): vd := round_rne(1/sqrt(va)), scoreboarded. -/
  | frsq (f : V3)
  /-- FSQRT (R180): vd := round_rne(sqrt(va)), scoreboarded. -/
  | fsqrt (f : V3)
  /-- FEXP2 (R180): vd := round_rne(2^va), scoreboarded. -/
  | fexp2 (f : V3)
  /-- FLOG2 (R180): vd := round_rne(log2 va), scoreboarded. -/
  | flog2 (f : V3)
  /-- FSINPI (R180): vd := round_rne(sin(pi × va)), scoreboarded. -/
  | fsinpi (f : V3)
  /-- FCOSPI (R180): vd := round_rne(cos(pi × va)), scoreboarded. -/
  | fcospi (f : V3)
  /-- FTANH (R180): vd := round_rne(tanh va), scoreboarded. -/
  | ftanh (f : V3)
  /-- BRA (R203): Sets each thread's PC to PC + 2 × displacement. -/
  | bra (f : BR)
  /-- BRZ (R203): Branches each lane whose va is 0, else moves it to PC + 4. -/
  | brz (f : BZ)
  /-- BRNZ (R203): Branches each lane whose va is nonzero, else moves it to PC + 4. -/
  | brnz (f : BZ)
  /-- CALL (R205): Pushes PC + 4 on the return stack, spilling if full, and branches by the displacement. -/
  | call (f : BR)
  /-- CALLR (R205): Checks the target in pair wa, pushes PC + 4 and jumps to it. -/
  | callr (f : V3)
  /-- RET (R205): Pops the return stack, refilling from thread-local memory when empty, and jumps to the address. -/
  | ret (f : N)
  /-- JMPR (R205): Checks the target in pair wa and jumps to it without a push. -/
  | jmpr (f : V3)
  /-- CVSET (R207): Sets the member mask of cN to the issue group and clears its arrival mask, or raises 0x084 if a thread waits there. -/
  | cvset (f : CV)
  /-- CVWAIT (R208): Members arrive and sleep at cN; non-members move on; a release check follows. -/
  | cvwait (f : CV)
  /-- CVDROP (R209): Removes the issue group from cN's members and runs the release check. -/
  | cvdrop (f : CV)
  /-- EXIT (R211): Ends every thread of the issue group, leaving convergence registers and waking ELECT sleepers. -/
  | exit (f : N)
  /-- REP (R92): Repeat prefix: issues its target count times with stepped register fields, one repetition per issue. -/
  | rep (f : RP)
  /-- YIELD (R214): Moves the threads on and makes the crew count as waiting for the choice of a swap. -/
  | yield (f : N)
  /-- SLEEP (R215): Puts the issue group to sleep for 16 × (n + 1) clocks. -/
  | sleep (f : I8)
  /-- BRK (R216): Raises cause 0x180 for every thread of the issue group. -/
  | brk (f : I8)
  /-- TRAP (R216): Raises cause 0x200 + n for every thread of the issue group. -/
  | trap (f : I8)
  /-- VOTE (R188): Writes ANY, ALL, BALLOT or UNI of the participants' va to every participant. -/
  | vote (f : V3)
  /-- SHFL (R189): Each participant takes va from the lane named by its b, when that lane participates. -/
  | shfl (f : V3)
  /-- ELECT (R190): Writes the lowest participant's lane to all; with SLEEP the others sleep with it as leader. -/
  | elect (f : V3)
  /-- WAKE (R192): Wakes the ELECT sleepers named in the ORed mask whose leader participates. -/
  | wake (f : V3)
  /-- LD (R221): Loads and widens one element per lane from virtual memory, optionally as an acquire. -/
  | ld (f : F64)
  /-- ST (R221): Narrows and stores one element per lane, or one block-scaled record, optionally as a release. -/
  | st (f : F64)
  /-- LDS (R223): Loads from scratch space with the effects of LD. -/
  | lds (f : F64)
  /-- STS (R223): Stores to scratch space with the effects of ST. -/
  | sts (f : F64)
  /-- ATOM (R224): Performs an atomic read-modify-write per lane at the home slice and returns the old value. -/
  | atom (f : F64)
  /-- ARED (R224): Performs an atomic read-modify-write per lane without a result. -/
  | ared (f : F64)
  /-- CAS (R225): Compares and swaps 32, 64 or 128 bits per lane, returning the old value. -/
  | cas (f : F64)
  /-- FENCE (R227): Fence of kind acq, rel, ar or sc at a scope, sending held stores for releases. -/
  | fence (f : F64)
  /-- PREF (R228): Prefetches each lane's line, dropping faults, and may start a migration. -/
  | pref (f : F64)
  /-- CCTL (R229): Performs a cache operation (IINV, WB, INV, L2WB, L2FL) on each lane's line and waits for it. -/
  | cctl (f : F64)
  /-- BAR (R230): Sleeps the threads at the team barrier, flagging the crew when all its live threads arrive. -/
  | bar (f : F64)
  /-- WAITBIT (R232): Sleeps each lane until a bit of a 64-bit word reaches the chosen value or its limit expires. -/
  | waitbit (f : F64)
  /-- LAUNCH (R233): Posts each participant's launch record to its job queue, or returns 1 when the queue is full. -/
  | launch (f : F64)
  /-- CSRR (R234): Reads a CSR into vd. -/
  | csrr (f : F64)
  /-- CSRW (R234): Writes, sets or clears bits of a CSR. -/
  | csrw (f : F64)
  /-- HRET (R313): Leaves handler mode at the resume point, or re-enters with the lowest held cause. -/
  | hret (f : F64)
  /-- HESC (R317): Escalates to Umadioz through the event ring and keeps the threads parked. -/
  | hesc (f : F64)
  /-- HKILL (R236): Ends the handler threads; their launch completes with THREADKILL. -/
  | hkill (f : F64)
  /-- BCC (R204): Compares va with b under an integer or FP32 condition and branches by a 23-bit displacement. -/
  | bcc (f : F64)
  /-- FFMA4 (R182): Four-term dot product plus addend, rounded once. -/
  | ffma4 (f : F64)
  /-- RBOX (R183): Ray against axis-aligned box by slabs with outward rounding; writes entry distance or +inf. -/
  | rbox (f : F64)
  /-- RTRI (R184): Exact ray-triangle test writing t, u and v of a hit, or +inf, +0, +0. -/
  | rtri (f : F64)
  /-- LRED (R193): Writes the reduction of va over all participants to each of them. -/
  | lred (f : F64)
  /-- LSCAN (R193): Writes the inclusive or exclusive prefix reduction of va to each participant. -/
  | lscan (f : F64)
  /-- MATCH (R194): Writes to each participant the mask of participants with an equal va. -/
  | match64 (f : F64)
  /-- COMPACT (R195): Moves the selected participants' values down into the lowest participants. -/
  | compact (f : F64)
  /-- EXPAND (R195): Moves the lowest participants' values out to the selected lanes. -/
  | expand (f : F64)
  /-- REGROUP (R196): Submits each participant's payload and key to the regroup table and ends the thread. -/
  | regroup (f : F64)
  /-- XSEND (R198): Fills a transfer slot with lane values and a consumer count, or sleeps until it is released. -/
  | xsend (f : F64)
  /-- XRECV (R198): Reads a filled transfer slot and takes one count, or sleeps until it is filled. -/
  | xrecv (f : F64)
  /-- TCOPY (R249): Posts a Millrace command that copies one tile between a tensor and scratchpad, plain or canonical. -/
  | tcopy (f : F64)
  /-- BCOPY (R255): Posts a Millrace command that copies bytes between memory, scratchpad or a ring slot. -/
  | bcopy (f : F64)
  /-- RINGSET (R257): Configures a core ring for the team and zeroes its counters. -/
  | ringset (f : F64)
  /-- RINGACQ (R259): Hands the next filled ring slot to the reader, sleeping while none is filled. -/
  | ringacq (f : F64)
  /-- RINGREL (R259): Frees the oldest acquired ring slot as a core-scope release. -/
  | ringrel (f : F64)
  /-- TOKWAIT (R244): Sleeps until a token is not pending, then moves on or raises the failing command's cause. -/
  | tokwait (f : F64)
  /-- TOKTEST (R244): Writes a token's state and status into vd. -/
  | toktest (f : F64)
  /-- COMBINE (R260): Posts a command that folds a reducing window's staged slots into their targets in source order. -/
  | combine (f : F64)
  /-- EMBG (R262): Posts a pooled embedding lookup of bags of capacity-tier rows. -/
  | embg (f : F64)
  /-- EMBW (R264): Posts a replacement of one embedding row at its buffer. -/
  | embw (f : F64)
  /-- SJOB (R265): Posts a job card to a stack engine. -/
  | sjob (f : F64)
  /-- MRES (R270): Reserves the core's Millstone for the team if free, returning 1 or 0. -/
  | mres (f : F64)
  /-- MREL (R271): Waits for the team's Millstone commands to publish, then releases the reservation. -/
  | mrel (f : F64)
  /-- ACCALLOC (R273): Requests accumulator tiles, granting, returning SHORT, or waiting with WAIT. -/
  | accalloc (f : F64)
  /-- ACCFREE (R275): Frees the named accumulator tiles after their commands publish. -/
  | accfree (f : F64)
  /-- MIDX (R284): Posts a command setting the team's index vector for gathered rows. -/
  | midx (f : F64)
  /-- JSET (R281): Sets the signature count of a joint register. -/
  | jset (f : F64)
  /-- MOPR (R277): Core-scope release ordering later Millstone operand reads after prior writes. -/
  | mopr (f : F64)
  /-- MMA (R285): Posts, or signs for, a dense product of canonical tiles into an accumulator tile. -/
  | mma (f : F64)
  /-- MMAS (R288): Posts, or signs for, a sampled product estimate into an accumulator tile. -/
  | mmas (f : F64)
  /-- MNORM (R287): Posts a command writing a canonical tile's norm vector to scratchpad. -/
  | mnorm (f : F64)
  /-- MWAIT (R278): Sleeps until the team's prior Millstone commands and signed operations publish, then acquires. -/
  | mwait (f : F64)
  /-- ACCRD (R276): Posts a copy of accumulator rows into scratchpad, optionally writing a completion word. -/
  | accrd (f : F64)
  /-- ACCWR (R276): Posts a copy of scratchpad rows into an accumulator tile. -/
  | accwr (f : F64)
  /-- ACCZERO (R276): Posts a command setting every element of a tile to +0. -/
  | acczero (f : F64)
  /-- MVAR (R290): Waits as MWAIT, then writes the variance register into vd to vd + 3. -/
  | mvar (f : F64)
  /-- HTAB (R296): Reads a table description and binds it to a Trowel slot of the team. -/
  | htab (f : F64)
  /-- HENC (R297): Computes the interpolated hash-grid features of each lane's point. -/
  | henc (f : F64)
  /-- HGRAD (R298): Scatters weighted gradients into the hash-grid gradient tables. -/
  | hgrad (f : F64)
  /-- VPIN (R301): Increments the reader count of the current weight buffer and returns CUR and GEN. -/
  | vpin (f : F64)
  /-- VUNPIN (R301): Decrements the reader count of the named buffer as a release. -/
  | vunpin (f : F64)
  /-- VPUB (R302): Flips CUR and increments GEN of a version block as a release. -/
  | vpub (f : F64)
  /-- VDRAIN (R302): Sleeps until the non-current buffer has no readers. -/
  | vdrain (f : F64)
  /-- FRAME (R303): Posts a frame event that reloads the budgets of the context's budgeted queues. -/
  | frame (f : F64)
  /-- METER (R304): Returns the remaining budget of the team's own or a named queue. -/
  | meter (f : F64)
  /-- BSQ_START (R328): Stack engine instruction starting a bank-unit sequence and returning a handle. -/
  | bsqStart (rd rs1 : BitVec 5)
  /-- BSQ_POLL (R328): Stack engine instruction returning a sequence's state and freeing a finished handle. -/
  | bsqPoll (rd rs1 : BitVec 5)
  /-- JCARD_LD (R328): Stack engine instruction reading a dword of the running job card. -/
  | jcardLd (rd rs1 : BitVec 5)
  /-- MEMORY_REPLY (R219): A load or atomic reply arrives and writes the scoreboarded destination. -/
  | memoryReply (crew seq : Nat)
  /-- SLUICE_SEND (R142): A Sluice line entry is sent when full, 64 clocks old, needed, or flushed by a release. -/
  | sluiceSend (core line : Nat)
  /-- WAITBIT_REREAD (R232): A waiting lane re-reads its word on a write or invalidation or every 1,024 clocks and wakes if the bit matches. -/
  | waitbitReread (id : Nat)
  /-- VDRAIN_REREAD (R302): A VDRAIN re-reads the version block and wakes when the old buffer has no readers. -/
  | vdrainReread (id : Nat)
  /-- COMMAND_ACCEPT (R239): A waiting engine command is accepted into its queue once pool entries and its token allow. -/
  | commandAccept (core queue : Nat)
  /-- MILLRACE_PUBLISH (R241): A Millrace command finishes and publishes its completion word and token in acceptance order. -/
  | millracePublish (core queue : Nat)
  /-- MILLSTONE_PUBLISH (R268): A Millstone command finishes and publishes in acceptance order, waking MWAIT and MREL. -/
  | millstonePublish (core : Nat)
  /-- MIGRATION_COMPLETE (R139): A page copy finishes, the PTE is swapped, and parked threads wake and re-translate; or the
  capacity tier's read of the page has failed (R140). -/
  | migrationComplete (die : Nat) (ending : MigrationEnd)
  /-- FURHEAD_WRITE (R138): A write to a free ring's head posts HBM frames, letting a starved migration proceed. -/
  | furheadWrite (die ring : Nat) (v : Word)
  /-- SWAP (R40): A partition moves a crew between its pending and active sets when a crew waits, 64 clocks pass, or there is room. -/
  | swap (core part : Nat)
  /-- LOGICAL_CORE_SWITCH (R54): A time-shared core saves one logical-core context and loads another after 65,536 clocks or when idle. -/
  | logicalCoreSwitch (physical logical : Nat)
  /-- SRHEAD_WRITE (R35): The doorbell write posts ring entries, or sets OVERRUN and clears EN beyond capacity. -/
  | srheadWrite (ring : Nat) (v : Word)
  /-- RING_ENTRY_READ (R35): The dispatcher reads, checks and queues the next submission ring entry. -/
  | ringEntryRead (ring : Nat)
  /-- TEAM_PLACEMENT (R29): The dispatcher serves an eligible queue and the placer places the next team atomically. -/
  | teamPlacement (queue : Nat) (cores : List Nat)
  /-- TEAM_RETIRE (R43): A team whose threads, commands and reservations are done retires and sets its bitmap bit. -/
  | teamRetire (team : Nat)
  /-- JQBLOAD_WRITE (R38): A write to JQBLOAD sets both JQBLOAD and JQBREM. -/
  | jqbloadWrite (queue : Nat) (v : BitVec 64)
  /-- PREEMPT (R49): A write of 1 to CTXCTL.PREEMPT stops new teams, loads the deadline and starts saving saveable teams. -/
  | preempt (ctx : Nat)
  /-- TEAM_SAVE_DONE (R323): A team's image is written and its trailer word is released. -/
  | teamSaveDone (team : Nat)
  /-- RESUME (R52): A write of 1 to CTXCTL.RESUME clears STOPPED and starts restoring saved teams. -/
  | resume (ctx : Nat)
  /-- TEAM_RESTORE (R52): A saved team is restored whole onto cores of a cluster. -/
  | teamRestore (ctx : Nat) (cores : List Nat)
  /-- ESCALATION_RESUME (R319): A write to CTXRES resumes or kills the escalated threads of an event entry. -/
  | escalationResume (ctx : Nat) (v : BitVec 64)
  /-- REGISTER_WRITE (R5): A write to a device register that has no row of its own sets its fields by access type. -/
  | registerWrite (pa width : Nat) (v : BitVec 64)
  /-- SFENCE_VMA (R137): A hart's SFENCE.VMA invalidates device TLBs and walkers and completes on acknowledgement. -/
  | sfenceVma (va asid : Option Nat)
  /-- L2_FLUSH (R353): A write of L2FCMD.GO starts writing back the dirty lines of a range. -/
  | l2Flush (v : Word)
  /-- REVCLR (R353): A write of REVCLR.ALL clears every revoked-range entry. -/
  | revclr (v : Word)
  /-- EXTENT_FORCED_RELEASE (R159): An extent leaves the decoders unflushed: dirty lines drop, pages are revoked, event 0x144 is reported. -/
  | extentForcedRelease (base size : Nat)
  /-- LIST (R351): A pooling request message carries an index list to a chip, which checks, fetches and folds. -/
  | poolList (core serial chip : Nat)
  /-- VEC (R351): A home chip's message returns one bag's pooled vector. -/
  | poolVec (core serial bag : Nat)
  /-- STAT (R351): A chip's message returns a command status and DUPS. -/
  | poolStat (core serial chip : Nat)
  /-- REPL (R351): A message replaces one row at its chip in one step. -/
  | poolRepl (core serial : Nat)
  /-- FWD (R342): A row held on another chip is forwarded to the bag's home chip. -/
  | poolFwd (core serial row : Nat)
  /-- JOB_RUN (R333): A stack engine starts a RUN card's kernel in U-mode. -/
  | jobRun (engine : Nat)
  /-- JOB_UPDATE (R335): A stack engine runs an AdamW UPDATE card and rewrites the working copies. -/
  | jobUpdate (engine : Nat)
  /-- JOB_PAIRFIX (R337): A stack engine rebuilds the BF16 plain and transposed copies from the master. -/
  | jobPairfix (engine : Nat)
  /-- JOB_SCALEADD (R339): A stack engine checks, translates and flushes rows and starts a bank-unit sequence. -/
  | jobScaleadd (engine : Nat)
  /-- BANK_ROW_BOUNDARY (R340): A row operation and its precharge end; the sequence starts the next row or suspends. -/
  | bankRowBoundary (sequence bank : Nat) (waited : Bool)
  /-- BANK_SEQUENCE_RESUME (R340): A suspended sequence resumes when no request waits or after 8 activations. -/
  | bankSequenceResume (sequence bank : Nat) (served : Nat) (waiting : Bool)
  /-- HBM_RETRAIN_REQUEST (R324): A stack's controller requests link retraining, which starts once no save blocks it. -/
  | hbmRetrainRequest (stack : Nat)
  /-- INBOUND_REQUEST (R349): A PCIe inbound memory request is translated for its PASID context and performed or refused. -/
  | inboundRequest (r : InboundRequest)
  /-- ATS_REQUEST (R349): A PCIe ATS translation request is answered for its PASID context. -/
  | atsRequest (r : AtsRequest)
  /-- SOFT_ERROR (R320): An uncorrectable or corrected storage error is contained as poison or corrected and counted. -/
  | softError (e : SoftError)
  /-- CORE_RETIRE (R357): A failed core is retired once it holds no team and its logical cores pass to the spare or are time-shared. -/
  | coreRetire (cluster slot : Nat)
  /-- L2_SLICE_REPLACE (R357): An L2 slice is written back and remapped to a spare. -/
  | l2SliceReplace (die : Nat)
  /-- HBM_SPARE (R357): HBM rows or banks are copied and remapped at a refresh boundary. -/
  | hbmSpare (stack : Nat)
  /-- RECOVERY_IMAGE (R354): A recovery image from the BMC over MCTP is received and verified again. -/
  | recoveryImage (digest : Nat)
  /-- ATTESTATION_REQUEST (R354): An SPDM attestation request is answered with the measurement blocks and device identity key. -/
  | attestationRequest (nonce : Nat)
  /-- CONFIGURATION_RECORD_WRITE (R355): The BMC writes a new configuration record, effective at the next module reset. -/
  | configurationRecordWrite (r : ConfigurationRecord)
  /-- PLATFORM_TIME (R358): The BMC delivers a platform time value to the harts' time CSR. -/
  | platformTime (v : BitVec 64)
  /-- POWER_CAP_EXCEEDED (R358): Exceeding the power cap or die temperature makes cores insert idle clocks. -/
  | powerCapExceeded (clocks : Nat)
  /-- UNASSIGNED_ENCODING (R94): Issue of a word whose op7 or op9 is unassigned raises cause 0x001 for every thread of the issue group. -/
  | unassignedEncoding (long : Bool) (w : BitVec 64)
  /-- RESULT_WRITE (R67): At its write clock, a fixed-latency or scoreboarded non-memory result is written to its destination and its FFLAGS bits are ORed in. -/
  | resultWrite (crew seq : Nat)
  /-- STACK_ENGINE_INSTRUCTION (R327): A stack engine hart executes a standard RISC-V instruction of a RUN kernel, with its accesses in the model, and an ECALL or exception ending the job. -/
  | stackEngineInstruction (engine : Nat)
  /-- HART_MEMORY_ACCESS (R344): An Umadioz hart performs a load, store, AMO or fence at system scope on partition memory, such as ring records or PTEs. -/
  | hartMemoryAccess (a : HartAccess)
  /-- LIVE_FIRMWARE_LOAD (R354): Umadioz firmware is replaced live by a new load, which the boot and security engine measures while compute cores run. -/
  | liveFirmwareLoad (digest : Nat)
  /-- CHARGE_REPORT (R38): Every 4,096 clocks or at retirement a core reports charges, which are subtracted from JQBREM. -/
  | chargeReport (core : Nat)
  /-- MODULE_RESET (R354): Power-up or module reset runs the stages from verification to READY: it begins them, whatever the
  module does, and each ends in its time. -/
  | moduleReset
  /-- SLEEP_EXPIRE (R215): A sleeping thread's count runs out and it wakes at PC + 4. -/
  | sleepExpire
  /-- WAITBIT_LIMIT (R232): A waiting lane's limit expires and it wakes with the word last read. -/
  | waitbitLimit
  /-- RING_SLOT_CLAIM (R258): A ring-targeted copy waiting for a free slot claims it when REL advances. -/
  | ringSlotClaim
  /-- DONE_ENTRY_WRITE (R140): A migration waiting on a full done ring writes its done entry once the ring has room. -/
  | doneEntryWrite
  /-- REGROUP_SPAWN (R48): A crew formed by the regroup table starts at the continuation PC once a crew slot is free. -/
  | regroupSpawn
  /-- DEADLINE_EXPIRE (R51): The pre-emption deadline reaches 0 before STOPPED is set. -/
  | deadlineExpire
  /-- ESCALATION_ENTRY_WRITE (R317): An escalation waiting for room in the event ring writes its entry when room appears. -/
  | escalationEntryWrite
  /-- HFENCE (R345): HFENCE.VVMA or HFENCE.GVMA invalidates every device TLB entry of the partition. -/
  | hfence
  /-- L2_FLUSH_DONE (R353): The flush finishes, sets DONE and sends a message. -/
  | l2FlushDone
  /-- SCRUB (R352): A maintenance GO with OP SCRUB corrects or poisons every granule of a capacity-tier range. -/
  | poolScrub
  /-- ZERO (R352): A maintenance GO with OP ZERO writes +0 with valid ECC over a capacity-tier range. -/
  | poolZero
  /-- MAINTENANCE_DONE (R352): A maintenance request finishes and writes its completion word. -/
  | maintenanceDone
  /-- MAINT (R351): A message carries a maintenance request to a chip. -/
  | poolMaint
  /-- MDONE (R351): A chip's message reports a maintenance status. -/
  | poolMdone
  /-- POOL_LINK_TIMEOUT (R351): A chip that does not answer within 2^24 clocks ends the command with LINK. -/
  | poolLinkTimeout
  /-- RUN_LIMIT_EXPIRE (R333): A RUN kernel's cycle count passes ARG4 and the job ends TRAPPED. -/
  | runLimitExpire
  /-- STACK_JOB_PUBLISH (R330): A stack engine job ends and writes its completion word and token. -/
  | stackJobPublish
  /-- BANK_SEQUENCE_DONE (R339): All rows finish, the rows are invalidated in L2 and the sequence completes. -/
  | bankSequenceDone
  /-- HBM_RETRAIN_DONE (R324): Retraining ends and waiting accesses and sequences resume. -/
  | hbmRetrainDone
  /-- CECNT_WINDOW (R356): A 2^32-clock corrected-error window ends. -/
  | cecntWindow
  deriving DecidableEq, Repr

end Sys2Proof
end

