-- ==== Sys2Proof/Machine/Legal.lean ====
section
/-! DEFINITION. How each instruction uses the fields of its layout (07 R81, R85, R88, R90 and the encoding tables of the
instruction chapters), the checks of the decoder (07 R94), the issue port and the latency class. -/

namespace Sys2Proof

/-- Bits [hi:lo] of a number. -/
def fieldOf (m hi lo : Nat) : Nat := m / 2 ^ lo % 2 ^ (hi + 1 - lo)

/-- The fields of an instruction, read from whichever layout it has. -/
structure Fields where
  s : Nat := 0
  vd : Nat := 0
  va : Nat := 0
  vb : Nat := 0
  vc : Nat := 0
  la : Bool := false
  lb : Bool := false
  lc : Bool := false
  g : Bool := false
  /-- the group index named when g is set, or by a G9 layout -/
  gidx : Nat := 0
  imm : Nat := 0
  mod : Nat := 0
  deriving DecidableEq, Repr

/-- How a register field is used: not at all (it must be 0), as a plain number, or as a run of n v registers whose
first is a multiple of align (07 R58, 13 R164). -/
inductive Use where
  | no
  | raw
  | run (n align : Nat)
  deriving DecidableEq, Repr

/-- A class of results by their write clock (05 R67, R68): none, a fixed latency, or the scoreboard. -/
inductive Latency where
  | none
  | fixed (n : Nat)
  | board
  deriving DecidableEq, Repr

/-- The length and layout kind of an instruction, or an event of the table that has no encoding. -/
inductive Kind where
  | half
  | word
  | double
  | stackEngine
  | event
  deriving DecidableEq, Repr

/-- How an instruction uses its fields (07 R85, R90). -/
structure Form where
  d : Use := .no
  a : Use := .no
  b : Use := .no
  c : Use := .no
  /-- vd is written -/
  dst : Bool := false
  /-- vd is read -/
  src : Bool := false
  /-- last-use bits of the used sources may be set -/
  last : Bool := true
  /-- the number of group registers a group b operand may reach: 0 when it is not allowed (07 R82, R89) -/
  gmax : Nat := 0
  /-- group registers a group b operand covers (13 R164) -/
  grun : Nat := 1
  /-- the immediate field of a 64-bit instruction is used -/
  imm : Bool := false
  /-- every modifier and immediate value is defined (07 R86, R90) -/
  ok : Bool := true
  /-- further group registers read: first and count -/
  more : Option (Nat × Nat) := none
  /-- the group registers it names lie inside the file -/
  lat : Latency := .none
  deriving DecidableEq, Repr

namespace Legal

/-- A single v register. -/
abbrev r1 : Use := .run 1 1

/-- An even pair (07 R58). -/
abbrev pair : Use := .run 2 2

/-- The run of an element of an access: a pair for X64, four registers for a Q access (19 R220). -/
def dataRun (fmt : Nat) (q : Bool) : Use := if q then .run 4 4 else if fmt = 3 then pair else r1

/-- Format codes of narrow floating formats that take a rounding mode (09 R113): BF16, M8, H4, H8. -/
def roundable (fmt : Nat) : Bool := fmt = 9 || fmt = 10 || fmt = 11 || fmt = 12

/-- The b operand of a memory access, used only with IX set (19 R217). -/
def memForm (a : Use) (ix : Bool) (f : Form) : Form :=
  { f with a := a, b := if ix then r1 else .no, gmax := if ix then 384 else 0, imm := true }

/-- LD and LDS (19 R220, R223). -/
def loadForm (base : Use) (scratch : Bool) (m : Nat) : Form :=
  let fmt := fieldOf m 3 0
  let q := fieldOf m 5 5 = 1
  memForm base (fieldOf m 4 4 = 1)
    { d := dataRun fmt q, dst := true, lat := .board
      ok := fmt < 13 && (!q || fmt = 3) && fieldOf m 14 12 = 0 &&
        (if scratch then fieldOf m 11 6 = 0
         else fieldOf m 8 6 ≠ 7 && (fieldOf m 9 9 = 1 || fieldOf m 8 6 = 0)) }

/-- ST and STS (19 R220, R221, R223): vd names the seed of a stochastic rounding. -/
def storeForm (base : Use) (scratch : Bool) (m vd : Nat) : Form :=
  let fmt := fieldOf m 3 0
  let q := fieldOf m 5 5 = 1
  let rnd := fieldOf m 14 12
  memForm base (fieldOf m 4 4 = 1)
    { d := if rnd = 4 then .raw else .no, c := dataRun fmt q
      more := if rnd = 4 then some (vd, 1) else none
      ok := fmt < 13 && (!q || fmt = 3) && rnd < 5 && (roundable fmt || rnd = 0) &&
        (if scratch then fieldOf m 11 6 = 0
         else fieldOf m 8 6 ≠ 7 && (fieldOf m 9 9 = 1 || fieldOf m 8 6 = 0)) }

/-- The run of an atomic of size code sz (19 R224, R225). -/
def atomRun (sz : Nat) : Use := if sz = 1 then pair else if sz = 2 then .run 4 4 else r1

/-- ATOM, ARED and CAS (19 R224, R225). -/
def atomForm (result cas : Bool) (m : Nat) : Form :=
  let op := fieldOf m 3 0
  let sz := fieldOf m 5 4
  memForm pair (fieldOf m 6 6 = 1)
    { d := if result then atomRun sz else .no, c := atomRun sz, dst := result, src := cas
      lat := if result then .board else .none
      ok := fieldOf m 9 7 ≠ 7 && fieldOf m 14 12 = 0 &&
        (if cas then op = 0 && sz ≠ 3 else op < 12 && sz < 2 && (sz = 0 || op < 9)) }

/-- The fields shared by engine commands (21 R238). -/
def engineForm (m : Nat) (more : Bool) (f : Form) : Form :=
  { f with
    d := if fieldOf m 5 5 = 1 then .run 4 4 else .no, src := true
    ok := more && fieldOf m 8 6 ≠ 7 && (fieldOf m 4 4 = 1 || fieldOf m 3 0 = 0) }

/-- The CSR numbers of the map (19 R235). -/
def csrKnown (n : Nat) : Bool :=
  n = 1 || n = 2 || (0x10 ≤ n && n ≤ 0x13) || n = 0x20 || (0x100 ≤ n && n ≤ 0x102) ||
    n = 0x110 || n = 0x111 || (0x180 ≤ n && n ≤ 0x18F)

/-- The read-only CSRs (19 R235). -/
def csrReadOnly (n : Nat) : Bool :=
  n = 0x10 || n = 0x11 || n = 0x13 || n = 0x20 || (0x100 ≤ n && n ≤ 0x102)

/-- The privileged CSRs (19 R235). -/
def csrPrivileged (n : Nat) : Bool := 0x100 ≤ n

end Legal

open Legal

/-- The fields of a V3 layout; with G set the b operand is g(64 × [30] + [28:23]) (07 R82). -/
def V3.fields (f : V3) : Fields :=
  { s := f.s.toNat, vd := f.vd.toNat, va := f.va.toNat, vb := f.vb.toNat, la := f.la
    lb := f.lb && !f.g, g := f.g, gidx := if f.g then 64 * f.lb.toNat + f.vb.toNat else 0 }

/-- The fields of a VI layout. -/
def VI.fields (f : VI) : Fields :=
  { s := f.s.toNat, vd := f.vd.toNat, va := f.va.toNat, la := f.la, imm := f.imm.toNat }

/-- The fields of a 16-bit instruction: va is vd, except for MOV (07 R80). -/
def H16.fields (f : H16) : Fields := { vd := f.vd.toNat, va := f.vd.toNat, vb := f.vb.toNat }

/-- The fields of a 64-bit instruction; with Gb set imm8[7:5] hold the group index's high bits (07 R88, R89). -/
def F64.fields (f : F64) : Fields :=
  { s := f.s.toNat, vd := f.vd.toNat, va := f.va.toNat, vb := f.vb.toNat, vc := f.vc.toNat
    la := f.la, lb := f.lb, lc := f.lc, g := f.gb
    gidx := if f.gb then 64 * (f.imm.toNat / 32) + f.vb.toNat else 0
    imm := if f.gb then f.imm.toNat % 32 else f.imm.toNat, mod := f.mod.toNat }

/-- Which encoding an instruction has (07 R77; 29 R328), or that it is an event. -/
def Instr.kind : Instr → Kind
  | .mov16 _ => .half
  | .add16 _ => .half
  | .sub16 _ => .half
  | .and16 _ => .half
  | .or16 _ => .half
  | .xor16 _ => .half
  | .shl16 _ => .half
  | .shr16 _ => .half
  | .sar16 _ => .half
  | .imin16 _ => .half
  | .imax16 _ => .half
  | .fadd16 _ => .half
  | .fsub16 _ => .half
  | .fmul16 _ => .half
  | .fmin16 _ => .half
  | .fmax16 _ => .half
  | .nop _ => .word
  | .mov _ => .word
  | .movi _ => .word
  | .gmov _ => .word
  | .gset _ => .word
  | .spr _ => .word
  | .add _ => .word
  | .addImm _ => .word
  | .sub _ => .word
  | .subImm _ => .word
  | .mul _ => .word
  | .mulImm _ => .word
  | .mulhi _ => .word
  | .mulhu _ => .word
  | .imad _ => .word
  | .imin _ => .word
  | .imax _ => .word
  | .umin _ => .word
  | .umax _ => .word
  | .and32 _ => .word
  | .andImm _ => .word
  | .or32 _ => .word
  | .orImm _ => .word
  | .xor _ => .word
  | .xorImm _ => .word
  | .andn _ => .word
  | .shl _ => .word
  | .shlImm _ => .word
  | .shr _ => .word
  | .shrImm _ => .word
  | .sar _ => .word
  | .sarImm _ => .word
  | .rol _ => .word
  | .rolImm _ => .word
  | .clz _ => .word
  | .popc _ => .word
  | .brev _ => .word
  | .bfx _ => .word
  | .bfi _ => .word
  | .icmpEq _ => .word
  | .icmpNe _ => .word
  | .icmpLt _ => .word
  | .icmpLe _ => .word
  | .icmpLtu _ => .word
  | .icmpLeu _ => .word
  | .icmpGt _ => .word
  | .icmpGtu _ => .word
  | .sel _ => .word
  | .addw _ => .word
  | .scaddw2 _ => .word
  | .scaddw4 _ => .word
  | .scaddw8 _ => .word
  | .scaddw16 _ => .word
  | .fadd _ => .word
  | .fsub _ => .word
  | .fmul _ => .word
  | .ffma _ => .word
  | .ffms _ => .word
  | .fmin _ => .word
  | .fmax _ => .word
  | .fsat _ => .word
  | .fcmpEq _ => .word
  | .fcmpNe _ => .word
  | .fcmpLt _ => .word
  | .fcmpLe _ => .word
  | .fcmpGt _ => .word
  | .fcmpGe _ => .word
  | .fcmpOrd _ => .word
  | .fcmpUno _ => .word
  | .frnd _ => .word
  | .fcvti _ => .word
  | .icvtf _ => .word
  | .ucvtf _ => .word
  | .fclass _ => .word
  | .fcopysign _ => .word
  | .fabs _ => .word
  | .fneg _ => .word
  | .frcp _ => .word
  | .frsq _ => .word
  | .fsqrt _ => .word
  | .fexp2 _ => .word
  | .flog2 _ => .word
  | .fsinpi _ => .word
  | .fcospi _ => .word
  | .ftanh _ => .word
  | .bra _ => .word
  | .brz _ => .word
  | .brnz _ => .word
  | .call _ => .word
  | .callr _ => .word
  | .ret _ => .word
  | .jmpr _ => .word
  | .cvset _ => .word
  | .cvwait _ => .word
  | .cvdrop _ => .word
  | .exit _ => .word
  | .rep _ => .word
  | .yield _ => .word
  | .sleep _ => .word
  | .brk _ => .word
  | .trap _ => .word
  | .vote _ => .word
  | .shfl _ => .word
  | .elect _ => .word
  | .wake _ => .word
  | .ld _ => .double
  | .st _ => .double
  | .lds _ => .double
  | .sts _ => .double
  | .atom _ => .double
  | .ared _ => .double
  | .cas _ => .double
  | .fence _ => .double
  | .pref _ => .double
  | .cctl _ => .double
  | .bar _ => .double
  | .waitbit _ => .double
  | .launch _ => .double
  | .csrr _ => .double
  | .csrw _ => .double
  | .hret _ => .double
  | .hesc _ => .double
  | .hkill _ => .double
  | .bcc _ => .double
  | .ffma4 _ => .double
  | .rbox _ => .double
  | .rtri _ => .double
  | .lred _ => .double
  | .lscan _ => .double
  | .match64 _ => .double
  | .compact _ => .double
  | .expand _ => .double
  | .regroup _ => .double
  | .xsend _ => .double
  | .xrecv _ => .double
  | .tcopy _ => .double
  | .bcopy _ => .double
  | .ringset _ => .double
  | .ringacq _ => .double
  | .ringrel _ => .double
  | .tokwait _ => .double
  | .toktest _ => .double
  | .combine _ => .double
  | .embg _ => .double
  | .embw _ => .double
  | .sjob _ => .double
  | .mres _ => .double
  | .mrel _ => .double
  | .accalloc _ => .double
  | .accfree _ => .double
  | .midx _ => .double
  | .jset _ => .double
  | .mopr _ => .double
  | .mma _ => .double
  | .mmas _ => .double
  | .mnorm _ => .double
  | .mwait _ => .double
  | .accrd _ => .double
  | .accwr _ => .double
  | .acczero _ => .double
  | .mvar _ => .double
  | .htab _ => .double
  | .henc _ => .double
  | .hgrad _ => .double
  | .vpin _ => .double
  | .vunpin _ => .double
  | .vpub _ => .double
  | .vdrain _ => .double
  | .frame _ => .double
  | .meter _ => .double
  | .bsqStart _ _ => .stackEngine
  | .bsqPoll _ _ => .stackEngine
  | .jcardLd _ _ => .stackEngine
  | .memoryReply _ _ => .event
  | .sluiceSend _ _ => .event
  | .waitbitReread _ => .event
  | .vdrainReread _ => .event
  | .commandAccept _ _ => .event
  | .millracePublish _ _ => .event
  | .millstonePublish _ => .event
  | .migrationComplete _ _ => .event
  | .furheadWrite _ _ _ => .event
  | .swap _ _ => .event
  | .chargeReport _ => .event
  | .logicalCoreSwitch _ _ => .event
  | .srheadWrite _ _ => .event
  | .ringEntryRead _ => .event
  | .teamPlacement _ _ => .event
  | .teamRetire _ => .event
  | .jqbloadWrite _ _ => .event
  | .preempt _ => .event
  | .teamSaveDone _ => .event
  | .resume _ => .event
  | .teamRestore _ _ => .event
  | .escalationResume _ _ => .event
  | .registerWrite _ _ _ => .event
  | .sfenceVma _ _ => .event
  | .l2Flush _ => .event
  | .revclr _ => .event
  | .extentForcedRelease _ _ => .event
  | .poolList _ _ _ => .event
  | .poolVec _ _ _ => .event
  | .poolStat _ _ _ => .event
  | .poolRepl _ _ => .event
  | .poolFwd _ _ _ => .event
  | .jobRun _ => .event
  | .jobUpdate _ => .event
  | .jobPairfix _ => .event
  | .jobScaleadd _ => .event
  | .bankRowBoundary _ _ _ => .event
  | .bankSequenceResume _ _ _ _ => .event
  | .hbmRetrainRequest _ => .event
  | .inboundRequest _ => .event
  | .atsRequest _ => .event
  | .softError _ => .event
  | .coreRetire _ _ => .event
  | .l2SliceReplace _ => .event
  | .hbmSpare _ => .event
  | .recoveryImage _ => .event
  | .attestationRequest _ => .event
  | .configurationRecordWrite _ => .event
  | .platformTime _ => .event
  | .powerCapExceeded _ => .event
  | .unassignedEncoding long _ => if long then .double else .word
  | .resultWrite _ _ => .event
  | .stackEngineInstruction _ => .event
  | .hartMemoryAccess _ => .event
  | .liveFirmwareLoad _ => .event
  | .sleepExpire => .event
  | .waitbitLimit => .event
  | .ringSlotClaim => .event
  | .doneEntryWrite => .event
  | .regroupSpawn => .event
  | .deadlineExpire => .event
  | .escalationEntryWrite => .event
  | .hfence => .event
  | .l2FlushDone => .event
  | .poolScrub => .event
  | .poolZero => .event
  | .maintenanceDone => .event
  | .poolMaint => .event
  | .poolMdone => .event
  | .poolLinkTimeout => .event
  | .runLimitExpire => .event
  | .stackJobPublish => .event
  | .bankSequenceDone => .event
  | .hbmRetrainDone => .event
  | .cecntWindow => .event
  | .moduleReset => .event

/-- The fields of an instruction. -/
def Instr.fields : Instr → Fields
  | .mov16 f => { f.fields with va := 0 }
  | .add16 f => f.fields
  | .sub16 f => f.fields
  | .and16 f => f.fields
  | .or16 f => f.fields
  | .xor16 f => f.fields
  | .shl16 f => f.fields
  | .shr16 f => f.fields
  | .sar16 f => f.fields
  | .imin16 f => f.fields
  | .imax16 f => f.fields
  | .fadd16 f => f.fields
  | .fsub16 f => f.fields
  | .fmul16 f => f.fields
  | .fmin16 f => f.fields
  | .fmax16 f => f.fields
  | .nop f => { s := f.s.toNat }
  | .mov f => f.fields
  | .movi f => f.fields
  | .gmov f => { s := f.s.toNat, vd := f.v.toNat, g := true, gidx := f.n.toNat }
  | .gset f => { s := f.s.toNat, va := f.v.toNat, gidx := f.n.toNat }
  | .spr f => f.fields
  | .add f => f.fields
  | .addImm f => f.fields
  | .sub f => f.fields
  | .subImm f => f.fields
  | .mul f => f.fields
  | .mulImm f => f.fields
  | .mulhi f => f.fields
  | .mulhu f => f.fields
  | .imad f => f.fields
  | .imin f => f.fields
  | .imax f => f.fields
  | .umin f => f.fields
  | .umax f => f.fields
  | .and32 f => f.fields
  | .andImm f => f.fields
  | .or32 f => f.fields
  | .orImm f => f.fields
  | .xor f => f.fields
  | .xorImm f => f.fields
  | .andn f => f.fields
  | .shl f => f.fields
  | .shlImm f => f.fields
  | .shr f => f.fields
  | .shrImm f => f.fields
  | .sar f => f.fields
  | .sarImm f => f.fields
  | .rol f => f.fields
  | .rolImm f => f.fields
  | .clz f => f.fields
  | .popc f => f.fields
  | .brev f => f.fields
  | .bfx f => f.fields
  | .bfi f => f.fields
  | .icmpEq f => f.fields
  | .icmpNe f => f.fields
  | .icmpLt f => f.fields
  | .icmpLe f => f.fields
  | .icmpLtu f => f.fields
  | .icmpLeu f => f.fields
  | .icmpGt f => f.fields
  | .icmpGtu f => f.fields
  | .sel f => f.fields
  | .addw f => f.fields
  | .scaddw2 f => f.fields
  | .scaddw4 f => f.fields
  | .scaddw8 f => f.fields
  | .scaddw16 f => f.fields
  | .fadd f => f.fields
  | .fsub f => f.fields
  | .fmul f => f.fields
  | .ffma f => f.fields
  | .ffms f => f.fields
  | .fmin f => f.fields
  | .fmax f => f.fields
  | .fsat f => f.fields
  | .fcmpEq f => f.fields
  | .fcmpNe f => f.fields
  | .fcmpLt f => f.fields
  | .fcmpLe f => f.fields
  | .fcmpGt f => f.fields
  | .fcmpGe f => f.fields
  | .fcmpOrd f => f.fields
  | .fcmpUno f => f.fields
  | .frnd f => f.fields
  | .fcvti f => f.fields
  | .icvtf f => f.fields
  | .ucvtf f => f.fields
  | .fclass f => f.fields
  | .fcopysign f => f.fields
  | .fabs f => f.fields
  | .fneg f => f.fields
  | .frcp f => f.fields
  | .frsq f => f.fields
  | .fsqrt f => f.fields
  | .fexp2 f => f.fields
  | .flog2 f => f.fields
  | .fsinpi f => f.fields
  | .fcospi f => f.fields
  | .ftanh f => f.fields
  | .bra f => { s := f.s.toNat }
  | .brz f => { s := f.s.toNat, va := f.va.toNat }
  | .brnz f => { s := f.s.toNat, va := f.va.toNat }
  | .call f => { s := f.s.toNat }
  | .callr f => f.fields
  | .ret f => { s := f.s.toNat }
  | .jmpr f => f.fields
  | .cvset f => { s := f.s.toNat, imm := f.c.toNat }
  | .cvwait f => { s := f.s.toNat, imm := f.c.toNat }
  | .cvdrop f => { s := f.s.toNat, imm := f.c.toNat }
  | .exit f => { s := f.s.toNat }
  | .rep f => { s := f.s.toNat, imm := f.n.toNat }
  | .yield f => { s := f.s.toNat }
  | .sleep f => { s := f.s.toNat, imm := f.imm.toNat }
  | .brk f => { s := f.s.toNat, imm := f.imm.toNat }
  | .trap f => { s := f.s.toNat, imm := f.imm.toNat }
  | .vote f => f.fields
  | .shfl f => f.fields
  | .elect f => f.fields
  | .wake f => f.fields
  | .ld f => f.fields
  | .st f => f.fields
  | .lds f => f.fields
  | .sts f => f.fields
  | .atom f => f.fields
  | .ared f => f.fields
  | .cas f => f.fields
  | .fence f => f.fields
  | .pref f => f.fields
  | .cctl f => f.fields
  | .bar f => f.fields
  | .waitbit f => f.fields
  | .launch f => f.fields
  | .csrr f => f.fields
  | .csrw f => f.fields
  | .hret f => f.fields
  | .hesc f => f.fields
  | .hkill f => f.fields
  | .bcc f => f.fields
  | .ffma4 f => f.fields
  | .rbox f => f.fields
  | .rtri f => f.fields
  | .lred f => f.fields
  | .lscan f => f.fields
  | .match64 f => f.fields
  | .compact f => f.fields
  | .expand f => f.fields
  | .regroup f => f.fields
  | .xsend f => f.fields
  | .xrecv f => f.fields
  | .tcopy f => f.fields
  | .bcopy f => f.fields
  | .ringset f => f.fields
  | .ringacq f => f.fields
  | .ringrel f => f.fields
  | .tokwait f => f.fields
  | .toktest f => f.fields
  | .combine f => f.fields
  | .embg f => f.fields
  | .embw f => f.fields
  | .sjob f => f.fields
  | .mres f => f.fields
  | .mrel f => f.fields
  | .accalloc f => f.fields
  | .accfree f => f.fields
  | .midx f => f.fields
  | .jset f => f.fields
  | .mopr f => f.fields
  | .mma f => f.fields
  | .mmas f => f.fields
  | .mnorm f => f.fields
  | .mwait f => f.fields
  | .accrd f => f.fields
  | .accwr f => f.fields
  | .acczero f => f.fields
  | .mvar f => f.fields
  | .htab f => f.fields
  | .henc f => f.fields
  | .hgrad f => f.fields
  | .vpin f => f.fields
  | .vunpin f => f.fields
  | .vpub f => f.fields
  | .vdrain f => f.fields
  | .frame f => f.fields
  | .meter f => f.fields
  | .bsqStart _ _ => {}
  | .bsqPoll _ _ => {}
  | .jcardLd _ _ => {}
  | .memoryReply _ _ => {}
  | .sluiceSend _ _ => {}
  | .waitbitReread _ => {}
  | .vdrainReread _ => {}
  | .commandAccept _ _ => {}
  | .millracePublish _ _ => {}
  | .millstonePublish _ => {}
  | .migrationComplete _ _ => {}
  | .furheadWrite _ _ _ => {}
  | .swap _ _ => {}
  | .chargeReport _ => {}
  | .logicalCoreSwitch _ _ => {}
  | .srheadWrite _ _ => {}
  | .ringEntryRead _ => {}
  | .teamPlacement _ _ => {}
  | .teamRetire _ => {}
  | .jqbloadWrite _ _ => {}
  | .preempt _ => {}
  | .teamSaveDone _ => {}
  | .resume _ => {}
  | .teamRestore _ _ => {}
  | .escalationResume _ _ => {}
  | .registerWrite _ _ _ => {}
  | .sfenceVma _ _ => {}
  | .l2Flush _ => {}
  | .revclr _ => {}
  | .extentForcedRelease _ _ => {}
  | .poolList _ _ _ => {}
  | .poolVec _ _ _ => {}
  | .poolStat _ _ _ => {}
  | .poolRepl _ _ => {}
  | .poolFwd _ _ _ => {}
  | .jobRun _ => {}
  | .jobUpdate _ => {}
  | .jobPairfix _ => {}
  | .jobScaleadd _ => {}
  | .bankRowBoundary _ _ _ => {}
  | .bankSequenceResume _ _ _ _ => {}
  | .hbmRetrainRequest _ => {}
  | .inboundRequest _ => {}
  | .atsRequest _ => {}
  | .softError _ => {}
  | .coreRetire _ _ => {}
  | .l2SliceReplace _ => {}
  | .hbmSpare _ => {}
  | .recoveryImage _ => {}
  | .attestationRequest _ => {}
  | .configurationRecordWrite _ => {}
  | .platformTime _ => {}
  | .powerCapExceeded _ => {}
  | .unassignedEncoding _ w => { s := (w.extractLsb' 2 2).toNat }
  | .resultWrite _ _ => {}
  | .stackEngineInstruction _ => {}
  | .hartMemoryAccess _ => {}
  | .liveFirmwareLoad _ => {}
  | .sleepExpire => {}
  | .waitbitLimit => {}
  | .ringSlotClaim => {}
  | .doneEntryWrite => {}
  | .regroupSpawn => {}
  | .deadlineExpire => {}
  | .escalationEntryWrite => {}
  | .hfence => {}
  | .l2FlushDone => {}
  | .poolScrub => {}
  | .poolZero => {}
  | .maintenanceDone => {}
  | .poolMaint => {}
  | .poolMdone => {}
  | .poolLinkTimeout => {}
  | .runLimitExpire => {}
  | .stackJobPublish => {}
  | .bankSequenceDone => {}
  | .hbmRetrainDone => {}
  | .cecntWindow => {}
  | .moduleReset => {}

/-- How each instruction uses its fields: 07 R79, R85; 13 R165 to R181; 15 R187; 17 R200; 19 R217 to R236;
21 R238 to R265; 23 R266; 25 R294. Last-use bits are taken to be usable on every source the instruction reads, but
for REGROUP and RINGSET, whose field lists leave them out (DEDUCED, log 3). Of the modifier bits that a mode leaves idle,
J of MMA and MMAS with JV = 0 and the queue of METER with QSEL = 0 must be 0, and the scope of ACCRD with CW = 0 may hold
any code but 7 (DESIGN CHOICE, log 95). -/
def Instr.form : Instr → Form
  | .mov16 _ => { d := r1, b := r1, dst := true, lat := .fixed 2 }
  | .add16 _ => { d := r1, a := r1, b := r1, dst := true, lat := .fixed 2 }
  | .sub16 _ => { d := r1, a := r1, b := r1, dst := true, lat := .fixed 2 }
  | .and16 _ => { d := r1, a := r1, b := r1, dst := true, lat := .fixed 2 }
  | .or16 _ => { d := r1, a := r1, b := r1, dst := true, lat := .fixed 2 }
  | .xor16 _ => { d := r1, a := r1, b := r1, dst := true, lat := .fixed 2 }
  | .shl16 _ => { d := r1, a := r1, b := r1, dst := true, lat := .fixed 2 }
  | .shr16 _ => { d := r1, a := r1, b := r1, dst := true, lat := .fixed 2 }
  | .sar16 _ => { d := r1, a := r1, b := r1, dst := true, lat := .fixed 2 }
  | .imin16 _ => { d := r1, a := r1, b := r1, dst := true, lat := .fixed 2 }
  | .imax16 _ => { d := r1, a := r1, b := r1, dst := true, lat := .fixed 2 }
  | .fadd16 _ => { d := r1, a := r1, b := r1, dst := true, lat := .fixed 4 }
  | .fsub16 _ => { d := r1, a := r1, b := r1, dst := true, lat := .fixed 4 }
  | .fmul16 _ => { d := r1, a := r1, b := r1, dst := true, lat := .fixed 4 }
  | .fmin16 _ => { d := r1, a := r1, b := r1, dst := true, lat := .fixed 2 }
  | .fmax16 _ => { d := r1, a := r1, b := r1, dst := true, lat := .fixed 2 }
  | .nop _ => {}
  | .mov _ => { d := r1, b := r1, dst := true, gmax := 128, lat := .fixed 2 }
  | .movi _ => { d := r1, dst := true, imm := true, lat := .fixed 2 }
  | .gmov _ => { d := r1, dst := true, gmax := 384, lat := .fixed 2 }
  | .gset _ => { a := r1, gmax := 384, lat := .fixed 2 }
  | .spr f => { d := r1, dst := true, imm := true, ok := f.imm.toNat < 14, lat := .fixed 2 }
  | .add _ => { d := r1, a := r1, b := r1, dst := true, gmax := 128, lat := .fixed 2 }
  | .addImm _ => { d := r1, a := r1, dst := true, imm := true, lat := .fixed 2 }
  | .sub _ => { d := r1, a := r1, b := r1, dst := true, gmax := 128, lat := .fixed 2 }
  | .subImm _ => { d := r1, a := r1, dst := true, imm := true, lat := .fixed 2 }
  | .mul _ => { d := r1, a := r1, b := r1, dst := true, gmax := 128, lat := .fixed 4 }
  | .mulImm _ => { d := r1, a := r1, dst := true, imm := true, lat := .fixed 4 }
  | .mulhi _ => { d := r1, a := r1, b := r1, dst := true, gmax := 128, lat := .fixed 4 }
  | .mulhu _ => { d := r1, a := r1, b := r1, dst := true, gmax := 128, lat := .fixed 4 }
  | .imad _ => { d := r1, a := r1, b := r1, dst := true, src := true, gmax := 128, lat := .fixed 4 }
  | .imin _ => { d := r1, a := r1, b := r1, dst := true, gmax := 128, lat := .fixed 2 }
  | .imax _ => { d := r1, a := r1, b := r1, dst := true, gmax := 128, lat := .fixed 2 }
  | .umin _ => { d := r1, a := r1, b := r1, dst := true, gmax := 128, lat := .fixed 2 }
  | .umax _ => { d := r1, a := r1, b := r1, dst := true, gmax := 128, lat := .fixed 2 }
  | .and32 _ => { d := r1, a := r1, b := r1, dst := true, gmax := 128, lat := .fixed 2 }
  | .andImm _ => { d := r1, a := r1, dst := true, imm := true, lat := .fixed 2 }
  | .or32 _ => { d := r1, a := r1, b := r1, dst := true, gmax := 128, lat := .fixed 2 }
  | .orImm _ => { d := r1, a := r1, dst := true, imm := true, lat := .fixed 2 }
  | .xor _ => { d := r1, a := r1, b := r1, dst := true, gmax := 128, lat := .fixed 2 }
  | .xorImm _ => { d := r1, a := r1, dst := true, imm := true, lat := .fixed 2 }
  | .andn _ => { d := r1, a := r1, b := r1, dst := true, gmax := 128, lat := .fixed 2 }
  | .shl _ => { d := r1, a := r1, b := r1, dst := true, gmax := 128, lat := .fixed 2 }
  | .shlImm f => { d := r1, a := r1, dst := true, imm := true, ok := f.imm.toNat < 32, lat := .fixed 2 }
  | .shr _ => { d := r1, a := r1, b := r1, dst := true, gmax := 128, lat := .fixed 2 }
  | .shrImm f => { d := r1, a := r1, dst := true, imm := true, ok := f.imm.toNat < 32, lat := .fixed 2 }
  | .sar _ => { d := r1, a := r1, b := r1, dst := true, gmax := 128, lat := .fixed 2 }
  | .sarImm f => { d := r1, a := r1, dst := true, imm := true, ok := f.imm.toNat < 32, lat := .fixed 2 }
  | .rol _ => { d := r1, a := r1, b := r1, dst := true, gmax := 128, lat := .fixed 2 }
  | .rolImm f => { d := r1, a := r1, dst := true, imm := true, ok := f.imm.toNat < 32, lat := .fixed 2 }
  | .clz _ => { d := r1, a := r1, dst := true, lat := .fixed 4 }
  | .popc _ => { d := r1, a := r1, dst := true, lat := .fixed 4 }
  | .brev _ => { d := r1, a := r1, dst := true, lat := .fixed 4 }
  | .bfx _ => { d := r1, a := r1, b := r1, dst := true, gmax := 128, lat := .fixed 4 }
  | .bfi _ => { d := r1, a := r1, b := r1, dst := true, src := true, gmax := 128, lat := .fixed 4 }
  | .icmpEq _ => { d := r1, a := r1, b := r1, dst := true, gmax := 128, lat := .fixed 2 }
  | .icmpNe _ => { d := r1, a := r1, b := r1, dst := true, gmax := 128, lat := .fixed 2 }
  | .icmpLt _ => { d := r1, a := r1, b := r1, dst := true, gmax := 128, lat := .fixed 2 }
  | .icmpLe _ => { d := r1, a := r1, b := r1, dst := true, gmax := 128, lat := .fixed 2 }
  | .icmpLtu _ => { d := r1, a := r1, b := r1, dst := true, gmax := 128, lat := .fixed 2 }
  | .icmpLeu _ => { d := r1, a := r1, b := r1, dst := true, gmax := 128, lat := .fixed 2 }
  | .icmpGt _ => { d := r1, a := r1, b := r1, dst := true, gmax := 128, lat := .fixed 2 }
  | .icmpGtu _ => { d := r1, a := r1, b := r1, dst := true, gmax := 128, lat := .fixed 2 }
  | .sel _ => { d := r1, a := r1, b := r1, dst := true, src := true, gmax := 128, lat := .fixed 2 }
  | .addw _ => { d := pair, a := pair, b := r1, dst := true, gmax := 128, lat := .fixed 2 }
  | .scaddw2 _ => { d := pair, a := pair, b := r1, dst := true, gmax := 128, lat := .fixed 2 }
  | .scaddw4 _ => { d := pair, a := pair, b := r1, dst := true, gmax := 128, lat := .fixed 2 }
  | .scaddw8 _ => { d := pair, a := pair, b := r1, dst := true, gmax := 128, lat := .fixed 2 }
  | .scaddw16 _ => { d := pair, a := pair, b := r1, dst := true, gmax := 128, lat := .fixed 2 }
  | .fadd _ => { d := r1, a := r1, b := r1, dst := true, gmax := 128, lat := .fixed 4 }
  | .fsub _ => { d := r1, a := r1, b := r1, dst := true, gmax := 128, lat := .fixed 4 }
  | .fmul _ => { d := r1, a := r1, b := r1, dst := true, gmax := 128, lat := .fixed 4 }
  | .ffma _ => { d := r1, a := r1, b := r1, dst := true, src := true, gmax := 128, lat := .fixed 4 }
  | .ffms _ => { d := r1, a := r1, b := r1, dst := true, src := true, gmax := 128, lat := .fixed 4 }
  | .fmin _ => { d := r1, a := r1, b := r1, dst := true, gmax := 128, lat := .fixed 2 }
  | .fmax _ => { d := r1, a := r1, b := r1, dst := true, gmax := 128, lat := .fixed 2 }
  | .fsat _ => { d := r1, a := r1, dst := true, lat := .fixed 2 }
  | .fcmpEq _ => { d := r1, a := r1, b := r1, dst := true, gmax := 128, lat := .fixed 2 }
  | .fcmpNe _ => { d := r1, a := r1, b := r1, dst := true, gmax := 128, lat := .fixed 2 }
  | .fcmpLt _ => { d := r1, a := r1, b := r1, dst := true, gmax := 128, lat := .fixed 2 }
  | .fcmpLe _ => { d := r1, a := r1, b := r1, dst := true, gmax := 128, lat := .fixed 2 }
  | .fcmpGt _ => { d := r1, a := r1, b := r1, dst := true, gmax := 128, lat := .fixed 2 }
  | .fcmpGe _ => { d := r1, a := r1, b := r1, dst := true, gmax := 128, lat := .fixed 2 }
  | .fcmpOrd _ => { d := r1, a := r1, b := r1, dst := true, gmax := 128, lat := .fixed 2 }
  | .fcmpUno _ => { d := r1, a := r1, b := r1, dst := true, gmax := 128, lat := .fixed 2 }
  | .frnd f => { d := r1, a := r1, b := .raw, dst := true, ok := f.vb.toNat < 4 && !f.lb, lat := .fixed 4 }
  | .fcvti f => { d := r1, a := r1, b := .raw, dst := true, ok := f.vb.toNat < 4 && !f.lb, lat := .fixed 4 }
  | .icvtf f => { d := r1, a := r1, b := .raw, dst := true, ok := f.vb.toNat < 4 && !f.lb, lat := .fixed 4 }
  | .ucvtf f => { d := r1, a := r1, b := .raw, dst := true, ok := f.vb.toNat < 4 && !f.lb, lat := .fixed 4 }
  | .fclass _ => { d := r1, a := r1, dst := true, lat := .fixed 2 }
  | .fcopysign _ => { d := r1, a := r1, b := r1, dst := true, gmax := 128, lat := .fixed 2 }
  | .fabs _ => { d := r1, a := r1, dst := true, lat := .fixed 2 }
  | .fneg _ => { d := r1, a := r1, dst := true, lat := .fixed 2 }
  | .frcp _ => { d := r1, a := r1, dst := true, lat := .board }
  | .frsq _ => { d := r1, a := r1, dst := true, lat := .board }
  | .fsqrt _ => { d := r1, a := r1, dst := true, lat := .board }
  | .fexp2 _ => { d := r1, a := r1, dst := true, lat := .board }
  | .flog2 _ => { d := r1, a := r1, dst := true, lat := .board }
  | .fsinpi _ => { d := r1, a := r1, dst := true, lat := .board }
  | .fcospi _ => { d := r1, a := r1, dst := true, lat := .board }
  | .ftanh _ => { d := r1, a := r1, dst := true, lat := .board }
  | .bra _ => {}
  | .brz _ => { a := r1 }
  | .brnz _ => { a := r1 }
  | .call _ => {}
  | .callr _ => { a := pair }
  | .ret _ => {}
  | .jmpr _ => { a := pair }
  | .cvset _ => {}
  | .cvwait _ => {}
  | .cvdrop _ => {}
  | .exit _ => {}
  | .rep f => { ok := f.s = 0 }
  | .yield _ => {}
  | .sleep _ => {}
  | .brk _ => {}
  | .trap _ => {}
  | .vote f => { d := r1, a := r1, b := .raw, dst := true, ok := f.vb.toNat < 4 && !f.lb, lat := .board }
  | .shfl _ => { d := r1, a := r1, b := r1, dst := true, gmax := 128, lat := .board }
  | .elect f => { d := r1, b := .raw, dst := true, ok := f.vb.toNat < 2 && !f.lb, lat := .board }
  | .wake _ => { a := r1 }
  | .ld f => loadForm pair false f.mod.toNat
  | .st f => storeForm pair false f.mod.toNat f.vd.toNat
  | .lds f => loadForm r1 true f.mod.toNat
  | .sts f => storeForm r1 true f.mod.toNat f.vd.toNat
  | .atom f => atomForm true false f.mod.toNat
  | .ared f => atomForm false false f.mod.toNat
  | .cas f => atomForm true true f.mod.toNat
  | .fence f => { ok := f.mod.toNat < 32 && fieldOf f.mod.toNat 4 2 ≠ 7 }
  | .pref f => memForm pair (fieldOf f.mod.toNat 2 2 = 1) { ok := f.mod.toNat < 64 && fieldOf f.mod.toNat 1 0 < 2 }
  | .cctl f => memForm pair (fieldOf f.mod.toNat 4 4 = 1) { ok := f.mod.toNat < 32 && fieldOf f.mod.toNat 3 0 < 5 }
  | .bar f => { ok := f.mod.toNat = 0 }
  | .waitbit f => memForm pair (fieldOf f.mod.toNat 7 7 = 1) { d := pair, dst := true, ok := fieldOf f.mod.toNat 10 8 ≠ 7, lat := .board }
  | .launch f => { d := r1, a := pair, dst := true, ok := f.mod.toNat = 0, lat := .board }
  | .csrr f => { d := r1, dst := true, ok := csrKnown f.mod.toNat, lat := .board }
  | .csrw f => { a := r1, ok := f.mod.toNat < 0x3000 && csrKnown (f.mod.toNat % 4096) && !csrReadOnly (f.mod.toNat % 4096) }
  | .hret f => { ok := f.mod.toNat < 2 }
  | .hesc f => { a := r1, ok := f.mod.toNat = 0 }
  | .hkill f => { ok := f.mod.toNat = 0 }
  | .bcc f => { d := .raw, a := r1, b := r1, c := .raw, gmax := 384, ok := !f.lc, lat := .fixed 2 }
  | .ffma4 f => { d := r1, a := .run 4 1, b := .run 4 1, c := r1, dst := true, gmax := 384, grun := 4, ok := f.mod.toNat = 0, lat := .board }
  | .rbox f => { d := r1, a := .run 6 1, b := .run 6 1, c := .run 2 1, dst := true, gmax := 384, grun := 6, ok := f.mod.toNat = 0, lat := .board }
  | .rtri f => { d := .run 3 1, a := .run 6 1, b := .run 9 1, c := .run 2 1, dst := true, gmax := 384, grun := 9, ok := f.mod.toNat < 2, lat := .board }
  | .lred f => { d := r1, a := r1, dst := true, ok := f.mod.toNat < 11, lat := .board }
  | .lscan f => { d := r1, a := r1, dst := true, ok := f.mod.toNat < 32 && fieldOf f.mod.toNat 3 0 < 11, lat := .board }
  | .match64 f => { d := r1, a := if fieldOf f.mod.toNat 0 0 = 1 then pair else r1, dst := true, ok := f.mod.toNat < 2, lat := .board }
  | .compact f => { d := r1, a := r1, b := r1, dst := true, ok := f.mod.toNat = 0, lat := .board }
  | .expand f => { d := r1, a := r1, b := r1, dst := true, ok := f.mod.toNat = 0, lat := .board }
  | .regroup f => { a := .run (fieldOf f.mod.toNat 3 0 + 1) 1, b := r1, last := false, ok := f.mod.toNat < 16 }
  | .xsend f => { a := r1, imm := true, ok := f.mod.toNat < 32 && f.imm ≠ 0 }
  | .xrecv f => { d := r1, dst := true, ok := f.mod.toNat < 32, lat := .board }
  | .tcopy f => engineForm f.mod.toNat ((fieldOf f.mod.toNat 10 10 = 1 || fieldOf f.mod.toNat 11 11 = 0) && (fieldOf f.mod.toNat 14 14 = 0 || f.vb.toNat < 16)) { a := pair, b := if fieldOf f.mod.toNat 14 14 = 1 then .raw else r1, c := .run 5 1 }
  | .bcopy f => engineForm f.mod.toNat (fieldOf f.mod.toNat 14 13 = 0 && !(fieldOf f.mod.toNat 10 10 = 1 && fieldOf f.mod.toNat 11 11 = 1) && (fieldOf f.mod.toNat 11 11 = 0 || f.vb.toNat < 16)) { a := if fieldOf f.mod.toNat 9 9 = 1 then r1 else pair, b := if fieldOf f.mod.toNat 11 11 = 1 then .raw else if fieldOf f.mod.toNat 10 10 = 1 then r1 else pair, c := r1 }
  | .ringset f => { a := r1, b := r1, last := false, ok := f.mod.toNat < 256 && fieldOf f.mod.toNat 7 4 < 11 }
  | .ringacq f => { d := r1, dst := true, ok := f.mod.toNat < 32, lat := .board }
  | .ringrel f => { ok := f.mod.toNat < 16 }
  | .tokwait f => { ok := f.mod.toNat < 16 }
  | .toktest f => { d := r1, dst := true, ok := f.mod.toNat < 16, lat := .board }
  | .combine f => engineForm f.mod.toNat (fieldOf f.mod.toNat 14 13 = 0 && fieldOf f.mod.toNat 11 11 = 0) {}
  | .embg f => engineForm f.mod.toNat (fieldOf f.mod.toNat 14 13 = 0 && fieldOf f.mod.toNat 11 9 = 0) { a := pair }
  | .embw f => engineForm f.mod.toNat (fieldOf f.mod.toNat 14 13 = 0 && fieldOf f.mod.toNat 11 9 = 0) { a := pair, b := r1, c := r1 }
  | .sjob f => { a := pair, b := r1, ok := f.mod.toNat < 32 && (fieldOf f.mod.toNat 4 4 = 1 || fieldOf f.mod.toNat 3 0 = 0) }
  | .mres f => { d := r1, dst := true, ok := f.mod.toNat = 0, lat := .board }
  | .mrel f => { ok := f.mod.toNat = 0 }
  | .accalloc f => { d := .run 3 2, dst := true, imm := true, ok := f.mod.toNat < 2 && 1 ≤ f.imm.toNat && f.imm.toNat ≤ 64, lat := .board }
  | .accfree f => { a := pair, ok := f.mod.toNat = 0 }
  | .midx f => { a := r1, b := r1, ok := f.mod.toNat = 0 }
  | .jset f => { imm := true, ok := f.mod.toNat < 8 && 1 ≤ f.imm.toNat && f.imm.toNat ≤ 192 }
  | .mopr f => { ok := f.mod.toNat = 0 }
  | .mma f => { a := r1, b := r1, c := r1, ok := f.mod.toNat < 128 && (fieldOf f.mod.toNat 3 3 = 1 || fieldOf f.mod.toNat 2 0 = 0) }
  | .mmas f => { a := r1, b := r1, c := r1, more := some (fieldOf f.mod.toNat 12 4, 5), ok := fieldOf f.mod.toNat 14 13 = 0 && (fieldOf f.mod.toNat 3 3 = 1 || fieldOf f.mod.toNat 2 0 = 0) }
  | .mnorm f => { a := r1, b := r1, ok := f.mod.toNat = 0 }
  | .mwait f => { ok := f.mod.toNat = 0 }
  | .accrd f => { d := if fieldOf f.mod.toNat 6 6 = 1 then .run 4 4 else .no, b := r1, c := r1, src := true, imm := true, ok := f.mod.toNat < 1024 && fieldOf f.mod.toNat 9 7 ≠ 7 && f.imm.toNat < 64 }
  | .accwr f => { b := r1, c := r1, imm := true, ok := f.mod.toNat < 64 && f.imm.toNat < 64 }
  | .acczero f => { c := r1, ok := f.mod.toNat = 0 }
  | .mvar f => { d := .run 4 4, dst := true, ok := f.mod.toNat = 0, lat := .board }
  | .htab f => { a := pair, ok := f.mod.toNat < 4 }
  | .henc f => { d := r1, a := .run 2 1, dst := true, ok := f.mod.toNat < 4, lat := .board }
  | .hgrad f => { a := .run 2 1, b := .run 2 1, ok := f.mod.toNat < 4 }
  | .vpin f => { d := r1, a := pair, dst := true, ok := f.mod.toNat = 0, lat := .board }
  | .vunpin f => { a := pair, b := r1, ok := f.mod.toNat = 0 }
  | .vpub f => { a := pair, ok := f.mod.toNat = 0 }
  | .vdrain f => { a := pair, ok := f.mod.toNat = 0 }
  | .frame f => { ok := f.mod.toNat = 0 }
  | .meter f => { d := pair, dst := true, ok := f.mod.toNat < 128 && (fieldOf f.mod.toNat 6 6 = 1 || fieldOf f.mod.toNat 5 0 = 0), lat := .board }
  | .bsqStart _ _ => {}
  | .bsqPoll _ _ => {}
  | .jcardLd _ _ => {}
  | .memoryReply _ _ => {}
  | .sluiceSend _ _ => {}
  | .waitbitReread _ => {}
  | .vdrainReread _ => {}
  | .commandAccept _ _ => {}
  | .millracePublish _ _ => {}
  | .millstonePublish _ => {}
  | .migrationComplete _ _ => {}
  | .furheadWrite _ _ _ => {}
  | .swap _ _ => {}
  | .chargeReport _ => {}
  | .logicalCoreSwitch _ _ => {}
  | .srheadWrite _ _ => {}
  | .ringEntryRead _ => {}
  | .teamPlacement _ _ => {}
  | .teamRetire _ => {}
  | .jqbloadWrite _ _ => {}
  | .preempt _ => {}
  | .teamSaveDone _ => {}
  | .resume _ => {}
  | .teamRestore _ _ => {}
  | .escalationResume _ _ => {}
  | .registerWrite _ _ _ => {}
  | .sfenceVma _ _ => {}
  | .l2Flush _ => {}
  | .revclr _ => {}
  | .extentForcedRelease _ _ => {}
  | .poolList _ _ _ => {}
  | .poolVec _ _ _ => {}
  | .poolStat _ _ _ => {}
  | .poolRepl _ _ => {}
  | .poolFwd _ _ _ => {}
  | .jobRun _ => {}
  | .jobUpdate _ => {}
  | .jobPairfix _ => {}
  | .jobScaleadd _ => {}
  | .bankRowBoundary _ _ _ => {}
  | .bankSequenceResume _ _ _ _ => {}
  | .hbmRetrainRequest _ => {}
  | .inboundRequest _ => {}
  | .atsRequest _ => {}
  | .softError _ => {}
  | .coreRetire _ _ => {}
  | .l2SliceReplace _ => {}
  | .hbmSpare _ => {}
  | .recoveryImage _ => {}
  | .attestationRequest _ => {}
  | .configurationRecordWrite _ => {}
  | .platformTime _ => {}
  | .powerCapExceeded _ => {}
  | .unassignedEncoding _ _ => {}
  | .resultWrite _ _ => {}
  | .stackEngineInstruction _ => {}
  | .hartMemoryAccess _ => {}
  | .liveFirmwareLoad _ => {}
  | .sleepExpire => {}
  | .waitbitLimit => {}
  | .ringSlotClaim => {}
  | .doneEntryWrite => {}
  | .regroupSpawn => {}
  | .deadlineExpire => {}
  | .escalationEntryWrite => {}
  | .hfence => {}
  | .l2FlushDone => {}
  | .poolScrub => {}
  | .poolZero => {}
  | .maintenanceDone => {}
  | .poolMaint => {}
  | .poolMdone => {}
  | .poolLinkTimeout => {}
  | .runLimitExpire => {}
  | .stackJobPublish => {}
  | .bankSequenceDone => {}
  | .hbmRetrainDone => {}
  | .cecntWindow => {}
  | .moduleReset => {}

/-- Lane arithmetic, which issues on port A; every other instruction issues on port B (13 R161, 03 R41). -/
def Instr.portA : Instr → Bool
  | .mov16 _ => true
  | .add16 _ => true
  | .sub16 _ => true
  | .and16 _ => true
  | .or16 _ => true
  | .xor16 _ => true
  | .shl16 _ => true
  | .shr16 _ => true
  | .sar16 _ => true
  | .imin16 _ => true
  | .imax16 _ => true
  | .fadd16 _ => true
  | .fsub16 _ => true
  | .fmul16 _ => true
  | .fmin16 _ => true
  | .fmax16 _ => true
  | .nop _ => true
  | .mov _ => true
  | .movi _ => true
  | .gmov _ => true
  | .gset _ => false
  | .spr _ => false
  | .add _ => true
  | .addImm _ => true
  | .sub _ => true
  | .subImm _ => true
  | .mul _ => true
  | .mulImm _ => true
  | .mulhi _ => true
  | .mulhu _ => true
  | .imad _ => true
  | .imin _ => true
  | .imax _ => true
  | .umin _ => true
  | .umax _ => true
  | .and32 _ => true
  | .andImm _ => true
  | .or32 _ => true
  | .orImm _ => true
  | .xor _ => true
  | .xorImm _ => true
  | .andn _ => true
  | .shl _ => true
  | .shlImm _ => true
  | .shr _ => true
  | .shrImm _ => true
  | .sar _ => true
  | .sarImm _ => true
  | .rol _ => true
  | .rolImm _ => true
  | .clz _ => true
  | .popc _ => true
  | .brev _ => true
  | .bfx _ => true
  | .bfi _ => true
  | .icmpEq _ => true
  | .icmpNe _ => true
  | .icmpLt _ => true
  | .icmpLe _ => true
  | .icmpLtu _ => true
  | .icmpLeu _ => true
  | .icmpGt _ => true
  | .icmpGtu _ => true
  | .sel _ => true
  | .addw _ => true
  | .scaddw2 _ => true
  | .scaddw4 _ => true
  | .scaddw8 _ => true
  | .scaddw16 _ => true
  | .fadd _ => true
  | .fsub _ => true
  | .fmul _ => true
  | .ffma _ => true
  | .ffms _ => true
  | .fmin _ => true
  | .fmax _ => true
  | .fsat _ => true
  | .fcmpEq _ => true
  | .fcmpNe _ => true
  | .fcmpLt _ => true
  | .fcmpLe _ => true
  | .fcmpGt _ => true
  | .fcmpGe _ => true
  | .fcmpOrd _ => true
  | .fcmpUno _ => true
  | .frnd _ => true
  | .fcvti _ => true
  | .icvtf _ => true
  | .ucvtf _ => true
  | .fclass _ => true
  | .fcopysign _ => true
  | .fabs _ => true
  | .fneg _ => true
  | .frcp _ => false
  | .frsq _ => false
  | .fsqrt _ => false
  | .fexp2 _ => false
  | .flog2 _ => false
  | .fsinpi _ => false
  | .fcospi _ => false
  | .ftanh _ => false
  | .bra _ => false
  | .brz _ => false
  | .brnz _ => false
  | .call _ => false
  | .callr _ => false
  | .ret _ => false
  | .jmpr _ => false
  | .cvset _ => false
  | .cvwait _ => false
  | .cvdrop _ => false
  | .exit _ => false
  | .rep _ => false
  | .yield _ => false
  | .sleep _ => false
  | .brk _ => false
  | .trap _ => false
  | .vote _ => false
  | .shfl _ => false
  | .elect _ => false
  | .wake _ => false
  | .ld _ => false
  | .st _ => false
  | .lds _ => false
  | .sts _ => false
  | .atom _ => false
  | .ared _ => false
  | .cas _ => false
  | .fence _ => false
  | .pref _ => false
  | .cctl _ => false
  | .bar _ => false
  | .waitbit _ => false
  | .launch _ => false
  | .csrr _ => false
  | .csrw _ => false
  | .hret _ => false
  | .hesc _ => false
  | .hkill _ => false
  | .bcc _ => false
  | .ffma4 _ => true
  | .rbox _ => true
  | .rtri _ => true
  | .lred _ => false
  | .lscan _ => false
  | .match64 _ => false
  | .compact _ => false
  | .expand _ => false
  | .regroup _ => false
  | .xsend _ => false
  | .xrecv _ => false
  | .tcopy _ => false
  | .bcopy _ => false
  | .ringset _ => false
  | .ringacq _ => false
  | .ringrel _ => false
  | .tokwait _ => false
  | .toktest _ => false
  | .combine _ => false
  | .embg _ => false
  | .embw _ => false
  | .sjob _ => false
  | .mres _ => false
  | .mrel _ => false
  | .accalloc _ => false
  | .accfree _ => false
  | .midx _ => false
  | .jset _ => false
  | .mopr _ => false
  | .mma _ => false
  | .mmas _ => false
  | .mnorm _ => false
  | .mwait _ => false
  | .accrd _ => false
  | .accwr _ => false
  | .acczero _ => false
  | .mvar _ => false
  | .htab _ => false
  | .henc _ => false
  | .hgrad _ => false
  | .vpin _ => false
  | .vunpin _ => false
  | .vpub _ => false
  | .vdrain _ => false
  | .frame _ => false
  | .meter _ => false
  | .bsqStart _ _ => false
  | .bsqPoll _ _ => false
  | .jcardLd _ _ => false
  | .memoryReply _ _ => false
  | .sluiceSend _ _ => false
  | .waitbitReread _ => false
  | .vdrainReread _ => false
  | .commandAccept _ _ => false
  | .millracePublish _ _ => false
  | .millstonePublish _ => false
  | .migrationComplete _ _ => false
  | .furheadWrite _ _ _ => false
  | .swap _ _ => false
  | .chargeReport _ => false
  | .logicalCoreSwitch _ _ => false
  | .srheadWrite _ _ => false
  | .ringEntryRead _ => false
  | .teamPlacement _ _ => false
  | .teamRetire _ => false
  | .jqbloadWrite _ _ => false
  | .preempt _ => false
  | .teamSaveDone _ => false
  | .resume _ => false
  | .teamRestore _ _ => false
  | .escalationResume _ _ => false
  | .registerWrite _ _ _ => false
  | .sfenceVma _ _ => false
  | .l2Flush _ => false
  | .revclr _ => false
  | .extentForcedRelease _ _ => false
  | .poolList _ _ _ => false
  | .poolVec _ _ _ => false
  | .poolStat _ _ _ => false
  | .poolRepl _ _ => false
  | .poolFwd _ _ _ => false
  | .jobRun _ => false
  | .jobUpdate _ => false
  | .jobPairfix _ => false
  | .jobScaleadd _ => false
  | .bankRowBoundary _ _ _ => false
  | .bankSequenceResume _ _ _ _ => false
  | .hbmRetrainRequest _ => false
  | .inboundRequest _ => false
  | .atsRequest _ => false
  | .softError _ => false
  | .coreRetire _ _ => false
  | .l2SliceReplace _ => false
  | .hbmSpare _ => false
  | .recoveryImage _ => false
  | .attestationRequest _ => false
  | .configurationRecordWrite _ => false
  | .platformTime _ => false
  | .powerCapExceeded _ => false
  | .unassignedEncoding _ _ => false
  | .resultWrite _ _ => false
  | .stackEngineInstruction _ => false
  | .hartMemoryAccess _ => false
  | .liveFirmwareLoad _ => false
  | .sleepExpire => false
  | .waitbitLimit => false
  | .ringSlotClaim => false
  | .doneEntryWrite => false
  | .regroupSpawn => false
  | .deadlineExpire => false
  | .escalationEntryWrite => false
  | .hfence => false
  | .l2FlushDone => false
  | .poolScrub => false
  | .poolZero => false
  | .maintenanceDone => false
  | .poolMaint => false
  | .poolMdone => false
  | .poolLinkTimeout => false
  | .runLimitExpire => false
  | .stackJobPublish => false
  | .bankSequenceDone => false
  | .hbmRetrainDone => false
  | .cecntWindow => false
  | .moduleReset => false

/-- The instruction may be the target of a REP: op7 0x00 to 0x67, op9 0x000 to 0x006 or 0x080 to 0x082 (07 R93). -/
def Instr.repTarget : Instr → Bool
  | .mov16 _ => false
  | .add16 _ => false
  | .sub16 _ => false
  | .and16 _ => false
  | .or16 _ => false
  | .xor16 _ => false
  | .shl16 _ => false
  | .shr16 _ => false
  | .sar16 _ => false
  | .imin16 _ => false
  | .imax16 _ => false
  | .fadd16 _ => false
  | .fsub16 _ => false
  | .fmul16 _ => false
  | .fmin16 _ => false
  | .fmax16 _ => false
  | .nop _ => true
  | .mov _ => true
  | .movi _ => true
  | .gmov _ => true
  | .gset _ => true
  | .spr _ => true
  | .add _ => true
  | .addImm _ => true
  | .sub _ => true
  | .subImm _ => true
  | .mul _ => true
  | .mulImm _ => true
  | .mulhi _ => true
  | .mulhu _ => true
  | .imad _ => true
  | .imin _ => true
  | .imax _ => true
  | .umin _ => true
  | .umax _ => true
  | .and32 _ => true
  | .andImm _ => true
  | .or32 _ => true
  | .orImm _ => true
  | .xor _ => true
  | .xorImm _ => true
  | .andn _ => true
  | .shl _ => true
  | .shlImm _ => true
  | .shr _ => true
  | .shrImm _ => true
  | .sar _ => true
  | .sarImm _ => true
  | .rol _ => true
  | .rolImm _ => true
  | .clz _ => true
  | .popc _ => true
  | .brev _ => true
  | .bfx _ => true
  | .bfi _ => true
  | .icmpEq _ => true
  | .icmpNe _ => true
  | .icmpLt _ => true
  | .icmpLe _ => true
  | .icmpLtu _ => true
  | .icmpLeu _ => true
  | .icmpGt _ => true
  | .icmpGtu _ => true
  | .sel _ => true
  | .addw _ => true
  | .scaddw2 _ => true
  | .scaddw4 _ => true
  | .scaddw8 _ => true
  | .scaddw16 _ => true
  | .fadd _ => true
  | .fsub _ => true
  | .fmul _ => true
  | .ffma _ => true
  | .ffms _ => true
  | .fmin _ => true
  | .fmax _ => true
  | .fsat _ => true
  | .fcmpEq _ => true
  | .fcmpNe _ => true
  | .fcmpLt _ => true
  | .fcmpLe _ => true
  | .fcmpGt _ => true
  | .fcmpGe _ => true
  | .fcmpOrd _ => true
  | .fcmpUno _ => true
  | .frnd _ => true
  | .fcvti _ => true
  | .icvtf _ => true
  | .ucvtf _ => true
  | .fclass _ => true
  | .fcopysign _ => true
  | .fabs _ => true
  | .fneg _ => true
  | .frcp _ => true
  | .frsq _ => true
  | .fsqrt _ => true
  | .fexp2 _ => true
  | .flog2 _ => true
  | .fsinpi _ => true
  | .fcospi _ => true
  | .ftanh _ => true
  | .bra _ => false
  | .brz _ => false
  | .brnz _ => false
  | .call _ => false
  | .callr _ => false
  | .ret _ => false
  | .jmpr _ => false
  | .cvset _ => false
  | .cvwait _ => false
  | .cvdrop _ => false
  | .exit _ => false
  | .rep _ => false
  | .yield _ => false
  | .sleep _ => false
  | .brk _ => false
  | .trap _ => false
  | .vote _ => false
  | .shfl _ => false
  | .elect _ => false
  | .wake _ => false
  | .ld _ => true
  | .st _ => true
  | .lds _ => true
  | .sts _ => true
  | .atom _ => true
  | .ared _ => true
  | .cas _ => true
  | .fence _ => false
  | .pref _ => false
  | .cctl _ => false
  | .bar _ => false
  | .waitbit _ => false
  | .launch _ => false
  | .csrr _ => false
  | .csrw _ => false
  | .hret _ => false
  | .hesc _ => false
  | .hkill _ => false
  | .bcc _ => false
  | .ffma4 _ => true
  | .rbox _ => true
  | .rtri _ => true
  | .lred _ => false
  | .lscan _ => false
  | .match64 _ => false
  | .compact _ => false
  | .expand _ => false
  | .regroup _ => false
  | .xsend _ => false
  | .xrecv _ => false
  | .tcopy _ => false
  | .bcopy _ => false
  | .ringset _ => false
  | .ringacq _ => false
  | .ringrel _ => false
  | .tokwait _ => false
  | .toktest _ => false
  | .combine _ => false
  | .embg _ => false
  | .embw _ => false
  | .sjob _ => false
  | .mres _ => false
  | .mrel _ => false
  | .accalloc _ => false
  | .accfree _ => false
  | .midx _ => false
  | .jset _ => false
  | .mopr _ => false
  | .mma _ => false
  | .mmas _ => false
  | .mnorm _ => false
  | .mwait _ => false
  | .accrd _ => false
  | .accwr _ => false
  | .acczero _ => false
  | .mvar _ => false
  | .htab _ => false
  | .henc _ => false
  | .hgrad _ => false
  | .vpin _ => false
  | .vunpin _ => false
  | .vpub _ => false
  | .vdrain _ => false
  | .frame _ => false
  | .meter _ => false
  | .bsqStart _ _ => false
  | .bsqPoll _ _ => false
  | .jcardLd _ _ => false
  | .memoryReply _ _ => false
  | .sluiceSend _ _ => false
  | .waitbitReread _ => false
  | .vdrainReread _ => false
  | .commandAccept _ _ => false
  | .millracePublish _ _ => false
  | .millstonePublish _ => false
  | .migrationComplete _ _ => false
  | .furheadWrite _ _ _ => false
  | .swap _ _ => false
  | .chargeReport _ => false
  | .logicalCoreSwitch _ _ => false
  | .srheadWrite _ _ => false
  | .ringEntryRead _ => false
  | .teamPlacement _ _ => false
  | .teamRetire _ => false
  | .jqbloadWrite _ _ => false
  | .preempt _ => false
  | .teamSaveDone _ => false
  | .resume _ => false
  | .teamRestore _ _ => false
  | .escalationResume _ _ => false
  | .registerWrite _ _ _ => false
  | .sfenceVma _ _ => false
  | .l2Flush _ => false
  | .revclr _ => false
  | .extentForcedRelease _ _ => false
  | .poolList _ _ _ => false
  | .poolVec _ _ _ => false
  | .poolStat _ _ _ => false
  | .poolRepl _ _ => false
  | .poolFwd _ _ _ => false
  | .jobRun _ => false
  | .jobUpdate _ => false
  | .jobPairfix _ => false
  | .jobScaleadd _ => false
  | .bankRowBoundary _ _ _ => false
  | .bankSequenceResume _ _ _ _ => false
  | .hbmRetrainRequest _ => false
  | .inboundRequest _ => false
  | .atsRequest _ => false
  | .softError _ => false
  | .coreRetire _ _ => false
  | .l2SliceReplace _ => false
  | .hbmSpare _ => false
  | .recoveryImage _ => false
  | .attestationRequest _ => false
  | .configurationRecordWrite _ => false
  | .platformTime _ => false
  | .powerCapExceeded _ => false
  | .unassignedEncoding _ _ => false
  | .resultWrite _ _ => false
  | .stackEngineInstruction _ => false
  | .hartMemoryAccess _ => false
  | .liveFirmwareLoad _ => false
  | .sleepExpire => false
  | .waitbitLimit => false
  | .ringSlotClaim => false
  | .doneEntryWrite => false
  | .regroupSpawn => false
  | .deadlineExpire => false
  | .escalationEntryWrite => false
  | .hfence => false
  | .l2FlushDone => false
  | .poolScrub => false
  | .poolZero => false
  | .maintenanceDone => false
  | .poolMaint => false
  | .poolMdone => false
  | .poolLinkTimeout => false
  | .runLimitExpire => false
  | .stackJobPublish => false
  | .bankSequenceDone => false
  | .hbmRetrainDone => false
  | .cecntWindow => false
  | .moduleReset => false

/-! ## The checks of the decoder -/

/-- A field that is not used must be 0, and a run must start at a multiple of its alignment (07 R58, R85, R90). -/
def Use.fieldOk (u : Use) (v : Nat) : Bool :=
  match u with
  | .no => v = 0
  | .raw => true
  | .run _ align => v % align = 0

/-- A last-use bit may be set only on a v register the instruction reads (07 R85, R90). -/
def Use.lastOk (u : Use) (last bit : Bool) : Bool :=
  match u with
  | .run _ _ => last || !bit
  | _ => !bit

/-- Every bit that must be 0 is 0 and every value is defined: a failure is cause 0x002 (07 R94). -/
def Instr.bitsOk (i : Instr) : Bool :=
  let f := i.fields
  let m := i.form
  m.ok && m.d.fieldOk f.vd && m.a.fieldOk f.va && m.c.fieldOk f.vc &&
    (if f.g && i.kind ≠ .event then 0 < m.gmax && !f.lb else m.b.fieldOk f.vb && m.b.lastOk m.last f.lb) &&
    m.a.lastOk m.last f.la && m.c.lastOk m.last f.lc &&
    (m.imm || f.imm = 0 || i.kind ≠ .double)

/-- The group registers named lie inside the layout's range: a failure is cause 0x004 (07 R58, R82, R89, R94). -/
def Instr.groupsOk (i : Instr) : Bool :=
  let f := i.fields
  let m := i.form
  (m.gmax = 0 || f.gidx + (if f.g then m.grun else 1) ≤ m.gmax) &&
    (match m.more with
     | some (p, n) => p + n ≤ 384
     | none => true)

/-- A use's run reaches past the allocation (07 R58, 13 R164). -/
def Use.beyond (u : Use) (v nregs : Nat) : Bool :=
  match u with
  | .run n _ => nregs < v + n
  | _ => false

/-- The v registers named lie inside the allocation of nregs registers: a failure is cause 0x004 (07 R94). -/
def Instr.regsOk (i : Instr) (nregs : Nat) : Bool :=
  let f := i.fields
  let m := i.form
  !(m.d.beyond f.vd nregs || m.a.beyond f.va nregs || m.c.beyond f.vc nregs ||
    (!f.g && m.b.beyond f.vb nregs))

/-- Privileged instructions and accesses to privileged CSRs (07 R94; 19 R234, R236). -/
def Instr.privileged : Instr → Bool
  | .hret _ | .hesc _ | .hkill _ => true
  | .csrr f | .csrw f => csrPrivileged (f.mod.toNat % 4096)
  | _ => false

/-- The cause the decoder raises for an instruction in a crew of nregs registers, in handler mode or not: the lowest
that applies (07 R94). -/
def Instr.decodeCause (i : Instr) (nregs : Nat) (handler : Bool) : Option Nat :=
  match i with
  | .unassignedEncoding _ _ => some 0x001
  | _ =>
    if !i.bitsOk then some 0x002
    else if i.privileged && !handler then some 0x003
    else if !i.groupsOk || !i.regsOk nregs then some 0x004
    else none

end Sys2Proof
end

