-- ==== Sys2Proof/WellFormed.lean ====
section
/-! DEFINITION. Well-formed instructions: the terms of Instr that stand for an encoding of the spec. -/

namespace Sys2Proof

/-- A word whose op7 or op9 is unassigned (07 R84, R91). -/
def unassignedWord (long : Bool) (w : BitVec 64) : Bool :=
  let op7 := fieldOf w.toNat 10 4
  let op9 := fieldOf w.toNat 12 4
  if long then
    fieldOf w.toNat 1 0 = 3 &&
      !(op9 < 0x00A || (0x040 ≤ op9 && op9 < 0x049) || (0x080 ≤ op9 && op9 < 0x08B) ||
        (0x0C0 ≤ op9 && op9 < 0x0CB) || (0x100 ≤ op9 && op9 < 0x10F) || (0x140 ≤ op9 && op9 < 0x149))
  else
    fieldOf w.toNat 1 0 = 1 && w.toNat < 2 ^ 32 &&
      (op7 = 0x06 || op7 = 0x07 || (0x37 ≤ op7 && op7 < 0x40) || (0x58 ≤ op7 && op7 < 0x60) || 0x7C ≤ op7)

/-- The term stands for an encoding: it has one, every bit that must be 0 is 0, every value is defined and every group
index lies in its layout's range (07 R94). The allocation and the handler mode are the crew's and are checked at issue. -/
def Instr.wellFormed (i : Instr) : Bool :=
  match i with
  | .unassignedEncoding long w => unassignedWord long w
  | _ => i.kind ≠ .event && i.bitsOk && i.groupsOk

end Sys2Proof
end

