-- ==== Sys2Proof/Decode.lean ====
section
/-! DEFINITION. The decoder, total on any bytes, and the encoder, both written from the encoding tables of 07 R77 to R91
and 29 R328. -/

namespace Sys2Proof

/-- Why bytes are not an instruction (07 R94). -/
inductive DecodeError where
  /-- fewer bytes than the first halfword's length asks for -/
  | tooShort
  /-- a bit that must be 0 is 1, or a value is reserved: cause 0x002 (R94); with the instruction its opcode and fields
  name -/
  | reservedBits (i : Instr)
  /-- a group index above the layout's range: cause 0x004 (R94), with the instruction -/
  | groupRange (i : Instr)
  /-- a custom-0 word of a stack engine outside 29 R328: an illegal instruction there -/
  | notCustom
  deriving DecidableEq, Repr

/-- The instruction that refused bytes name, whose stall count still holds (05 R66). -/
def DecodeError.named : DecodeError → Instr
  | .reservedBits i | .groupRange i => i
  | _ => .unassignedEncoding false 0

/-- The cause of refused bytes in a crew of nregs registers, in handler mode or not: the lowest that applies (07 R94). -/
def DecodeError.cause (e : DecodeError) (nregs : Nat) (handler : Bool) : Nat :=
  match e with
  | .groupRange i => (i.decodeCause nregs handler).getD 0x004
  | _ => 0x002

namespace Decode

/-- Bits [lo + n - 1:lo] of a word. -/
abbrev at' {w : Nat} (x : BitVec w) (lo n : Nat) : BitVec n := x.extractLsb' lo n

/-- Bit k of a word. -/
abbrev bit {w : Nat} (x : BitVec w) (k : Nat) : Bool := x.getLsbD k

def h16 (w : BitVec 16) : H16 := { vd := at' w 5 6, vb := at' w 11 5 }
def n32 (w : BitVec 32) : N := { s := at' w 2 2 }
def v3 (w : BitVec 32) : V3 :=
  { s := at' w 2 2, vd := at' w 11 6, va := at' w 17 6, vb := at' w 23 6
    la := bit w 29, lb := bit w 30, g := bit w 31 }
def vi (w : BitVec 32) : VI :=
  { s := at' w 2 2, vd := at' w 11 6, va := at' w 17 6, la := bit w 23, imm := at' w 24 8 }
def g9 (w : BitVec 32) : G9 := { s := at' w 2 2, v := at' w 11 6, n := at' w 17 9 }
def br (w : BitVec 32) : BR := { s := at' w 2 2, d := at' w 11 21 }
def bz (w : BitVec 32) : BZ := { s := at' w 2 2, va := at' w 11 6, d := at' w 17 15 }
def cv (w : BitVec 32) : CV := { s := at' w 2 2, c := at' w 11 4 }
def rp (w : BitVec 32) : RP :=
  { s := at' w 2 2, n := at' w 11 6, d := bit w 17, a := bit w 18, b := bit w 19 }
def i8 (w : BitVec 32) : I8 := { s := at' w 2 2, imm := at' w 11 8 }
def f64 (w : BitVec 64) : F64 :=
  { s := at' w 2 2, vd := at' w 13 6, va := at' w 19 6, vb := at' w 25 6, vc := at' w 31 6
    la := bit w 37, lb := bit w 38, lc := bit w 39, gb := bit w 40, imm := at' w 41 8, mod := at' w 49 15 }

/-- One bit. -/
abbrev b1 (b : Bool) : BitVec 1 := BitVec.ofBool b

def packH (op : BitVec 4) (f : H16) : BitVec 16 := f.vb ++ f.vd ++ op ++ 0#1
def packN (op : BitVec 7) (f : N) : BitVec 32 := 0#21 ++ op ++ f.s ++ 1#2
def packV3 (op : BitVec 7) (f : V3) : BitVec 32 :=
  b1 f.g ++ b1 f.lb ++ b1 f.la ++ f.vb ++ f.va ++ f.vd ++ op ++ f.s ++ 1#2
def packVI (op : BitVec 7) (f : VI) : BitVec 32 :=
  f.imm ++ b1 f.la ++ f.va ++ f.vd ++ op ++ f.s ++ 1#2
def packG9 (op : BitVec 7) (f : G9) : BitVec 32 := 0#6 ++ f.n ++ f.v ++ op ++ f.s ++ 1#2
def packBR (op : BitVec 7) (f : BR) : BitVec 32 := f.d ++ op ++ f.s ++ 1#2
def packBZ (op : BitVec 7) (f : BZ) : BitVec 32 := f.d ++ f.va ++ op ++ f.s ++ 1#2
def packCV (op : BitVec 7) (f : CV) : BitVec 32 := 0#17 ++ f.c ++ op ++ f.s ++ 1#2
def packRP (op : BitVec 7) (f : RP) : BitVec 32 :=
  0#12 ++ b1 f.b ++ b1 f.a ++ b1 f.d ++ f.n ++ op ++ f.s ++ 1#2
def packI8 (op : BitVec 7) (f : I8) : BitVec 32 := 0#13 ++ f.imm ++ op ++ f.s ++ 1#2
def packF (op : BitVec 9) (f : F64) : BitVec 64 :=
  f.mod ++ f.imm ++ b1 f.gb ++ b1 f.lc ++ b1 f.lb ++ b1 f.la ++ f.vc ++ f.vb ++ f.va ++ f.vd ++ op ++ f.s ++ 3#2

/-- The bits of a layout that its instruction does not define, which must be 0 (07 R81): the lowest such bit. -/
def clearFrom (lo : Nat) (w : BitVec 32) : Bool := w.toNat / 2 ^ lo = 0

/-- The 16-bit opcodes (07 R79), part 0. -/
def op4Table0 : List (Nat × (BitVec 16 → Instr)) :=
  [(0x0, fun w => .mov16 (h16 w)),
   (0x1, fun w => .add16 (h16 w)),
   (0x2, fun w => .sub16 (h16 w)),
   (0x3, fun w => .and16 (h16 w)),
   (0x4, fun w => .or16 (h16 w)),
   (0x5, fun w => .xor16 (h16 w)),
   (0x6, fun w => .shl16 (h16 w)),
   (0x7, fun w => .shr16 (h16 w)),
   (0x8, fun w => .sar16 (h16 w)),
   (0x9, fun w => .imin16 (h16 w)),
   (0xA, fun w => .imax16 (h16 w)),
   (0xB, fun w => .fadd16 (h16 w)),
   (0xC, fun w => .fsub16 (h16 w)),
   (0xD, fun w => .fmul16 (h16 w)),
   (0xE, fun w => .fmin16 (h16 w)),
   (0xF, fun w => .fmax16 (h16 w))]

/-- The 16-bit opcodes (07 R79). -/
def op4Table : List (Nat × (BitVec 16 → Instr)) := op4Table0

/-- The 32-bit opcodes, each with the first bit above its layout (07 R81, R84), part 0. -/
def op7Table0 : List (Nat × (Nat × (BitVec 32 → Instr))) :=
  [(0x00, 11, fun w => .nop (n32 w)),
   (0x01, 32, fun w => .mov (v3 w)),
   (0x02, 32, fun w => .movi (vi w)),
   (0x03, 26, fun w => .gmov (g9 w)),
   (0x04, 26, fun w => .gset (g9 w)),
   (0x05, 32, fun w => .spr (vi w)),
   (0x08, 32, fun w => .add (v3 w)),
   (0x09, 32, fun w => .addImm (vi w)),
   (0x0A, 32, fun w => .sub (v3 w)),
   (0x0B, 32, fun w => .subImm (vi w)),
   (0x0C, 32, fun w => .mul (v3 w)),
   (0x0D, 32, fun w => .mulImm (vi w)),
   (0x0E, 32, fun w => .mulhi (v3 w)),
   (0x0F, 32, fun w => .mulhu (v3 w)),
   (0x10, 32, fun w => .imad (v3 w)),
   (0x11, 32, fun w => .imin (v3 w)),
   (0x12, 32, fun w => .imax (v3 w)),
   (0x13, 32, fun w => .umin (v3 w)),
   (0x14, 32, fun w => .umax (v3 w)),
   (0x15, 32, fun w => .and32 (v3 w)),
   (0x16, 32, fun w => .andImm (vi w)),
   (0x17, 32, fun w => .or32 (v3 w)),
   (0x18, 32, fun w => .orImm (vi w)),
   (0x19, 32, fun w => .xor (v3 w))]

/-- The 32-bit opcodes, each with the first bit above its layout (07 R81, R84), part 1. -/
def op7Table1 : List (Nat × (Nat × (BitVec 32 → Instr))) :=
  [(0x1A, 32, fun w => .xorImm (vi w)),
   (0x1B, 32, fun w => .andn (v3 w)),
   (0x1C, 32, fun w => .shl (v3 w)),
   (0x1D, 32, fun w => .shlImm (vi w)),
   (0x1E, 32, fun w => .shr (v3 w)),
   (0x1F, 32, fun w => .shrImm (vi w)),
   (0x20, 32, fun w => .sar (v3 w)),
   (0x21, 32, fun w => .sarImm (vi w)),
   (0x22, 32, fun w => .rol (v3 w)),
   (0x23, 32, fun w => .rolImm (vi w)),
   (0x24, 32, fun w => .clz (v3 w)),
   (0x25, 32, fun w => .popc (v3 w)),
   (0x26, 32, fun w => .brev (v3 w)),
   (0x27, 32, fun w => .bfx (v3 w)),
   (0x28, 32, fun w => .bfi (v3 w)),
   (0x29, 32, fun w => .icmpEq (v3 w)),
   (0x2A, 32, fun w => .icmpNe (v3 w)),
   (0x2B, 32, fun w => .icmpLt (v3 w)),
   (0x2C, 32, fun w => .icmpLe (v3 w)),
   (0x2D, 32, fun w => .icmpLtu (v3 w)),
   (0x2E, 32, fun w => .icmpLeu (v3 w)),
   (0x2F, 32, fun w => .icmpGt (v3 w)),
   (0x30, 32, fun w => .icmpGtu (v3 w)),
   (0x31, 32, fun w => .sel (v3 w))]

/-- The 32-bit opcodes, each with the first bit above its layout (07 R81, R84), part 2. -/
def op7Table2 : List (Nat × (Nat × (BitVec 32 → Instr))) :=
  [(0x32, 32, fun w => .addw (v3 w)),
   (0x33, 32, fun w => .scaddw2 (v3 w)),
   (0x34, 32, fun w => .scaddw4 (v3 w)),
   (0x35, 32, fun w => .scaddw8 (v3 w)),
   (0x36, 32, fun w => .scaddw16 (v3 w)),
   (0x40, 32, fun w => .fadd (v3 w)),
   (0x41, 32, fun w => .fsub (v3 w)),
   (0x42, 32, fun w => .fmul (v3 w)),
   (0x43, 32, fun w => .ffma (v3 w)),
   (0x44, 32, fun w => .ffms (v3 w)),
   (0x45, 32, fun w => .fmin (v3 w)),
   (0x46, 32, fun w => .fmax (v3 w)),
   (0x47, 32, fun w => .fsat (v3 w)),
   (0x48, 32, fun w => .fcmpEq (v3 w)),
   (0x49, 32, fun w => .fcmpNe (v3 w)),
   (0x4A, 32, fun w => .fcmpLt (v3 w)),
   (0x4B, 32, fun w => .fcmpLe (v3 w)),
   (0x4C, 32, fun w => .fcmpGt (v3 w)),
   (0x4D, 32, fun w => .fcmpGe (v3 w)),
   (0x4E, 32, fun w => .fcmpOrd (v3 w)),
   (0x4F, 32, fun w => .fcmpUno (v3 w)),
   (0x50, 32, fun w => .frnd (v3 w)),
   (0x51, 32, fun w => .fcvti (v3 w)),
   (0x52, 32, fun w => .icvtf (v3 w))]

/-- The 32-bit opcodes, each with the first bit above its layout (07 R81, R84), part 3. -/
def op7Table3 : List (Nat × (Nat × (BitVec 32 → Instr))) :=
  [(0x53, 32, fun w => .ucvtf (v3 w)),
   (0x54, 32, fun w => .fclass (v3 w)),
   (0x55, 32, fun w => .fcopysign (v3 w)),
   (0x56, 32, fun w => .fabs (v3 w)),
   (0x57, 32, fun w => .fneg (v3 w)),
   (0x60, 32, fun w => .frcp (v3 w)),
   (0x61, 32, fun w => .frsq (v3 w)),
   (0x62, 32, fun w => .fsqrt (v3 w)),
   (0x63, 32, fun w => .fexp2 (v3 w)),
   (0x64, 32, fun w => .flog2 (v3 w)),
   (0x65, 32, fun w => .fsinpi (v3 w)),
   (0x66, 32, fun w => .fcospi (v3 w)),
   (0x67, 32, fun w => .ftanh (v3 w)),
   (0x68, 32, fun w => .bra (br w)),
   (0x69, 32, fun w => .brz (bz w)),
   (0x6A, 32, fun w => .brnz (bz w)),
   (0x6B, 32, fun w => .call (br w)),
   (0x6C, 32, fun w => .callr (v3 w)),
   (0x6D, 11, fun w => .ret (n32 w)),
   (0x6E, 32, fun w => .jmpr (v3 w)),
   (0x6F, 15, fun w => .cvset (cv w)),
   (0x70, 15, fun w => .cvwait (cv w)),
   (0x71, 15, fun w => .cvdrop (cv w)),
   (0x72, 11, fun w => .exit (n32 w))]

/-- The 32-bit opcodes, each with the first bit above its layout (07 R81, R84), part 4. -/
def op7Table4 : List (Nat × (Nat × (BitVec 32 → Instr))) :=
  [(0x73, 20, fun w => .rep (rp w)),
   (0x74, 11, fun w => .yield (n32 w)),
   (0x75, 19, fun w => .sleep (i8 w)),
   (0x76, 19, fun w => .brk (i8 w)),
   (0x77, 19, fun w => .trap (i8 w)),
   (0x78, 32, fun w => .vote (v3 w)),
   (0x79, 32, fun w => .shfl (v3 w)),
   (0x7A, 32, fun w => .elect (v3 w)),
   (0x7B, 32, fun w => .wake (v3 w))]

/-- The 32-bit opcodes, each with the first bit above its layout (07 R81, R84). -/
def op7Table : List (Nat × (Nat × (BitVec 32 → Instr))) := op7Table0 ++ op7Table1 ++ op7Table2 ++ op7Table3 ++ op7Table4

/-- The 64-bit opcodes (07 R91), part 0. -/
def op9Table0 : List (Nat × (BitVec 64 → Instr)) :=
  [(0x000, fun w => .ld (f64 w)),
   (0x001, fun w => .st (f64 w)),
   (0x002, fun w => .lds (f64 w)),
   (0x003, fun w => .sts (f64 w)),
   (0x004, fun w => .atom (f64 w)),
   (0x005, fun w => .ared (f64 w)),
   (0x006, fun w => .cas (f64 w)),
   (0x007, fun w => .fence (f64 w)),
   (0x008, fun w => .pref (f64 w)),
   (0x009, fun w => .cctl (f64 w)),
   (0x040, fun w => .bar (f64 w)),
   (0x041, fun w => .waitbit (f64 w)),
   (0x042, fun w => .launch (f64 w)),
   (0x043, fun w => .csrr (f64 w)),
   (0x044, fun w => .csrw (f64 w)),
   (0x045, fun w => .hret (f64 w)),
   (0x046, fun w => .hesc (f64 w)),
   (0x047, fun w => .hkill (f64 w)),
   (0x048, fun w => .bcc (f64 w)),
   (0x080, fun w => .ffma4 (f64 w)),
   (0x081, fun w => .rbox (f64 w)),
   (0x082, fun w => .rtri (f64 w)),
   (0x083, fun w => .lred (f64 w)),
   (0x084, fun w => .lscan (f64 w))]

/-- The 64-bit opcodes (07 R91), part 1. -/
def op9Table1 : List (Nat × (BitVec 64 → Instr)) :=
  [(0x085, fun w => .match64 (f64 w)),
   (0x086, fun w => .compact (f64 w)),
   (0x087, fun w => .expand (f64 w)),
   (0x088, fun w => .regroup (f64 w)),
   (0x089, fun w => .xsend (f64 w)),
   (0x08A, fun w => .xrecv (f64 w)),
   (0x0C0, fun w => .tcopy (f64 w)),
   (0x0C1, fun w => .bcopy (f64 w)),
   (0x0C2, fun w => .ringset (f64 w)),
   (0x0C3, fun w => .ringacq (f64 w)),
   (0x0C4, fun w => .ringrel (f64 w)),
   (0x0C5, fun w => .tokwait (f64 w)),
   (0x0C6, fun w => .toktest (f64 w)),
   (0x0C7, fun w => .combine (f64 w)),
   (0x0C8, fun w => .embg (f64 w)),
   (0x0C9, fun w => .embw (f64 w)),
   (0x0CA, fun w => .sjob (f64 w)),
   (0x100, fun w => .mres (f64 w)),
   (0x101, fun w => .mrel (f64 w)),
   (0x102, fun w => .accalloc (f64 w)),
   (0x103, fun w => .accfree (f64 w)),
   (0x104, fun w => .midx (f64 w)),
   (0x105, fun w => .jset (f64 w)),
   (0x106, fun w => .mopr (f64 w))]

/-- The 64-bit opcodes (07 R91), part 2. -/
def op9Table2 : List (Nat × (BitVec 64 → Instr)) :=
  [(0x107, fun w => .mma (f64 w)),
   (0x108, fun w => .mmas (f64 w)),
   (0x109, fun w => .mnorm (f64 w)),
   (0x10A, fun w => .mwait (f64 w)),
   (0x10B, fun w => .accrd (f64 w)),
   (0x10C, fun w => .accwr (f64 w)),
   (0x10D, fun w => .acczero (f64 w)),
   (0x10E, fun w => .mvar (f64 w)),
   (0x140, fun w => .htab (f64 w)),
   (0x141, fun w => .henc (f64 w)),
   (0x142, fun w => .hgrad (f64 w)),
   (0x143, fun w => .vpin (f64 w)),
   (0x144, fun w => .vunpin (f64 w)),
   (0x145, fun w => .vpub (f64 w)),
   (0x146, fun w => .vdrain (f64 w)),
   (0x147, fun w => .frame (f64 w)),
   (0x148, fun w => .meter (f64 w))]

/-- The 64-bit opcodes (07 R91). -/
def op9Table : List (Nat × (BitVec 64 → Instr)) := op9Table0 ++ op9Table1 ++ op9Table2

/-- The entry of an opcode in a table. -/
def find {α : Type} : List (Nat × α) → Nat → Option α
  | [], _ => none
  | (k, v) :: rest, n => if k = n then some v else find rest n

/-- A decoded instruction, unless a bit breaks its layout or a group index its range (07 R94). -/
def checked (i : Instr) (clear : Bool) : Except DecodeError Instr :=
  if !clear || !i.bitsOk then .error (.reservedBits i)
  else if !i.groupsOk then .error (.groupRange i)
  else .ok i

def half (w : BitVec 16) : Except DecodeError Instr :=
  match find op4Table (at' w 1 4).toNat with
  | some f => checked (f w) true
  | none => .ok (.unassignedEncoding false (w.setWidth 64))

def word (w : BitVec 32) : Except DecodeError Instr :=
  match find op7Table (at' w 4 7).toNat with
  | some (lo, f) => checked (f w) (clearFrom lo w)
  | none => .ok (.unassignedEncoding false (w.setWidth 64))

def double (w : BitVec 64) : Except DecodeError Instr :=
  match find op9Table (at' w 4 9).toNat with
  | some f => checked (f w) true
  | none => .ok (.unassignedEncoding true w)

/-- Little-endian value of bytes (00 R3). -/
def leNat : List Byte → Nat
  | [] => 0
  | b :: bs => b.toNat + 256 * leNat bs

/-- The n low bytes of a number, least significant first (00 R3). -/
def leBytes : Nat → Nat → List Byte
  | 0, _ => []
  | n + 1, v => BitVec.ofNat 8 v :: leBytes n (v / 256)

/-- The length in bytes that the first halfword gives (07 R77). -/
def lengthOf (first : Nat) : Nat := if first % 2 = 0 then 2 else if first % 4 = 1 then 4 else 8

end Decode

open Decode

/-- Decodes the instruction at the head of bytes (07 R77 to R94): the instruction and the bytes after it. -/
def decode (bytes : List Byte) : Except DecodeError (Instr × List Byte) :=
  match bytes with
  | b0 :: _ :: _ =>
    let n := lengthOf b0.toNat
    if bytes.length < n then .error .tooShort
    else
      let w := leNat (bytes.take n)
      let r :=
        if n = 2 then half (BitVec.ofNat 16 w)
        else if n = 4 then word (BitVec.ofNat 32 w)
        else double (BitVec.ofNat 64 w)
      r.map fun i => (i, bytes.drop n)
  | _ => .error .tooShort

/-- The three custom instructions of a stack engine (29 R328): funct7 and rs2 are 0 and funct3 is 0, 1 or 2. -/
def decodeCustom (w : BitVec 32) : Except DecodeError Instr :=
  let rd := at' w 7 5
  let rs1 := at' w 15 5
  if (at' w 0 7).toNat ≠ 0x0B || (at' w 20 12).toNat ≠ 0 then .error .notCustom
  else
    match (at' w 12 3).toNat with
    | 0 => .ok (.bsqStart rd rs1)
    | 1 => .ok (.bsqPoll rd rs1)
    | 2 => .ok (.jcardLd rd rs1)
    | _ => .error .notCustom

/-- The words of an instruction as one little-endian number with its length in bytes: none for an event. -/
def encode : Instr → Option (Nat × Nat)
  | .mov16 f => some (2, (packH 0x0#4 f).toNat)
  | .add16 f => some (2, (packH 0x1#4 f).toNat)
  | .sub16 f => some (2, (packH 0x2#4 f).toNat)
  | .and16 f => some (2, (packH 0x3#4 f).toNat)
  | .or16 f => some (2, (packH 0x4#4 f).toNat)
  | .xor16 f => some (2, (packH 0x5#4 f).toNat)
  | .shl16 f => some (2, (packH 0x6#4 f).toNat)
  | .shr16 f => some (2, (packH 0x7#4 f).toNat)
  | .sar16 f => some (2, (packH 0x8#4 f).toNat)
  | .imin16 f => some (2, (packH 0x9#4 f).toNat)
  | .imax16 f => some (2, (packH 0xA#4 f).toNat)
  | .fadd16 f => some (2, (packH 0xB#4 f).toNat)
  | .fsub16 f => some (2, (packH 0xC#4 f).toNat)
  | .fmul16 f => some (2, (packH 0xD#4 f).toNat)
  | .fmin16 f => some (2, (packH 0xE#4 f).toNat)
  | .fmax16 f => some (2, (packH 0xF#4 f).toNat)
  | .nop f => some (4, (packN 0x00#7 f).toNat)
  | .mov f => some (4, (packV3 0x01#7 f).toNat)
  | .movi f => some (4, (packVI 0x02#7 f).toNat)
  | .gmov f => some (4, (packG9 0x03#7 f).toNat)
  | .gset f => some (4, (packG9 0x04#7 f).toNat)
  | .spr f => some (4, (packVI 0x05#7 f).toNat)
  | .add f => some (4, (packV3 0x08#7 f).toNat)
  | .addImm f => some (4, (packVI 0x09#7 f).toNat)
  | .sub f => some (4, (packV3 0x0A#7 f).toNat)
  | .subImm f => some (4, (packVI 0x0B#7 f).toNat)
  | .mul f => some (4, (packV3 0x0C#7 f).toNat)
  | .mulImm f => some (4, (packVI 0x0D#7 f).toNat)
  | .mulhi f => some (4, (packV3 0x0E#7 f).toNat)
  | .mulhu f => some (4, (packV3 0x0F#7 f).toNat)
  | .imad f => some (4, (packV3 0x10#7 f).toNat)
  | .imin f => some (4, (packV3 0x11#7 f).toNat)
  | .imax f => some (4, (packV3 0x12#7 f).toNat)
  | .umin f => some (4, (packV3 0x13#7 f).toNat)
  | .umax f => some (4, (packV3 0x14#7 f).toNat)
  | .and32 f => some (4, (packV3 0x15#7 f).toNat)
  | .andImm f => some (4, (packVI 0x16#7 f).toNat)
  | .or32 f => some (4, (packV3 0x17#7 f).toNat)
  | .orImm f => some (4, (packVI 0x18#7 f).toNat)
  | .xor f => some (4, (packV3 0x19#7 f).toNat)
  | .xorImm f => some (4, (packVI 0x1A#7 f).toNat)
  | .andn f => some (4, (packV3 0x1B#7 f).toNat)
  | .shl f => some (4, (packV3 0x1C#7 f).toNat)
  | .shlImm f => some (4, (packVI 0x1D#7 f).toNat)
  | .shr f => some (4, (packV3 0x1E#7 f).toNat)
  | .shrImm f => some (4, (packVI 0x1F#7 f).toNat)
  | .sar f => some (4, (packV3 0x20#7 f).toNat)
  | .sarImm f => some (4, (packVI 0x21#7 f).toNat)
  | .rol f => some (4, (packV3 0x22#7 f).toNat)
  | .rolImm f => some (4, (packVI 0x23#7 f).toNat)
  | .clz f => some (4, (packV3 0x24#7 f).toNat)
  | .popc f => some (4, (packV3 0x25#7 f).toNat)
  | .brev f => some (4, (packV3 0x26#7 f).toNat)
  | .bfx f => some (4, (packV3 0x27#7 f).toNat)
  | .bfi f => some (4, (packV3 0x28#7 f).toNat)
  | .icmpEq f => some (4, (packV3 0x29#7 f).toNat)
  | .icmpNe f => some (4, (packV3 0x2A#7 f).toNat)
  | .icmpLt f => some (4, (packV3 0x2B#7 f).toNat)
  | .icmpLe f => some (4, (packV3 0x2C#7 f).toNat)
  | .icmpLtu f => some (4, (packV3 0x2D#7 f).toNat)
  | .icmpLeu f => some (4, (packV3 0x2E#7 f).toNat)
  | .icmpGt f => some (4, (packV3 0x2F#7 f).toNat)
  | .icmpGtu f => some (4, (packV3 0x30#7 f).toNat)
  | .sel f => some (4, (packV3 0x31#7 f).toNat)
  | .addw f => some (4, (packV3 0x32#7 f).toNat)
  | .scaddw2 f => some (4, (packV3 0x33#7 f).toNat)
  | .scaddw4 f => some (4, (packV3 0x34#7 f).toNat)
  | .scaddw8 f => some (4, (packV3 0x35#7 f).toNat)
  | .scaddw16 f => some (4, (packV3 0x36#7 f).toNat)
  | .fadd f => some (4, (packV3 0x40#7 f).toNat)
  | .fsub f => some (4, (packV3 0x41#7 f).toNat)
  | .fmul f => some (4, (packV3 0x42#7 f).toNat)
  | .ffma f => some (4, (packV3 0x43#7 f).toNat)
  | .ffms f => some (4, (packV3 0x44#7 f).toNat)
  | .fmin f => some (4, (packV3 0x45#7 f).toNat)
  | .fmax f => some (4, (packV3 0x46#7 f).toNat)
  | .fsat f => some (4, (packV3 0x47#7 f).toNat)
  | .fcmpEq f => some (4, (packV3 0x48#7 f).toNat)
  | .fcmpNe f => some (4, (packV3 0x49#7 f).toNat)
  | .fcmpLt f => some (4, (packV3 0x4A#7 f).toNat)
  | .fcmpLe f => some (4, (packV3 0x4B#7 f).toNat)
  | .fcmpGt f => some (4, (packV3 0x4C#7 f).toNat)
  | .fcmpGe f => some (4, (packV3 0x4D#7 f).toNat)
  | .fcmpOrd f => some (4, (packV3 0x4E#7 f).toNat)
  | .fcmpUno f => some (4, (packV3 0x4F#7 f).toNat)
  | .frnd f => some (4, (packV3 0x50#7 f).toNat)
  | .fcvti f => some (4, (packV3 0x51#7 f).toNat)
  | .icvtf f => some (4, (packV3 0x52#7 f).toNat)
  | .ucvtf f => some (4, (packV3 0x53#7 f).toNat)
  | .fclass f => some (4, (packV3 0x54#7 f).toNat)
  | .fcopysign f => some (4, (packV3 0x55#7 f).toNat)
  | .fabs f => some (4, (packV3 0x56#7 f).toNat)
  | .fneg f => some (4, (packV3 0x57#7 f).toNat)
  | .frcp f => some (4, (packV3 0x60#7 f).toNat)
  | .frsq f => some (4, (packV3 0x61#7 f).toNat)
  | .fsqrt f => some (4, (packV3 0x62#7 f).toNat)
  | .fexp2 f => some (4, (packV3 0x63#7 f).toNat)
  | .flog2 f => some (4, (packV3 0x64#7 f).toNat)
  | .fsinpi f => some (4, (packV3 0x65#7 f).toNat)
  | .fcospi f => some (4, (packV3 0x66#7 f).toNat)
  | .ftanh f => some (4, (packV3 0x67#7 f).toNat)
  | .bra f => some (4, (packBR 0x68#7 f).toNat)
  | .brz f => some (4, (packBZ 0x69#7 f).toNat)
  | .brnz f => some (4, (packBZ 0x6A#7 f).toNat)
  | .call f => some (4, (packBR 0x6B#7 f).toNat)
  | .callr f => some (4, (packV3 0x6C#7 f).toNat)
  | .ret f => some (4, (packN 0x6D#7 f).toNat)
  | .jmpr f => some (4, (packV3 0x6E#7 f).toNat)
  | .cvset f => some (4, (packCV 0x6F#7 f).toNat)
  | .cvwait f => some (4, (packCV 0x70#7 f).toNat)
  | .cvdrop f => some (4, (packCV 0x71#7 f).toNat)
  | .exit f => some (4, (packN 0x72#7 f).toNat)
  | .rep f => some (4, (packRP 0x73#7 f).toNat)
  | .yield f => some (4, (packN 0x74#7 f).toNat)
  | .sleep f => some (4, (packI8 0x75#7 f).toNat)
  | .brk f => some (4, (packI8 0x76#7 f).toNat)
  | .trap f => some (4, (packI8 0x77#7 f).toNat)
  | .vote f => some (4, (packV3 0x78#7 f).toNat)
  | .shfl f => some (4, (packV3 0x79#7 f).toNat)
  | .elect f => some (4, (packV3 0x7A#7 f).toNat)
  | .wake f => some (4, (packV3 0x7B#7 f).toNat)
  | .ld f => some (8, (packF 0x000#9 f).toNat)
  | .st f => some (8, (packF 0x001#9 f).toNat)
  | .lds f => some (8, (packF 0x002#9 f).toNat)
  | .sts f => some (8, (packF 0x003#9 f).toNat)
  | .atom f => some (8, (packF 0x004#9 f).toNat)
  | .ared f => some (8, (packF 0x005#9 f).toNat)
  | .cas f => some (8, (packF 0x006#9 f).toNat)
  | .fence f => some (8, (packF 0x007#9 f).toNat)
  | .pref f => some (8, (packF 0x008#9 f).toNat)
  | .cctl f => some (8, (packF 0x009#9 f).toNat)
  | .bar f => some (8, (packF 0x040#9 f).toNat)
  | .waitbit f => some (8, (packF 0x041#9 f).toNat)
  | .launch f => some (8, (packF 0x042#9 f).toNat)
  | .csrr f => some (8, (packF 0x043#9 f).toNat)
  | .csrw f => some (8, (packF 0x044#9 f).toNat)
  | .hret f => some (8, (packF 0x045#9 f).toNat)
  | .hesc f => some (8, (packF 0x046#9 f).toNat)
  | .hkill f => some (8, (packF 0x047#9 f).toNat)
  | .bcc f => some (8, (packF 0x048#9 f).toNat)
  | .ffma4 f => some (8, (packF 0x080#9 f).toNat)
  | .rbox f => some (8, (packF 0x081#9 f).toNat)
  | .rtri f => some (8, (packF 0x082#9 f).toNat)
  | .lred f => some (8, (packF 0x083#9 f).toNat)
  | .lscan f => some (8, (packF 0x084#9 f).toNat)
  | .match64 f => some (8, (packF 0x085#9 f).toNat)
  | .compact f => some (8, (packF 0x086#9 f).toNat)
  | .expand f => some (8, (packF 0x087#9 f).toNat)
  | .regroup f => some (8, (packF 0x088#9 f).toNat)
  | .xsend f => some (8, (packF 0x089#9 f).toNat)
  | .xrecv f => some (8, (packF 0x08A#9 f).toNat)
  | .tcopy f => some (8, (packF 0x0C0#9 f).toNat)
  | .bcopy f => some (8, (packF 0x0C1#9 f).toNat)
  | .ringset f => some (8, (packF 0x0C2#9 f).toNat)
  | .ringacq f => some (8, (packF 0x0C3#9 f).toNat)
  | .ringrel f => some (8, (packF 0x0C4#9 f).toNat)
  | .tokwait f => some (8, (packF 0x0C5#9 f).toNat)
  | .toktest f => some (8, (packF 0x0C6#9 f).toNat)
  | .combine f => some (8, (packF 0x0C7#9 f).toNat)
  | .embg f => some (8, (packF 0x0C8#9 f).toNat)
  | .embw f => some (8, (packF 0x0C9#9 f).toNat)
  | .sjob f => some (8, (packF 0x0CA#9 f).toNat)
  | .mres f => some (8, (packF 0x100#9 f).toNat)
  | .mrel f => some (8, (packF 0x101#9 f).toNat)
  | .accalloc f => some (8, (packF 0x102#9 f).toNat)
  | .accfree f => some (8, (packF 0x103#9 f).toNat)
  | .midx f => some (8, (packF 0x104#9 f).toNat)
  | .jset f => some (8, (packF 0x105#9 f).toNat)
  | .mopr f => some (8, (packF 0x106#9 f).toNat)
  | .mma f => some (8, (packF 0x107#9 f).toNat)
  | .mmas f => some (8, (packF 0x108#9 f).toNat)
  | .mnorm f => some (8, (packF 0x109#9 f).toNat)
  | .mwait f => some (8, (packF 0x10A#9 f).toNat)
  | .accrd f => some (8, (packF 0x10B#9 f).toNat)
  | .accwr f => some (8, (packF 0x10C#9 f).toNat)
  | .acczero f => some (8, (packF 0x10D#9 f).toNat)
  | .mvar f => some (8, (packF 0x10E#9 f).toNat)
  | .htab f => some (8, (packF 0x140#9 f).toNat)
  | .henc f => some (8, (packF 0x141#9 f).toNat)
  | .hgrad f => some (8, (packF 0x142#9 f).toNat)
  | .vpin f => some (8, (packF 0x143#9 f).toNat)
  | .vunpin f => some (8, (packF 0x144#9 f).toNat)
  | .vpub f => some (8, (packF 0x145#9 f).toNat)
  | .vdrain f => some (8, (packF 0x146#9 f).toNat)
  | .frame f => some (8, (packF 0x147#9 f).toNat)
  | .meter f => some (8, (packF 0x148#9 f).toNat)
  | .bsqStart rd rs1 => some (4, (0#12 ++ rs1 ++ 0#3 ++ rd ++ 0x0B#7).toNat)
  | .bsqPoll rd rs1 => some (4, (0#12 ++ rs1 ++ 1#3 ++ rd ++ 0x0B#7).toNat)
  | .jcardLd rd rs1 => some (4, (0#12 ++ rs1 ++ 2#3 ++ rd ++ 0x0B#7).toNat)
  | .memoryReply _ _ => none
  | .sluiceSend _ _ => none
  | .waitbitReread _ => none
  | .vdrainReread _ => none
  | .commandAccept _ _ => none
  | .millracePublish _ _ => none
  | .millstonePublish _ => none
  | .migrationComplete _ _ => none
  | .furheadWrite _ _ _ => none
  | .swap _ _ => none
  | .chargeReport _ => none
  | .logicalCoreSwitch _ _ => none
  | .srheadWrite _ _ => none
  | .ringEntryRead _ => none
  | .teamPlacement _ _ => none
  | .teamRetire _ => none
  | .jqbloadWrite _ _ => none
  | .preempt _ => none
  | .teamSaveDone _ => none
  | .resume _ => none
  | .teamRestore _ _ => none
  | .escalationResume _ _ => none
  | .registerWrite _ _ _ => none
  | .sfenceVma _ _ => none
  | .l2Flush _ => none
  | .revclr _ => none
  | .extentForcedRelease _ _ => none
  | .poolList _ _ _ => none
  | .poolVec _ _ _ => none
  | .poolStat _ _ _ => none
  | .poolRepl _ _ => none
  | .poolFwd _ _ _ => none
  | .jobRun _ => none
  | .jobUpdate _ => none
  | .jobPairfix _ => none
  | .jobScaleadd _ => none
  | .bankRowBoundary _ _ _ => none
  | .bankSequenceResume _ _ _ _ => none
  | .hbmRetrainRequest _ => none
  | .inboundRequest _ => none
  | .atsRequest _ => none
  | .softError _ => none
  | .coreRetire _ _ => none
  | .l2SliceReplace _ => none
  | .hbmSpare _ => none
  | .recoveryImage _ => none
  | .attestationRequest _ => none
  | .configurationRecordWrite _ => none
  | .platformTime _ => none
  | .powerCapExceeded _ => none
  | .unassignedEncoding long w => some (if long then (8, w.toNat) else (4, w.toNat))
  | .resultWrite _ _ => none
  | .stackEngineInstruction _ => none
  | .hartMemoryAccess _ => none
  | .liveFirmwareLoad _ => none
  | .sleepExpire => none
  | .waitbitLimit => none
  | .ringSlotClaim => none
  | .doneEntryWrite => none
  | .regroupSpawn => none
  | .deadlineExpire => none
  | .escalationEntryWrite => none
  | .hfence => none
  | .l2FlushDone => none
  | .poolScrub => none
  | .poolZero => none
  | .maintenanceDone => none
  | .poolMaint => none
  | .poolMdone => none
  | .poolLinkTimeout => none
  | .runLimitExpire => none
  | .stackJobPublish => none
  | .bankSequenceDone => none
  | .hbmRetrainDone => none
  | .cecntWindow => none
  | .moduleReset => none

/-- The bytes of an instruction in memory (07 R77): none for an event. -/
def encodeBytes (i : Instr) : Option (List Byte) := (encode i).map fun (n, w) => leBytes n w

/-- What the decoder reads from an instruction whose bits, first word lowest, are w, the bits above nbits zero. -/
def decodeTableWord (nbits w : Nat) : Option Instr :=
  if nbits = 32 && w % 128 = 0x0B then
    match decodeCustom (BitVec.ofNat 32 w) with
    | .ok i => some i
    | .error _ => none
  else
    match decode (leBytes 8 (w % 2 ^ nbits)) with
    | .ok (i, _) => some i
    | .error _ => none

end Sys2Proof
end

