-- ==== Sys2Proof/Config.lean ====
section
/-! DEFINITION. What an implementation fixes and what the spec leaves open: constants with no body. -/

namespace Sys2Proof.Config

/-- The n-th free 32-bit value: an unpredictable() result (00 R9), a device read, a value the spec does not state
(DESIGN CHOICE, log 1). -/
opaque freeWord : Nat → Word

/-- The n-th free byte (DESIGN CHOICE, log 1). -/
opaque freeByte : Nat → Byte

/-- The n-th free choice between two behaviours the spec allows (DESIGN CHOICE, log 1). -/
opaque freeBool : Nat → Bool

/-- Whether the boot and security engine accepts an image or a record by its digest (31 R354). -/
opaque verified : Nat → Bool

/-- What a measurement of an image or record of that digest is (31 R354). -/
opaque measure : Nat → Nat

/-- The signature the device identity key gives over a nonce and the measurement blocks (31 R354). -/
opaque attest : Nat → List Nat → Nat

/-- The bytes of a team image other than its trailer word, whose format belongs to the device (27 R322), by
save number and offset. -/
opaque imageByte : Nat → Nat → Byte

/-- The value a device behind a PCIe window, ECAM or CXL register returns, by read number. -/
opaque deviceByte : Nat → Byte

/-- Spare rows, banks and channels of a stack at manufacture, which the record maps (31 R355, R357). -/
opaque hbmSpares : Nat

/-- The vl that vsetvl gives an AVL between VLMAX and twice it, within the bounds of the RISC-V vector specification
(29 R326). -/
opaque vectorLength : Nat → Nat → Nat

/-- The identity CSRs of a stack engine's M-mode, by 4096 × engine + CSR (29 R326). -/
opaque machineId : Nat → BitVec 64

/-- The order in which an unordered FP reduction of the vector extension adds its elements (29 R326). -/
opaque reduceOrder : Nat → Nat

end Sys2Proof.Config
end

