-- ==== Sys2Proof/Machine/State.lean ====
section
/-! DEFINITION. The state of one partition of the GN8 module, as plain data, its fault and refusal
reasons, and the state right after module reset. -/

namespace Sys2Proof.Machine

/-- A finite table: entries by key, the keys strictly rising. -/
abbrev Map (α : Type) := List (Nat × α)

/-- Bytes by address, the addresses strictly rising and no entry equal to 0. -/
abbrev Memory := List Host.Cell

/-! ## What releases carry (11 R148 to R153) -/

/-- What a release carries to the acquire that reads from it: the signature of R153, and the latest scratchpad write of
each writer that happens before it (R149; 23 R277), as the number of the step that made it. Writers are crews by key and
engine queues by 2^22 + 4 × core + queue. -/
structure Carried where
  sig : BitVec 512
  know : Map Nat
  deriving DecidableEq, Repr

/-- What a hart of the device holds for the ordering of its accesses (29 R327; 31 R344). -/
structure AgentOrder where
  /-- scratchpad writes that happen before its next access, taken by its acquires (R149) -/
  know : Map Nat := []
  /-- those that the lines its plain reads have read carried, for an acquiring FENCE (R148) -/
  reads : Map Nat := []
  /-- what its stores carry after a releasing FENCE (R148) -/
  fence : Carried := { sig := 0#512, know := [] }
  deriving DecidableEq, Repr

/-! ## Registers of threads and crews -/

/-- One lane of a v register: its word, whether it is live (R71), whether it is poisoned (R74) and its writer (R70). -/
structure LaneReg where
  val : BitVec 32
  live : Bool
  poison : Bool
  /-- issue order, within the crew, of the instruction whose result it holds (R70) -/
  seq : Nat
  deriving DecidableEq, Repr

/-- A group register (R57, R60) with its poison (R74). -/
structure GReg where
  val : BitVec 32
  poison : Bool
  deriving DecidableEq, Repr

/-- A return stack entry (R76), poisoned or not (R320). -/
structure RetEntry where
  addr : BitVec 57
  poison : Bool
  deriving DecidableEq, Repr

/-- What a thread waits for, if anything (R23). -/
inductive Wait where
  /-- awake -/
  | awake
  /-- ended by EXIT, REGROUP, HKILL or a forced reset (R21) -/
  | ended
  /-- asleep under SLEEP until the clock given (R215) -/
  | sleep (till : Nat)
  /-- arrived at the convergence register given (R208) -/
  | conv (c : Nat)
  /-- asleep under ELECT with the leader lane given (R190) -/
  | elect (leader : Nat)
  /-- asleep at the team barrier (R230) -/
  | barrier
  /-- parked on the migration of the capacity PTE at the physical address given (R139), with the address that met it -/
  | migration (pte ea : Nat)
  /-- parked by an HRET on the page of its resume point, in the same way (R313) -/
  | resuming (pte ea : Nat)
  /-- asleep in the operation of the sleeper entry given (State.sleepers) -/
  | op (id : Nat)
  deriving DecidableEq, Repr

/-- A thread (R21): bound to one lane of its crew. -/
structure Thread where
  /-- program counter, bit 0 always 0 (R21) -/
  pc : BitVec 57
  /-- repeat index (R212) -/
  rep : Nat
  /-- handler flag (R308) -/
  handler : Bool
  wait : Wait
  /-- H0 to H15 (R63, R311) -/
  h : List (BitVec 32)
  /-- return stack, newest entry first, at most 8 (R76) -/
  stack : List RetEntry
  /-- TLBASE (R32) -/
  tlbase : BitVec 57
  /-- TLSP (R65) -/
  tlsp : BitVec 32
  deriving DecidableEq, Repr

/-- A convergence register (R206). -/
structure Conv where
  members : BitVec 32
  arrived : BitVec 32
  deriving DecidableEq, Repr

/-- The state of a token (R243). -/
inductive TokState where
  | idle
  | pending
  | complete
  | failed
  deriving DecidableEq, Repr

/-- A token (R243): its state, the status of the command that last completed it, and the cause that
belongs to a failing access (R244). -/
structure Token where
  state : TokState
  status : Nat
  cause : Nat
  /-- effective address of the failing access (27 R311) -/
  ea : Nat
  /-- what its completion, a release, carries (R154) -/
  carried : Carried
  deriving DecidableEq, Repr

/-- What distinguishes a PC group: PC, repeat index and handler flag (R22, R212, R308). -/
structure GroupKey where
  pc : BitVec 57
  handler : Bool
  rep : Nat
  deriving DecidableEq, Repr

/-- A result on its way to its registers: fixed latency (R67, a due clock), scoreboarded (R68), or a
memory reply (R219), perhaps held with its Sluice line (R142). -/
structure Pending where
  /-- issue order of the crew (R70) -/
  seq : Nat
  /-- write clock of a fixed-latency result -/
  due : Option Nat
  /-- scoreboarded -/
  board : Bool
  /-- a memory reply -/
  memory : Bool
  /-- Sluice lines that still hold its requests (R142) -/
  lines : List Nat
  /-- the destination registers and lanes, which the scoreboard guards (R68) -/
  dst : Nat
  run : Nat
  lanes : Lanes
  /-- the words to write, by 32 × register + lane -/
  writes : Map Word
  /-- a group register GSET writes at the write clock (R60) -/
  greg : Option (Nat × Word)
  /-- FFLAGS bits to OR in at the write clock (R163) -/
  flags : BitVec 5
  deriving DecidableEq, Repr

/-- A crew (R10, R21): 32 threads in lanes 0 to 31 and the crew's own state. -/
structure Crew where
  /-- the team, by its number -/
  team : Nat
  /-- the crew's index within its team (R167) -/
  index : Nat
  /-- formed by REGROUP (R48, R299) -/
  regrouped : Bool
  /-- v registers allocated (R27) -/
  nregs : Nat
  /-- threads by lane -/
  threads : Map Thread
  /-- v registers by 32 × register + lane; an unlisted lane word is dead -/
  regs : Map LaneReg
  /-- group registers; an unlisted one is 0 -/
  gregs : Map GReg
  /-- convergence registers; an unlisted one is empty -/
  conv : Map Conv
  /-- tokens; an unlisted one is idle -/
  tokens : Map Token
  /-- FFLAGS [4:0] (R65) -/
  fflags : BitVec 5
  /-- STALLCHK.EN (R65) -/
  stallchk : Bool
  /-- the PC table (R22) -/
  groups : List GroupKey
  /-- the service pointer into the PC table (R23) -/
  pointer : Nat
  /-- earliest clock of the next issue (R66) -/
  stallTill : Nat
  /-- number of issues so far, which orders results (R70) -/
  issues : Nat
  pend : List Pending
  /-- held bitmap with the PC of the first instruction that held each code (R312) -/
  held : Map (BitVec 57)
  /-- crew state lost to an uncorrectable error (R320, R321) -/
  lost : Bool
  /-- joint operations signed and not yet published: the signature's sleeper, then the command's serial (R278) -/
  signed : List Nat
  /-- write sets of scopes team to system (R152) -/
  writeSets : List (BitVec 512)
  /-- acquired set (R152) -/
  acquired : BitVec 512
  /-- scratchpad writes that happen before the crew's next access (R149) -/
  know : Map Nat
  /-- those that happened before its latest MOPR (23 R277) -/
  mopr : Map Nat
  /-- what its stores carry after a releasing fence (R148, R153) -/
  fence : Carried
  /-- what the lines its loads have read carried, for an acquiring fence (R148) -/
  reads : Carried
  /-- in the active set (R39) -/
  active : Bool
  /-- clock of the latest grant (R40) -/
  lastGrant : Nat
  /-- clock since which the crew has been waiting (R24, R40) -/
  waitSince : Option Nat
  /-- clock of a YIELD whose standing still holds (R214) -/
  yielded : Option Nat
  /-- place in the ready queue of a pending crew that is not waiting, by 4096 × clock (R39) -/
  ready : Option Nat
  /-- HGRAD issues so far (R299) -/
  hgrads : Nat
  deriving DecidableEq, Repr

/-! ## Teams and launches -/

/-- A transfer slot's state (R61). -/
inductive SlotState where
  | empty
  | filled (count : Nat)
  | released
  deriving DecidableEq, Repr

/-- A transfer slot (R57, R198): 32 lane words and a state; `bad` marks an uncorrectable error (R320). -/
structure Slot where
  state : SlotState
  vals : List (BitVec 32)
  bad : Bool
  /-- what the sender's release carries (15 R199) -/
  carried : Carried
  deriving DecidableEq, Repr

/-- A signature in a joint register (R282): the signing crew, the operand fields, and the scratchpad writes that happened
before its MOPR (R277). -/
structure Signature where
  crew : Nat
  sleeper : Nat
  fields : List (BitVec 32)
  know : Map Nat
  deriving DecidableEq, Repr

/-- A joint register (R57, R281). -/
structure Joint where
  need : Option Nat
  sigs : List Signature
  bad : Bool
  deriving DecidableEq, Repr

/-- One level of a bound Trowel table (R295). -/
structure HashLevel where
  n : Nat
  logT : Nat
  gv : Bool
  feat : Nat
  grad : Nat
  deriving DecidableEq, Repr

/-- A bound Trowel table (R296). -/
structure HashTable where
  dim3 : Bool
  levels : List HashLevel
  deriving DecidableEq, Repr

/-- A team context on one member core (R28). -/
structure TeamCtx where
  /-- byte offset of the scratchpad reservation, a multiple of 1024 (R130) -/
  scratch : Nat
  joints : Map Joint
  slots : Map Slot
  /-- Trowel bindings by slot 0 to 3 (R296) -/
  tables : Map HashTable
  /-- the index vector (R284) -/
  index : Option (List (BitVec 32))
  deriving DecidableEq, Repr

/-- A resident or saved team (R26). -/
structure Team where
  launch : Nat
  /-- team index (R26) -/
  index : Nat
  /-- context that owns it -/
  ctx : Nat
  /-- member cores in rank order (R26) -/
  cores : List Nat
  /-- place in the age order (R272) -/
  age : Nat
  /-- barrier generation (R230) -/
  barGen : BitVec 32
  /-- barrier arrival count (R230) -/
  barCount : Nat
  /-- flagged crews (R230) -/
  barFlags : List Nat
  /-- barrier state lost to an error (R320) -/
  barBad : Bool
  /-- being saved, in the order of placement (R49) -/
  saving : Bool
  /-- some thread ended by HKILL or by EXIT in handler mode (R45) -/
  killed : Bool
  deriving DecidableEq, Repr

/-- A launch record (R30), its fields by name. -/
structure LaunchRecord where
  entry : BitVec 57
  teams : BitVec 32
  crews : BitVec 10
  regs : BitVec 3
  cores : BitVec 4
  det : Bool
  save : Bool
  cons : Bool
  ovlp : Bool
  chk : Bool
  scratch : BitVec 10
  acc : BitVec 7
  constn : BitVec 9
  jobq : BitVec 6
  dscope : BitVec 3
  const : BitVec 57
  bitmap : BitVec 57
  done : BitVec 57
  seq : BitVec 48
  pbmap : BitVec 57
  pbase : BitVec 32
  pmul : BitVec 32
  prun : BitVec 16
  plast : BitVec 32
  tlarea : BitVec 57
  tlsize : BitVec 32
  deriving DecidableEq, Repr

/-- A launch the dispatcher has taken (R35, R36). -/
structure Launch where
  record : LaunchRecord
  ctx : Nat
  /-- rejected by R31 -/
  bad : Bool
  /-- next team to place (R36) -/
  next : Nat
  /-- teams retired so far -/
  retired : Nat
  /-- some thread ended by HKILL or EXIT in handler mode (R45) -/
  killed : Bool
  /-- every team of the launch has been placed (R36) -/
  placed : Bool
  /-- a dispatcher read or bitmap write failed (R46, R359) -/
  faulted : Bool
  /-- a dispatcher read failed: no further team starts (R359) -/
  halted : Bool
  /-- ended by forced reset (R51) -/
  reset : Bool
  /-- completion word written or dropped -/
  done : Bool
  deriving DecidableEq, Repr

/-! ## Cores and their engines -/

/-- A ring (R256). -/
structure Ring where
  team : Nat
  base : BitVec 32
  size : Nat
  log : Nat
  claim : BitVec 32
  fill : BitVec 32
  acq : BitVec 32
  rel : BitVec 32
  /-- what fills and releases of its slots carry (11 R154) -/
  carried : Carried
  deriving DecidableEq, Repr

/-- A layout record (R246), its fields by name. -/
structure Layout where
  fmt : Nat
  scl : Nat
  ndim : Nat
  swz : Nat
  pair : Bool
  tile0 : Nat
  tile1 : Nat
  base : BitVec 64
  sbase : BitVec 64
  size : List Nat
  stride : List Nat
  sstride : Nat
  deriving DecidableEq, Repr

/-- A pooling descriptor (R261). -/
structure PoolDesc where
  addr : BitVec 64
  tbase : BitVec 64
  nrows : Nat
  rowlen : Nat
  fmt : Nat
  presort : Bool
  weighted : Bool
  rstride : Nat
  idx : BitVec 64
  offs : BitVec 64
  wts : BitVec 64
  out : BitVec 64
  nbags : Nat
  deriving DecidableEq, Repr

/-- Where a copy's destination lies. -/
inductive Place where
  | virt (a : BitVec 64)
  | scratch (a : BitVec 32)
  | ring (n : Nat)
  deriving DecidableEq, Repr

/-- What an engine command does, with the operands it took at issue (R237, R266). -/
inductive Work where
  | tcopy (rec : Layout) (out can role tr : Bool) (origin : List Nat) (dst : Place)
  | bcopy (src dst : Place) (len : Nat)
  | combine (win : Nat)
  | embg (d : PoolDesc)
  | embw (d : PoolDesc) (row : Nat) (src : BitVec 32)
  | sjob (stack : Nat) (engine : Option Nat) (card : List (BitVec 64))
  | midx (rows : List (BitVec 32))
  | mma (t : Nat) (a b : BitVec 32) (zs ga clr : Bool)
  | mmas (t : Nat) (a b na nb : BitVec 32) (cap seed tau : BitVec 32)
  | mnorm (dst a : BitVec 32)
  | accrd (dst : BitVec 32) (t first count : Nat)
  | accwr (t : Nat) (src : BitVec 32) (first count : Nat)
  | acczero (t : Nat)
  deriving DecidableEq, Repr

/-- A completion word to write (R238): address and sequence. -/
structure WordAt where
  addr : BitVec 64
  seq : BitVec 48
  deriving DecidableEq, Repr

/-- A table row a chip has fetched for an EMBG (R262): its bytes, poisoned or not, and whether it was forwarded. -/
structure PoolRow where
  bytes : List Byte
  poison : Bool
  forwarded : Bool
  deriving DecidableEq, Repr

/-- A translation a TLB holds (11 R136). -/
structure TlbEntry where
  core : Nat
  asid : Nat
  /-- first virtual address and log2 of the leaf's size -/
  base : Nat
  log : Nat
  pte : BitVec 64
  /-- physical address of the PTE -/
  pteAt : Nat
  deriving DecidableEq, Repr

/-- A checked EMBG batch (R262): bag offsets, indices, weights, and the physical pieces of each distinct row. -/
structure PoolPlan where
  offs : List Nat
  idx : List Nat
  wts : List Word
  places : Map (List (Nat × Nat))
  /-- the TLB entries with which the rows were translated, each with its row (11 R137) -/
  used : List (Nat × TlbEntry)
  deriving DecidableEq, Repr

/-- An accepted engine command (R239). -/
structure Command where
  serial : Nat
  /-- 0 COPY, 1 POOL, 2 STACK, 3 MATRIX -/
  queue : Nat
  entries : Nat
  ctx : Nat
  team : Nat
  crew : Nat
  lane : Nat
  token : Option Nat
  word : Option WordAt
  scope : Nat
  after : Bool
  /-- a ring slot already claimed (R258), by slot count -/
  claimed : Option (BitVec 32)
  /-- handed to its engine or link (R265, R342) -/
  started : Bool
  /-- the batch of an EMBG, once checked (R262) -/
  plan : Option PoolPlan
  /-- chips that took their LIST and chips that gave their STAT (R351) -/
  listed : List Nat
  answered : List Nat
  /-- clock by which each chip that was sent a request must answer, and the tag of its request (R351) -/
  asked : Map Nat
  tags : Map Nat
  /-- bags already returned by their home chips (R263) -/
  bags : List Nat
  /-- rows fetched at their chips (R262, R342) -/
  rows : Map PoolRow
  /-- clock from which its Millstone work runs (R291) -/
  till : Nat
  /-- Millstone clocks already charged to its team (R38) -/
  charged : Nat
  /-- headers of its Millstone tiles as they stood when it was posted (23 R283) -/
  heads : List (List Byte)
  /-- scratchpad writes that happen before its reads (11 R154; 23 R277) -/
  know : Map Nat
  /-- the outcome of an EMBW's replacement, which its chip has yet to report (R351) -/
  reply : Option (Nat × Nat × Nat)
  /-- status already decided by the engine that does the work, with the failing access's cause and address -/
  result : Option (Nat × Nat × Nat)
  /-- crews that signed a joint operation (R282), by crew key -/
  signers : List Nat
  work : Work
  deriving DecidableEq, Repr

/-- An engine command that waits to be accepted (R239): who presented it and when. -/
structure Waiter where
  crew : Nat
  pc : BitVec 57
  lanes : BitVec 32
  queue : Nat
  entries : Nat
  token : Option Nat
  /-- serial number of its acceptance, once it has been accepted (R239, R241) -/
  accepted : Option Nat
  /-- state of its token before that, which a failed check leaves it in (R252) -/
  was : TokState
  /-- the migration an accepted command's checks wait for, by PTE address (R252) -/
  page : Option Nat
  /-- the ring it names (R257) -/
  ring : Option Nat
  deriving DecidableEq, Repr

/-- A payload in the regroup table (R47, R196). -/
structure Payload where
  team : Nat
  lane : Nat
  key : Nat
  serial : Nat
  crewIndex : Nat
  pc : BitVec 57
  /-- the payload words by register -/
  words : Map LaneReg
  gregs : Map GReg
  nregs : Nat
  tlbase : BitVec 57
  /-- scratchpad writes that happen before the thread's next access (R149) -/
  know : Map Nat
  deriving DecidableEq, Repr

/-- A crew the table has formed and that waits for a slot (R48). -/
structure Formed where
  team : Nat
  /-- the team's crews resident on the core when it was formed (R48) -/
  rank : Nat
  payloads : List Payload
  deriving DecidableEq, Repr

/-- The variance register (R286). -/
structure Variance where
  s : Nat
  mean : BitVec 32
  m2 : BitVec 32
  reason : Nat
  deriving DecidableEq, Repr

/-- Where a Millstone command's result goes (23 R279): rows and columns of a tile, and the variance register for an MMAS,
or scratchpad bytes from a key. -/
inductive MillDest where
  | tile (t first rows cols : Nat) (variance : Bool)
  | pad (key n : Nat)
  deriving DecidableEq, Repr

/-- A Millstone footprint not yet covered by an MWAIT (R279): scratch granules that a team must not touch. -/
structure Footprint where
  team : Nat
  serial : Nat
  /-- first granule and number of granules, in core × 2^19 byte numbering / 16 -/
  first : Nat
  count : Nat
  /-- where the command's result goes -/
  dest : MillDest
  /-- a crew of the team has written into it: the result is unpredictable -/
  touched : Bool
  deriving DecidableEq, Repr

/-- Arbitration state of an issue partition (R40, R41). -/
structure Part where
  /-- clocks for which ports A and B have been arbitrated -/
  doneA : Nat
  doneB : Nat
  /-- slots last granted -/
  lastA : Nat
  lastB : Nat
  /-- clock of the latest swap -/
  lastSwap : Nat
  /-- clock for which a swap has been considered -/
  doneSwap : Nat
  /-- RFPSN (R64, R74) -/
  rfpsn : BitVec 32
  deriving DecidableEq, Repr

/-- A logical core (R15): its engines and core-owned registers. -/
structure Core where
  poolMin : BitVec 32
  poolCap : BitVec 32
  /-- posted commands of all four queues in acceptance order -/
  commands : List Command
  waiters : List Waiter
  rings : Map Ring
  /-- the team that holds the Millstone (R270) -/
  mill : Option Nat
  variance : Variance
  /-- the team that holds each accumulator tile (R272) -/
  tiles : Map Nat
  payloads : List Payload
  formed : List Formed
  /-- charges accrued by job queue and not yet reported (R38) -/
  charges : Map Nat
  /-- pending error reports for MWAIT by command serial: cause 0x101 or 0x102 (R280) -/
  reports : Map Nat
  footprints : List Footprint
  /-- what the publications of queue MATRIX have carried (23 R268) -/
  milled : Carried
  parts : Map Part
  /-- clock of the latest charge report (R38) -/
  lastReport : Nat
  deriving DecidableEq, Repr

/-! ## Memory -/

/-- A Sluice line entry (11 R142): requests held for one 128-byte line of one core. -/
structure SluiceEntry where
  core : Nat
  line : Nat
  /-- clock of the oldest request -/
  born : Nat
  /-- requested 16-byte sectors -/
  sectors : BitVec 8
  /-- crews with stores in the entry, by crew key -/
  stores : List Nat
  deriving DecidableEq, Repr

/-- A staged reducing slot (11 R156): the context and window it belongs to, the window's operation, and its value. -/
structure Staged where
  ctx : Nat
  win : Nat
  op : Nat
  val : BitVec 32
  deriving DecidableEq, Repr

/-- The memory system (chapter 11). A byte of memory is the youngest of: the core's L1, the L2, and memory itself. The caches
have no capacity and drop no line for want of room (DESIGN CHOICE, log 88). -/
structure MemSys where
  /-- HBM, capacity-tier and fabric bytes by physical address -/
  ram : Memory
  /-- dirty L2 bytes by physical address (R158, R229, R353) -/
  l2 : Map Byte
  /-- dirty L1 bytes by core × 2^52 + physical address (R153, R229) -/
  l1 : Map Byte
  sluice : List SluiceEntry
  /-- poisoned 16-byte granules of memory, by physical address / 16 (R320) -/
  poison : Map Unit
  /-- instruction-cache copies by core × 2^52 + physical address (07 R78) -/
  icache : Map Byte
  tlb : List TlbEntry
  /-- scratchpad bytes by core × 2^19 + offset; an unlisted one is 0 (R129) -/
  scratch : Map Byte
  /-- poisoned scratchpad granules, by byte number / 16 (R320) -/
  scratchPoison : Map Unit
  /-- number of the step in which a writer last wrote a scratchpad granule, by granule × 2^24 + writer (23 R277) -/
  unordered : Map Nat
  /-- accumulator elements by ((core × 64 + tile) × 64 + row) × 64 + column; an unlisted one is 0 (23 R272) -/
  acc : Map Word
  /-- poisoned accumulator granules, by element number / 4 (23 R280) -/
  accPoison : Map Unit
  /-- staged slots by physical address × 256 + source core (R156) -/
  staged : Map Staged
  /-- revoked ranges, base and bytes, at most 64 (R159) -/
  revoked : List (Nat × Nat)
  /-- what releases have carried to lines (R153) -/
  carried : Map Carried
  deriving DecidableEq, Repr

/-! ## Dispatcher -/

/-- Registers of a submission ring (03 R33). -/
structure SubRing where
  base : BitVec 57
  log : BitVec 4
  head : Word
  tail : Word
  en : Bool
  overrun : Bool
  rdfault : Bool
  ctx : BitVec 4
  /-- the latest write of SRHEAD ran over the ring: no entry of it is read (03 R35) -/
  barred : Bool
  deriving DecidableEq, Repr

/-- Registers of a job queue and the launches it holds, oldest first (03 R33, R36). -/
structure JobQueue where
  ctx : BitVec 4
  cls : BitVec 2
  en : Bool
  fault : Bool
  budget : Bool
  bload : BitVec 64
  brem : BitVec 64
  launches : List Nat
  deriving DecidableEq, Repr

/-- A reducing window (11 R155). -/
structure Window where
  base : BitVec 57
  log : BitVec 5
  op : BitVec 2
  en : Bool
  deriving DecidableEq, Repr

/-- A resume held for a saved team (27 R319). -/
structure HeldResume where
  index : Nat
  kill : Bool
  val : Word
  deriving DecidableEq, Repr

/-- What a member core contributes to a team image (03 R50; 23 R292). -/
structure RankImage where
  tctx : TeamCtx
  scratch : Map Byte
  scratchPoison : Map Unit
  /-- held tiles: number and elements by row × 64 + column -/
  tiles : List (Nat × Map Word)
  accPoison : Map Unit
  rings : Map Ring
  mill : Bool
  variance : Variance
  payloads : List Payload
  formed : List Formed
  deriving DecidableEq, Repr

/-- A saved team (03 R49, R50; 27 R322, R323). -/
structure SavedTeam where
  /-- number of the save, which names its opaque image bytes -/
  number : Nat
  /-- number of the team -/
  id : Nat
  team : Team
  /-- virtual address and size of the image -/
  addr : Nat
  size : Nat
  crews : List Crew
  /-- the crews' ranks and slots within the core, and partition -/
  places : List (Nat × Nat)
  ranks : List RankImage
  /-- sleepers of the team -/
  sleeps : List (Nat × Nat)
  deriving DecidableEq, Repr

/-- What a sleeping group waits for. -/
inductive Awaits where
  /-- a released transfer slot to fill (R61) -/
  | xsend (slot : Nat) (vals : List Word) (count : Nat) (carried : Carried)
  /-- a filled transfer slot to read into dst (R61) -/
  | xrecv (slot dst : Nat)
  /-- a filled ring slot, its address going to dst (R259) -/
  | ringAcq (ring dst : Nat)
  /-- a token that is not pending (R244) -/
  | token (t : Nat)
  /-- n accumulator tiles, the mask and status going to dst (R274) -/
  | alloc (n dst : Nat)
  /-- Millstone commands by serial, those left and all that the wait covers by name; MVAR writes dst (R278, R290) -/
  | mill (serials covered : List Nat) (dst : Option Nat)
  /-- MREL: Millstone commands by serial, then the reservation ends (R271) -/
  | release (serials : List Nat)
  /-- ACCFREE: commands that name the tiles of a mask, which are then freed (R275) -/
  | free (serials : List Nat) (mask : BitVec 64)
  /-- the count of a joint register (R282) -/
  | joint (n : Nat)
  /-- a bit of a word (R232): address, bit, sense, clock of the limit, destination pair, word last read and when, and
  scope -/
  | waitbit (addr bit : Nat) (sense : Bool) (till : Option Nat) (dst : Nat) (last : BitVec 64) (read scope : Nat)
  /-- the readers of the old buffer of a version block (R302) -/
  | vdrain (addr : Nat) (last : List Byte) (read : Nat)
  /-- room in the event ring for an escalation made at once (R317) -/
  | escalating
  /-- the resume of an escalation by event index; direct without a handler (R319) -/
  | escalated (index : Nat) (direct : Bool)
  deriving DecidableEq, Repr

/-- A sleeping group: the crew, its lanes, the clock it began to wait, the issue number and the PC it moves to. -/
structure Sleeper where
  crew : Nat
  lanes : Lanes
  since : Nat
  seq : Nat
  next : Addr
  what : Awaits
  deriving DecidableEq, Repr

/-- A context of the dispatcher (03 R33; 11 R133, R155; 27 R318). -/
structure Context where
  preempt : Bool
  resume : Bool
  stopped : Bool
  reset : Bool
  dl : Word
  /-- arithmetic clock at which the deadline counter reaches 0 (R49) -/
  deadline : Option Nat
  save : BitVec 57
  slim : BitVec 57
  hart : BitVec 12
  id : BitVec 12
  ppn : BitVec 44
  asid : BitVec 16
  mode : BitVec 4
  windows : Map Window
  hen : Bool
  hbase : BitVec 57
  evbase : BitVec 52
  evlog : BitVec 4
  evlost : Bool
  evhead : Word
  evtail : Word
  rval : Word
  resIdx : Word
  resKill : Bool
  /-- saved teams in the order they were saved -/
  saved : List SavedTeam
  /-- sleepers of saved teams, by number -/
  savedSleepers : Map Sleeper
  held : List HeldResume
  /-- escalations that wait for room in the event ring, by sleeper number, oldest first (R317) -/
  waiting : List Nat
  deriving DecidableEq, Repr

/-- The launch dispatcher (03 R33 to R38). -/
structure Dispatcher where
  rings : Map SubRing
  queues : Map JobQueue
  contexts : Map Context
  /-- last queue served in each class (R37) -/
  served : List Nat
  /-- placements started in the current dispatcher clock, by die (R34) -/
  lastPlace : Map Nat
  deriving DecidableEq, Repr

/-! ## System die and near-memory units -/

/-- A ring of a fault unit (11 R138). -/
structure FaultRing where
  base : BitVec 52
  log : BitVec 4
  head : Word
  tail : Word
  deriving DecidableEq, Repr

/-- An agent other than a thread that waits for a migration (11 R139, R140). -/
inductive Agent where
  /-- an engine command, by serial (21 R242) -/
  | command (serial : Nat)
  /-- the checks of a command at its issue, by crew and PC (21 R252) -/
  | check (crew pc : Nat)
  /-- a stack engine job, by serial (29 R331) -/
  | job (serial : Nat)
  /-- the entry of a submission ring (03 R35) -/
  | ring (n : Nat)
  /-- the reads and the completion word of a launch (03 R46, R359) -/
  | launch (id : Nat)
  /-- the bitmap bit or the image of a team (03 R46, R50) -/
  | team (n : Nat)
  /-- an inbound request of a root port (31 R349) -/
  | port (n : Nat)
  deriving DecidableEq, Repr

/-- An outstanding migration (11 R139). -/
structure Migration where
  /-- physical address of the PTE, which identifies it -/
  pte : Nat
  old : BitVec 64
  va : Nat
  ctx : Nat
  asid : Nat
  /-- a 64 KiB group -/
  big : Bool
  frame : Option Nat
  /-- agents other than threads that wait for it -/
  agents : List Agent
  /-- status once the work is over and the done entry waits for room (R140) -/
  done : Option Nat
  deriving DecidableEq, Repr

/-- The fault unit of a die (11 R138). -/
structure FaultUnit where
  rings : Map FaultRing
  starved : Bool
  donefull : Bool
  hart : BitVec 12
  id : BitVec 12
  migrations : List Migration
  /-- agents whose migration ended UNREADABLE, with the PTE, until they meet it (R140) -/
  unread : List (Agent × Nat)
  deriving DecidableEq, Repr

/-- A physical core (01 R12, R19; 03 R54). -/
structure PhysCore where
  retired : Bool
  /-- the placer starts no team on it, and it is retired once it holds none (31 R357) -/
  retiring : Bool
  /-- the logical core whose context runs, and since which clock -/
  running : Nat
  since : Nat
  deriving DecidableEq, Repr

/-- A range of fabric addresses. -/
structure Extent where
  base : Nat
  size : Nat
  deriving DecidableEq, Repr

/-- HDM decoder n, of 8, of a CXL host port (31 R350): a dynamic one maps only the extents taken. -/
structure Decoder where
  port : Nat
  n : Nat
  base : Nat
  size : Nat
  dynamic : Bool
  deriving DecidableEq, Repr

/-- A root port: the controls software has set, and whether DPC has contained it (31 R348). -/
structure RootPort where
  controls : PortControls
  contained : Bool
  deriving DecidableEq, Repr

/-- An interrupt file of a hart's IMSIC: the pending and the enabled identities, ascending, its threshold, and whether it
delivers (31 R344, R347). -/
structure ImsicFile where
  pending : Map Unit
  enabled : Map Unit
  threshold : Nat
  deliver : Bool
  deriving DecidableEq, Repr

/-- The system die (chapter 31). -/
structure SysDie where
  /-- the configuration record in force and the next one (R355) -/
  record : ConfigurationRecord
  nextRecord : ConfigurationRecord
  /-- digests of the firmware image and of the Umadioz firmware (R354) -/
  image : Nat
  umadioz : Nat
  /-- the module has power and has begun its stages; waits for a recovery image (R354) -/
  started : Bool
  recovery : Bool
  /-- HEALTH bits [5:1] and STAGE (R356) -/
  tshare : Bool
  l2spare : Bool
  hbmspare : Bool
  cerate : Bool
  /-- set by a loss that makes a cluster unservable (R19) -/
  replace : Bool
  /-- HEALTH.READY, and with it the READY bit of the PCIe capability set (R354) -/
  ready : Bool
  stage : BitVec 4
  /-- the partition places no team (R19) -/
  unservable : Bool
  /-- spare slices left by die and HBM spares left by stack -/
  slices : Map Nat
  hbmSpares : Map Nat
  /-- CECNT fields (R356) and the clock the window began -/
  cecnt : List Nat
  window : Nat
  hlthHart : BitVec 12
  hlthId : BitVec 12
  /-- L2 flush registers (R353) -/
  flushBase : BitVec 52
  flushPages : Word
  flushGo : Bool
  flushDone : Bool
  /-- pooling maintenance registers (R352) -/
  pbmOff : BitVec 39
  pbmPages : BitVec 27
  pbmChip : BitVec 3
  pbmOp : BitVec 2
  pbmGo : Bool
  pbmDone : BitVec 52
  pbmSeq : BitVec 48
  /-- phase of maintenance (R351): 0 idle, 1 posted, 2 sent to the chip, 3 performed there, 4 answered -/
  pbmPhase : Nat
  pbmStatus : Nat
  /-- blocks of the range already zeroed, the tag of the request, and the clock by which its chip must answer (R351, R352) -/
  pbmAt : Nat
  pbmTag : Nat
  pbmTill : Nat
  /-- next tag of each pooling link (R351) -/
  poolTags : Map Nat
  faults : Map FaultUnit
  phys : Map PhysCore
  decoders : List Decoder
  /-- the extents of dynamic capacity taken (R350) -/
  extents : List Extent
  /-- the ranges that have left the decoders (11 R160; log 71) -/
  departed : List Extent
  /-- inbound requests that wait for a migration (R349) -/
  inbound : List InboundRequest
  /-- the harts' reservations, by hart: 64-byte granule (29 R327; R344) -/
  reservations : Map Nat
  /-- the order of the harts' accesses, by hart (R344) -/
  orders : Map AgentOrder
  /-- the interrupt files of the harts' IMSICs, by 16 × hart + file: 0 M-level, 1 S-level, 2 to 8 the guest files (R344) -/
  imsic : Map ImsicFile
  /-- root ports whose controls are not as at reset (R348) -/
  rootPorts : Map RootPort
  /-- capacity PTEs whose frame was written while a context that uses their table could run, by the PTE's address (11 R141) -/
  spoiled : Map Unit
  /-- time CSR of the harts (R358) -/
  time : BitVec 64
  /-- idle clocks still to insert (R358) -/
  idle : Nat
  deriving DecidableEq, Repr

/-- Registers of a stack engine's hart (29 R326). Vector registers are 1,024 bits. -/
structure Hart where
  pc : BitVec 64
  x : Map (BitVec 64)
  f : Map (BitVec 64)
  v : Map (BitVec 1024)
  fcsr : BitVec 8
  vl : BitVec 64
  vtype : BitVec 64
  vstart : BitVec 64
  vcsr : BitVec 3
  /-- arithmetic clock at which the kernel started, from which the cycle CSR counts (R326, R333) -/
  cycle : Nat
  /-- instructions retired since the kernel started -/
  instret : Nat
  /-- 64-byte reservation granule (R327) -/
  reservation : Option Nat
  /-- handles of bank-unit sequences, by handle: sequence number (R328) -/
  handles : Map Nat
  /-- privilege: M-mode, in which the firmware runs, or U-mode, in which kernels run (R326) -/
  machine : Bool
  /-- the M-mode registers through which an exception enters the firmware (R326) -/
  mstatus : BitVec 64
  mtvec : BitVec 64
  mepc : BitVec 64
  mcause : BitVec 64
  mtval : BitVec 64
  mie : BitVec 64
  mscratch : BitVec 64
  /-- the cycle CSR at the clock of `cycle`, which the firmware may write (R326) -/
  cycleBase : BitVec 64
  deriving DecidableEq, Repr

/-- A job card with the token and team it belongs to (29 R329, R330; 21 R265). -/
structure Job where
  card : List (BitVec 64)
  serial : Nat
  core : Nat
  ctx : Nat
  /-- status once the work has ended, with the cause and the address of the failed access -/
  ended : Option (Nat × Nat × Nat)
  /-- a kernel of a RUN card is running, or a sequence of a SCALEADD card was started -/
  begun : Bool
  /-- number of the bank sequence of a SCALEADD card -/
  sequence : Option Nat
  /-- the parameter block and the generation word that a running UPDATE or PAIRFIX has read (29 R335, R337) -/
  block : Option (List Byte × Nat)
  deriving DecidableEq, Repr

/-- A stack engine (29 R326, R330), numbered 4 × stack + engine. -/
structure StackEngine where
  queue : List Job
  running : Option Job
  hart : Hart
  order : AgentOrder := {}
  deriving DecidableEq, Repr

/-- Progress of one bank of a sequence (29 R339, R340). -/
structure BankRun where
  bank : Nat
  rows : List Nat
  /-- suspended for an ordinary request (29 R340) -/
  suspended : Bool
  /-- suspended until retraining ends (29 R341) -/
  retrained : Bool
  stopped : Bool
  deriving DecidableEq, Repr

/-- A bank-unit sequence (29 R339). -/
structure BankSeq where
  number : Nat
  engine : Nat
  stack : Nat
  scalar : Word
  /-- physical addresses of the x and y rows, by row -/
  xs : List Nat
  ys : List Nat
  banks : List BankRun
  poisoned : Bool
  finished : Bool
  /-- status of R331 with which its start failed, or 0 -/
  status : Nat
  /-- the rows whose x row was stored to since the start, whose y row is unpredictable (29 R341) -/
  spoiled : List Nat
  /-- a forced reset has ended its job: it stops at its row boundaries (29 R332) -/
  dropped : Bool
  /-- the TLB entries with which its rows were translated (11 R137) -/
  used : List TlbEntry
  deriving DecidableEq, Repr

/-- The units at the memories (chapter 29). -/
structure NearMem where
  engines : Map StackEngine
  sequences : List BankSeq
  /-- retraining stacks: 1 requested, 2 running (27 R324) -/
  retrain : Map Nat
  /-- the stack engine whose hart takes its step, within a step (the model's own) -/
  turn : Option Nat
  deriving DecidableEq, Repr

/-! ## What leaves the machine, the issue in progress, and the machine -/

/-- A pooling request or answer on a chip's link (31 R351): its header, the vendor ID of its vendor-defined message among
them, and its operand fields in order. -/
structure PoolMessage where
  vendor : Nat
  op : Nat
  chip : Nat
  tag : Nat
  /-- payload length in 16-byte beats -/
  len : Nat
  operand : List Nat
  /-- the payload after the header -/
  payload : List Byte
  deriving DecidableEq, Repr

/-- What the machine has sent to the outside, newest first. -/
inductive Output where
  /-- an MSI write of an identity to a hart's IMSIC (31 R347) -/
  | msi (hart id : Nat)
  /-- an MCTP event to the BMC (31 R354, R356) -/
  | bmc (code : Nat)
  /-- an AER log entry of a root port (31 R349) -/
  | aer (port : Nat)
  /-- a completion to a PCIe request: granted or refused, with the bytes read -/
  | pcie (port : Nat) (granted : Bool) (bytes : List Byte)
  /-- an ATS completion: the translated address, with whether it may be read and written, or no access -/
  | ats (port : Nat) (pa : Option (Nat × Bool × Bool))
  /-- bytes written to a device: behind a memory window, in a port's configuration space or in CXL register space -/
  | io (pa : Nat) (bytes : List Byte)
  /-- the value a hart's access returned (31 R344) -/
  | hart (hart : Nat) (v : BitVec 64)
  /-- what the BMC has read of the health block over MCTP (31 R346) -/
  | mctp (v : BitVec 64)
  /-- a message on a pooling link, either way (31 R351) -/
  | pool (m : PoolMessage)
  /-- an attestation answer (31 R354) -/
  | spdm (signature : Nat) (blocks : List Nat)
  deriving DecidableEq, Repr

/-- The issue in progress: the issue group and the instruction's place (03 R23; 17 R212). -/
structure Issue where
  crew : Nat
  lanes : Lanes
  pc : Addr
  handler : Bool
  /-- repetition index of the group -/
  rep : Nat
  /-- repetitions of the unit; 1 for a plain instruction -/
  count : Nat
  /-- the instruction stands at a REP unit -/
  unit : Bool
  /-- address after the instruction or unit -/
  next : Addr
  /-- first and second words of the instruction (27 R311) -/
  h5 : Word
  h6 : Word
  /-- the target a REP has armed for this step -/
  target : Option Instr
  /-- what a REP's step adds to the number of a store's seed beyond the six bits of its field (07 R92) -/
  seedUp : Nat := 0
  deriving DecidableEq, Repr

/-- The state of one partition of the module (01 R19). -/
structure State where
  /-- arithmetic clocks since module reset (00 R4) -/
  clock : Nat
  /-- the issue in progress within a step (the model's own) -/
  cur : Option Issue
  /-- turns the other agents take next, the model's own: an arbitrary list (log 2) -/
  schedule : List Instr
  /-- number of free values taken so far, the model's own (log 1) -/
  free : Nat
  /-- next serial number of commands, sleepers, payloads and launches -/
  serial : Nat
  mem : MemSys
  /-- crews by (core × 6 + partition) × 32 + slot -/
  crews : Map Crew
  /-- team contexts by team × 256 + core -/
  tctxs : Map TeamCtx
  teams : Map Team
  launches : Map Launch
  /-- logical cores -/
  cores : Map Core
  disp : Dispatcher
  sys : SysDie
  near : NearMem
  sleepers : Map Sleeper
  out : List Output
  deriving DecidableEq, Repr

/-- Why a machine stops with a fault. -/
inductive Fault where
  /-- raised by the meaning of a Nypen instruction when no issue group of a crew is in progress; safe: no step of the
  machine executes an instruction without one -/
  | noIssueGroup
  deriving DecidableEq, Repr

/-- Why a step is refused. -/
inductive Refusal where
  /-- raised by Dispatch for an instruction with no meaning yet; safe -/
  | notModelled (mnemonic : String)
  /-- raised by the meaning of an event row whose enabling conditions in the spec do not hold in this state; safe: the
  spec gives the event no effect there -/
  | notEnabled (mnemonic : String)
  deriving DecidableEq, Repr

/-! ## Reset -/

/-- The configuration record of a module as delivered, the model's choice (log 9): one partition with everything. -/
def deliveredRecord : ConfigurationRecord :=
  { digest := 0, partitions := 1, harts := List.range 16, chips := List.range 8
    ports := [(0, 0), (1, 0), (2, 0), (3, 0)], spares := (List.range 16).map fun c => (c, 16)
    widths := [(0, [16]), (1, [16]), (2, [16]), (3, [16])], hosts := [0, 1], hbmStacks := List.range 16
    hbmrsv := 2 ^ 30, limits := [65535, 65535, 65535, 65535], repair := [], l2Map := [], hbmMap := [] }

/-- The state right after power is applied or a module reset, before the first power-up stage (31 R354): every
register at its reset value (03 R33; 11 R133, R138, R155; 21 R240; 27 R318; 31 R352, R353, R356). -/
def State.reset : State :=
  { clock := 0, cur := none, schedule := [], free := 0, serial := 0
    mem := { ram := [], l2 := [], l1 := [], sluice := [], poison := [], icache := [], tlb := [], scratch := []
             scratchPoison := [], unordered := [], acc := [], accPoison := [], staged := [], revoked := [], carried := [] }
    crews := [], tctxs := [], teams := [], launches := [], cores := []
    disp := { rings := [], queues := [], contexts := [], served := [63, 63, 63, 63], lastPlace := [] }
    sys := { record := deliveredRecord, nextRecord := deliveredRecord, image := 0, umadioz := 0, started := false
             recovery := false, tshare := false, l2spare := false, hbmspare := false, cerate := false, replace := false
             ready := false, stage := 0, unservable := false, slices := [], hbmSpares := [], cecnt := [0, 0, 0, 0]
             window := 0, hlthHart := 0, hlthId := 0, flushBase := 0, flushPages := 0, flushGo := false
             flushDone := false, pbmOff := 0, pbmPages := 0, pbmChip := 0, pbmOp := 0, pbmGo := false, pbmDone := 0
             pbmSeq := 0, pbmPhase := 0, pbmStatus := 0, pbmAt := 0, pbmTag := 0, pbmTill := 0, poolTags := [], faults := [], phys := [], decoders := [], extents := [], departed := []
             inbound := [], reservations := [], orders := [], imsic := [], rootPorts := [], spoiled := [], time := 0, idle := 0 }
    near := { engines := [], sequences := [], retrain := [], turn := none }
    sleepers := [], out := [] }

end Sys2Proof.Machine
end

