-- ==== Sys2Proof/Machine/Store.lean ====
section
/-! DEFINITION. Finite tables by key in canonical form, byte stores, and lane masks. -/

namespace Sys2Proof.Machine

/-! ## Tables -/

/-- The entry of a key. -/
def Map.get {α : Type} : Map α → Nat → Option α
  | [], _ => none
  | (k, v) :: rest, n => if k = n then some v else Map.get rest n

/-- Sets the entry of a key, keeping the keys strictly rising. -/
def Map.set {α : Type} : Map α → Nat → α → Map α
  | [], n, a => [(n, a)]
  | (k, v) :: rest, n, a =>
    if n < k then (n, a) :: (k, v) :: rest
    else if n = k then (n, a) :: rest
    else (k, v) :: Map.set rest n a

/-- Removes the entry of a key. -/
def Map.erase {α : Type} : Map α → Nat → Map α
  | [], _ => []
  | (k, v) :: rest, n => if k = n then rest else (k, v) :: Map.erase rest n

/-- Changes the entry of a key, if there is one. -/
def Map.modify {α : Type} (m : Map α) (n : Nat) (f : α → α) : Map α :=
  match m.get n with
  | some a => m.set n (f a)
  | none => m

/-- The keys are strictly rising: the canonical form of a table. -/
def Map.sorted {α : Type} : Map α → Bool
  | [] => true
  | (k, _) :: rest =>
    (match rest with
     | [] => true
     | (k', _) :: _ => k < k') && Map.sorted rest

/-- The keys of a table. -/
def Map.keys {α : Type} (m : Map α) : List Nat := m.map Prod.fst

/-- The entries whose key satisfies a test. -/
def Map.keep {α : Type} (m : Map α) (p : Nat → Bool) : Map α := m.filter fun e => p e.1

/-! ## Memory -/

/-- What an unlisted byte of memory reads as (DESIGN CHOICE, log 5). -/
def unlisted : Byte := 0

/-- One byte of memory. -/
def Memory.read (m : Memory) (a : Nat) : Byte := (Map.get m a).getD unlisted

/-- Writes one byte, keeping the canonical form: the value an unlisted address reads as removes the entry. -/
def Memory.write (m : Memory) (a : Nat) (b : Byte) : Memory :=
  if b = unlisted then Map.erase m a else Map.set m a b

/-- The canonical form of a memory: addresses strictly rising and no entry equal to the unlisted value. -/
def Memory.wf (m : Memory) : Bool := Map.sorted m && m.all fun e => e.2 ≠ unlisted

/-! ## Masks and lists -/

/-- Lane l is in a mask. -/
def inMask (m : Lanes) (l : Nat) : Bool := m.getLsbD l

/-- The lanes of a mask, ascending (00 R6). -/
def lanesOf (m : Lanes) : List Nat := (List.range 32).filter fun l => m.getLsbD l

/-- The mask of a list of lanes. -/
def maskOf (ls : List Nat) : Lanes := ls.foldl (fun m l => m ||| (1#32 <<< l)) 0#32

/-- Inserts a number into an ascending list unless it is there. -/
def insertAsc : Nat → List Nat → List Nat
  | n, [] => [n]
  | n, k :: rest => if n < k then n :: k :: rest else if n = k then k :: rest else k :: insertAsc n rest

/-- The distinct numbers of a list, ascending. -/
def sortAsc (xs : List Nat) : List Nat := xs.foldl (fun acc x => insertAsc x acc) []

/-- Keeps the first of equal elements. -/
def dedup {α : Type} [DecidableEq α] : List α → List α → List α
  | _, [] => []
  | seen, x :: xs => if x ∈ seen then dedup seen xs else x :: dedup (x :: seen) xs

/-- The n-th element of a list of numbers, or 0. -/
def nth (xs : List Nat) (n : Nat) : Nat := xs.getD n 0

/-! ## Signed values -/

/-- The low n bits of x read as a two's-complement integer (00 R7). -/
def sext (x n : Nat) : Int :=
  let v := x % 2 ^ n
  if v < 2 ^ (n - 1) then (v : Int) else (v : Int) - (2 ^ n : Nat)

/-- The low n bits of the two's-complement form of an integer (00 R6). -/
def lowBits (n : Nat) (v : Int) : Nat := (v % ((2 ^ n : Nat) : Int)).toNat

end Sys2Proof.Machine
end

