-- ==== Sys2Proof/Machine/Float.lean ====
section
/-! DEFINITION. Exact rationals, FP32 values, rounding and flags (chapter 09), and the FP32 operations built on them. -/

namespace Sys2Proof.Machine

/-! ## Exact rationals -/

/-- An exact rational num / den, den positive (00 R6: real expressions are exact). -/
structure Q where
  num : Int
  den : Nat
  deriving DecidableEq, Repr

/-- n / d in lowest terms. -/
def Q.of (n : Int) (d : Nat) : Q :=
  let g := Nat.gcd n.natAbs d
  if g ≤ 1 then ⟨n, d⟩ else ⟨n / (g : Int), d / g⟩

def Q.int (n : Int) : Q := ⟨n, 1⟩
def Q.add (a b : Q) : Q :=
  if a.den = b.den then Q.of (a.num + b.num) a.den else Q.of (a.num * b.den + b.num * a.den) (a.den * b.den)
def Q.neg (a : Q) : Q := ⟨-a.num, a.den⟩
def Q.sub (a b : Q) : Q := a.add b.neg
def Q.mul (a b : Q) : Q := Q.of (a.num * b.num) (a.den * b.den)
/-- a / b for b other than 0. -/
def Q.div (a b : Q) : Q :=
  if b.num < 0 then Q.of (-(a.num * b.den)) (a.den * b.num.natAbs) else Q.of (a.num * b.den) (a.den * b.num.natAbs)
def Q.abs (a : Q) : Q := ⟨(a.num.natAbs : Int), a.den⟩
def Q.lt (a b : Q) : Bool := a.num * b.den < b.num * a.den
def Q.le (a b : Q) : Bool := a.num * b.den ≤ b.num * a.den
def Q.eq (a b : Q) : Bool := a.num * b.den = b.num * a.den
def Q.isZero (a : Q) : Bool := a.num = 0
def Q.isNeg (a : Q) : Bool := a.num < 0
/-- The greatest integer not above a. -/
def Q.floor (a : Q) : Int := a.num / (a.den : Int)
/-- 2 to the power k. -/
def Q.pow2 (k : Int) : Q := if 0 ≤ k then ⟨(2 ^ k.toNat : Nat), 1⟩ else ⟨1, 2 ^ (-k).toNat⟩
/-- n × 2^k. -/
def Q.scaled (n : Int) (k : Int) : Q := if 0 ≤ k then ⟨n * (2 ^ k.toNat : Nat), 1⟩ else Q.of n (2 ^ (-k).toNat)

/-- floor(log2 q) for q > 0. -/
def Q.log2 (q : Q) : Int :=
  let n := q.num.natAbs
  let l : Int := (Nat.log2 n : Int) - (Nat.log2 q.den : Int)
  if (Q.pow2 l).le q then l else l - 1

/-- The bits of the square root of n from bit k down, above the root r found so far. -/
def isqrtGo (n : Nat) : Nat → Nat → Nat
  | 0, r => if (r + 1) * (r + 1) ≤ n then r + 1 else r
  | k + 1, r =>
    let t := r + 2 ^ (k + 1)
    isqrtGo n k (if t * t ≤ n then t else r)

/-- floor(√n). -/
def isqrt (n : Nat) : Nat := isqrtGo n (Nat.log2 n / 2 + 1) 0

/-! ## Numbers -/

/-- A value of a floating format: a NaN, an infinity or a finite signed magnitude, zeros signed. -/
inductive FNum where
  | nan
  | inf (neg : Bool)
  | fin (neg : Bool) (mag : Q)
  deriving DecidableEq, Repr

/-- The exact value of a finite number; 0 for the others. -/
def FNum.val : FNum → Q
  | .fin n m => if n then m.neg else m
  | _ => ⟨0, 1⟩

def FNum.isNan : FNum → Bool
  | .nan => true
  | _ => false

def FNum.isInf : FNum → Bool
  | .inf _ => true
  | _ => false

def FNum.isFin : FNum → Bool
  | .fin _ _ => true
  | _ => false

def FNum.isNeg : FNum → Bool
  | .nan => false
  | .inf n => n
  | .fin n _ => n

def FNum.isZero : FNum → Bool
  | .fin _ m => m.isZero
  | _ => false

/-- The number with its sign inverted. -/
def FNum.negate : FNum → FNum
  | .nan => .nan
  | .inf n => .inf (!n)
  | .fin n m => .fin (!n) m

/-- A rational as a number; an exact zero takes the sign given. -/
def FNum.ofQ (q : Q) (zeroNeg : Bool := false) : FNum :=
  .fin (if q.isZero then zeroNeg else q.isNeg) q.abs

/-- The exact product, with the exclusive OR of the signs; ∞ × 0 is NaN (13 R175). -/
def FNum.mul (a b : FNum) : FNum :=
  let s := a.isNeg != b.isNeg
  match a, b with
  | .nan, _ | _, .nan => .nan
  | .inf _, b => if b.isZero then .nan else .inf s
  | a, .inf _ => if a.isZero then .nan else .inf s
  | .fin _ x, .fin _ y => .fin s (x.mul y)

/-- The exact sum of terms (13 R182): NaN for a NaN or infinities of both signs, an infinity, or the sum; a zero sum is
−0 only if every term is −0. -/
def FNum.sum (ts : List FNum) : FNum :=
  let pos := ts.any fun t => t.isInf && !t.isNeg
  let neg := ts.any fun t => t.isInf && t.isNeg
  if ts.any FNum.isNan || (pos && neg) then .nan
  else if pos then .inf false
  else if neg then .inf true
  else
    .ofQ (ts.foldl (fun s t => s.add t.val) ⟨0, 1⟩) (!ts.isEmpty && ts.all fun t => t.isNeg)

/-- The real order on numbers other than NaN. -/
def FNum.lt : FNum → FNum → Bool
  | .inf n, .inf m => n && !m
  | .inf n, _ => n
  | _, .inf m => !m
  | a, b => a.val.lt b.val

def FNum.le (a b : FNum) : Bool := !b.lt a

/-! ## Rounding -/

/-- Rounding modes 0 to 3 of 09 R113, and the fifth mode of RISC-V, to nearest with ties away from 0, which only a stack
engine has (29 R326). -/
inductive Mode where
  | rne
  | rtz
  | rdn
  | rup
  | rmm
  deriving DecidableEq, Repr

/-- The mode of a two-bit field (07 R87). -/
def Mode.ofCode (n : Nat) : Mode :=
  if n = 0 then .rne else if n = 1 then .rtz else if n = 2 then .rdn else .rup

/-- FFLAGS bits (05 R65). -/
abbrev Flags := BitVec 5
def flagNX : Flags := 1#5
def flagUF : Flags := 2#5
def flagOF : Flags := 4#5
def flagDZ : Flags := 8#5
def flagNV : Flags := 16#5

/-- A flag when a condition holds. -/
def flagIf (c : Bool) (f : Flags) : Flags := if c then f else 0#5

/-- Rounds the nonnegative t to an integer under a mode, for a value of the sign given (09 R113). -/
def roundInt (mode : Mode) (neg : Bool) (t : Q) : Nat :=
  let n := t.floor.toNat
  let r := t.sub (Q.int n)
  let up :=
    match mode with
    | .rne => (Q.mk 1 2).lt r || ((Q.mk 1 2).eq r && n % 2 = 1)
    | .rtz => false
    | .rdn => neg && !r.isZero
    | .rup => !neg && !r.isZero
    | .rmm => (Q.mk 1 2).le r
  if up then n + 1 else n

/-- A binary format: precision with the hidden bit, least normal exponent, and the code of infinity. -/
structure Fmt where
  p : Nat
  emin : Int
  infCode : Nat
  deriving DecidableEq, Repr

def fmt32 : Fmt := ⟨24, -126, 0x7F800000⟩
def fmt16 : Fmt := ⟨8, -126, 0x7F80⟩
def fmt64 : Fmt := ⟨53, -1022, 0x7FF0000000000000⟩

/-- Rounds a positive magnitude to a format: the code of the magnitude, and the flags (09 R106). -/
def roundMag (f : Fmt) (mode : Mode) (neg : Bool) (q : Q) : Nat × Flags :=
  let e := q.log2
  let e' := if e < f.emin then f.emin else e
  let t := q.mul (Q.pow2 ((f.p : Int) - 1 - e'))
  let n := roundInt mode neg t
  let code := (e' - f.emin).toNat * 2 ^ (f.p - 1) + n
  let inexact := !(t.eq (Q.int n))
  if f.infCode ≤ code then
    let toInf := mode = .rne || mode = .rmm || (mode = .rdn && neg) || (mode = .rup && !neg)
    (if toInf then f.infCode else f.infCode - 1, flagNX ||| flagOF)
  else
    let tiny := e < f.emin &&
      (let u := roundInt mode neg (q.mul (Q.pow2 ((f.p : Int) - 1 - e)))
       (Q.scaled u (e - ((f.p : Int) - 1))).lt (Q.pow2 f.emin))
    (code, flagIf inexact flagNX ||| flagIf (inexact && tiny) flagUF)

/-- The canonical quiet NaN (09 R105). -/
def canonicalNan : Word := 0x7FC00000#32

/-- FP32 infinity of a sign. -/
def infWord (neg : Bool) : Word := if neg then 0xFF800000#32 else 0x7F800000#32

/-- FP32 zero of a sign. -/
def zeroWord (neg : Bool) : Word := if neg then 0x80000000#32 else 0#32

/-- An FP32 value rounded under a mode, with its flags (00 R7, 09 R106, R113). -/
def round32 (mode : Mode) : FNum → Word × Flags
  | .nan => (canonicalNan, 0)
  | .inf n => (infWord n, 0)
  | .fin n m =>
    if m.isZero then (zeroWord n, 0)
    else
      let (code, fl) := roundMag fmt32 mode n m
      (BitVec.ofNat 32 code ||| zeroWord n, fl)

/-- round_rne to FP32 without flags (00 R7). -/
def rne32 (x : FNum) : Word := (round32 .rne x).1

/-- The number an FP32 word stands for (09 R104). -/
def num32 (w : Word) : FNum :=
  let s := w.getLsbD 31
  let e : Nat := w.toNat / 2 ^ 23 % 256
  let f : Nat := w.toNat % 2 ^ 23
  if e = 255 then (if f = 0 then .inf s else .nan)
  else if e = 0 then .fin s (Q.scaled f (-149))
  else .fin s (Q.scaled ((2 ^ 23 + f : Nat) : Int) ((e : Int) - 150))

/-- An FP32 NaN. -/
def isNan (w : Word) : Bool := 0x7F800000 < w.toNat % 2 ^ 31

/-- A signalling NaN: bit 22 clear (09 R105). -/
def isSnan (w : Word) : Bool := isNan w && !w.getLsbD 22

/-- NV for a signalling NaN among the operands (09 R106). -/
def snanFlag (ws : List Word) : Flags := flagIf (ws.any isSnan) flagNV

/-! ## FP32 instructions' values -/

/-- A product is invalid: 0 × ∞ (09 R106). -/
def badProduct (a b : FNum) : Bool := (a.isZero && b.isInf) || (a.isInf && b.isZero)

/-- Terms hold infinities of both signs (09 R106). -/
def badSum (ts : List FNum) : Bool :=
  (ts.any fun t => t.isInf && !t.isNeg) && ts.any fun t => t.isInf && t.isNeg

/-- FADD (13 R175). -/
def fadd (a b : Word) : Word × Flags :=
  let ts := [num32 a, num32 b]
  let (r, fl) := round32 .rne (FNum.sum ts)
  (r, fl ||| snanFlag [a, b] ||| flagIf (badSum ts) flagNV)

/-- The sign bit inverted (13 R178). -/
def fneg (a : Word) : Word := a ^^^ 0x80000000#32

/-- FMUL (13 R175). -/
def fmul (a b : Word) : Word × Flags :=
  let (r, fl) := round32 .rne (FNum.mul (num32 a) (num32 b))
  (r, fl ||| snanFlag [a, b] ||| flagIf (badProduct (num32 a) (num32 b)) flagNV)

/-- Sum of exact products and one addend, rounded once (13 R175, R182). -/
def fdot (ps : List (Word × Word)) (c : List Word) : Word × Flags :=
  let prods := ps.map fun (a, b) => FNum.mul (num32 a) (num32 b)
  let ts := c.map num32 ++ prods
  let (r, fl) := round32 .rne (FNum.sum ts)
  let bad := ps.any (fun (a, b) => badProduct (num32 a) (num32 b)) || badSum ts
  (r, fl ||| snanFlag (c ++ ps.map Prod.fst ++ ps.map Prod.snd) ||| flagIf bad flagNV)

/-- FFMA: a × b + c, rounded once (13 R175). -/
def ffma (a b c : Word) : Word × Flags := fdot [(a, b)] [c]

/-- FFMS: a × b − c, rounded once; −c of a NaN stays that NaN (13 R175). -/
def ffms (a b c : Word) : Word × Flags := fdot [(a, b)] [fneg c]

/-- The order of FMIN and FMAX, −0 below +0 (13 R176). -/
def fminLt (a b : Word) : Bool :=
  let x := num32 a
  let y := num32 b
  x.lt y || (x.isZero && y.isZero && x.isNeg && !y.isNeg)

/-- FMIN and FMAX (13 R176): a NaN operand yields the other, two NaNs the canonical NaN. -/
def fminmax (max : Bool) (a b : Word) : Word × Flags :=
  let r :=
    if isNan a then (if isNan b then canonicalNan else b)
    else if isNan b then a
    else if fminLt a b != max then a else b
  (r, snanFlag [a, b])

/-- FSAT: a clamped to [+0, 1.0] (13 R176). -/
def fsat (a : Word) : Word × Flags :=
  let r :=
    if isNan a || a.getLsbD 31 then 0#32
    else if 0x3F800000 < a.toNat then 0x3F800000#32 else a
  (r, snanFlag [a])

/-- A condition of FCMP by its place in the order of 07 R84, and the flags (13 R177). -/
def fcmp (cc : Nat) (a b : Word) : Bool × Flags :=
  let n := isNan a || isNan b
  let x := num32 a
  let y := num32 b
  let lt := !n && x.lt y
  let gt := !n && y.lt x
  let eq := !n && !lt && !gt
  let r :=
    if cc = 0 then eq else if cc = 1 then !eq else if cc = 2 then lt else if cc = 3 then lt || eq
    else if cc = 4 then gt else if cc = 5 then gt || eq else if cc = 6 then !n else n
  let signalling := 2 ≤ cc && cc ≤ 5
  (r, if signalling then flagIf n flagNV else snanFlag [a, b])

/-- FCLASS (13 R178). -/
def fclass (a : Word) : Word :=
  let s := a.getLsbD 31
  let e := a.toNat / 2 ^ 23 % 256
  let f := a.toNat % 2 ^ 23
  let k :=
    if isNan a then (if isSnan a then 8 else 9)
    else if e = 255 then (if s then 0 else 7)
    else if e ≠ 0 then (if s then 1 else 6)
    else if f ≠ 0 then (if s then 2 else 5)
    else if s then 3 else 4
  1#32 <<< (k : Nat)

/-- FRND: the FP32 integral value under a mode (09 R119). A nonzero operand that rounds to 0 gives the zero of its own sign
(PRESUMED, IEEE 754; log 76). -/
def frnd (mode : Mode) (a : Word) : Word × Flags :=
  match num32 a with
  | .nan => (canonicalNan, snanFlag [a])
  | .inf _ => (a, 0)
  | .fin n m =>
    let k := roundInt mode n m
    (if m.isZero then a else rne32 (.fin n (Q.int k)), 0)

/-- FCVTI: to a signed integer, saturating (09 R119). -/
def fcvti (mode : Mode) (a : Word) : Word × Flags :=
  match num32 a with
  | .nan => (0#32, flagNV)
  | .inf n => (if n then 0x80000000#32 else 0x7FFFFFFF#32, flagNV)
  | .fin n m =>
    let k := roundInt mode n m
    if n && 2 ^ 31 < k then (0x80000000#32, flagNV)
    else if !n && 2 ^ 31 ≤ k then (0x7FFFFFFF#32, flagNV)
    else
      let v := BitVec.ofNat 32 k
      (if n then -v else v, flagIf (!(m.eq (Q.int k))) flagNX)

/-- An integer rounded to FP32 (09 R119). -/
def intToF (mode : Mode) (v : Int) : Word × Flags := round32 mode (FNum.ofQ (Q.int v))

/-! ## Square roots and quotients -/

/-- A rational that rounds as √q does, to any format of at most 60 significant bits: √q itself when it is exact on the
grid of 2^-k / den, else the midpoint of the grid cell that holds it. -/
def sqrtRep (q : Q) : Q :=
  let e := q.log2 / 2
  let k : Nat := (64 - e).toNat
  let n := q.num.natAbs * q.den * 4 ^ k
  let r := isqrt n
  if r * r = n then Q.of r (q.den * 2 ^ k) else Q.of (2 * r + 1) (2 * q.den * 2 ^ k)

/-- FSQRT (09 R121). -/
def fsqrt (a : Word) : Word × Flags :=
  match num32 a with
  | .nan => (canonicalNan, snanFlag [a])
  | .inf n => if n then (canonicalNan, flagNV) else (a, 0)
  | .fin n m =>
    if m.isZero then (a, 0) else if n then (canonicalNan, flagNV) else round32 .rne (.fin false (sqrtRep m))

/-- sqrt_rne of an FP32 word, without flags (09 R121). -/
def sqrtRne (a : Word) : Word := (fsqrt a).1

/-- FRCP (09 R121). -/
def frcp (a : Word) : Word × Flags :=
  match num32 a with
  | .nan => (canonicalNan, snanFlag [a])
  | .inf n => (zeroWord n, 0)
  | .fin n m => if m.isZero then (infWord n, flagDZ) else round32 .rne (.fin n ((Q.int 1).div m))

/-- FRSQ (09 R121). -/
def frsq (a : Word) : Word × Flags :=
  match num32 a with
  | .nan => (canonicalNan, snanFlag [a])
  | .inf n => if n then (canonicalNan, flagNV) else (0#32, 0)
  | .fin n m =>
    if m.isZero then (infWord n, flagDZ)
    else if n then (canonicalNan, flagNV)
    else round32 .rne (.fin false (sqrtRep ((Q.int 1).div m)))

end Sys2Proof.Machine
end

