-- ==== Sys2Proof/Machine/Formats.lean ====
section
/-! DEFINITION. The memory formats of chapter 09: BF16, M8, H4, H8 and their E8 scales, the load path, the store path
with its flags, and the reference generator. -/

namespace Sys2Proof.Machine

/-- mix32(counter, seed): the reference generator (09 R120). -/
def mix32 (counter seed : Word) : Word :=
  let h := counter * 0x6F4A7C15#32 + seed
  let h := h ^^^ (h >>> (16 : Nat))
  let h := h * 0x2C1B3C6D#32
  let h := h ^^^ (h >>> (13 : Nat))
  let h := h * 0x297A2D39#32
  h ^^^ (h >>> (16 : Nat))

/-! ## Values of codes -/

/-- BF16 widened exactly: 16 zero bits appended (09 R108, R112). -/
def bf16Word (b : Nat) : Word := BitVec.ofNat 32 (b % 2 ^ 16 * 2 ^ 16)

/-- The magnitude of an M8 payload 1 to 127 (09 R109): the marker is its highest set bit. -/
def m8Mag (p : Nat) : Q :=
  let mk := Nat.log2 p
  let rest := p - 2 ^ mk
  -- bits below the marker: two exponent bits first, where there are two, then the fraction
  let eb := if 2 ≤ mk then 2 else mk
  let fb := mk - eb
  let base : Int := if mk = 6 then 0 else if mk = 5 then -4 else if mk = 4 then -8 else if mk = 3 then -12
    else if mk = 2 then -16 else if mk = 1 then -18 else -19
  let e := rest / 2 ^ fb
  let fr := rest % 2 ^ fb
  Q.scaled ((2 ^ fb + fr : Nat) : Int) (base + (e : Int) - (fb : Int))

/-- The value of an M8 code without its scale (09 R109). -/
def m8Val (c : Nat) : FNum :=
  let p := c % 128
  if c % 256 = 0x80 then .nan
  else if p = 0 then .fin false ⟨0, 1⟩
  else .fin (c % 256 ≥ 128) (m8Mag p)

/-- The value of an H4 or H8 code of n bits without its scale: n + ½ (09 R110). -/
def hVal (bits c : Nat) : FNum := FNum.ofQ (Q.of (2 * sext c bits + 1) 2)

/-- Block-scaled formats by format code: 10 M8, 11 H4, 12 H8 (09 R107). -/
def codeVal (fmt c : Nat) : FNum := if fmt = 10 then m8Val c else if fmt = 11 then hVal 4 c else hVal 8 c

/-- The value of an element of a block with its E8 scale; 255 marks a NaN block (09 R111). -/
def scaledVal (fmt c e8 : Nat) : FNum :=
  if e8 = 255 then .nan
  else
    match codeVal fmt c with
    | .fin n m => .fin n (m.mul (Q.pow2 ((e8 : Int) - 127)))
    | x => x

/-- The load path of a block-scaled element (09 R112): exact, an infinity beyond the FP32 range. -/
def widenScaled (fmt c e8 : Nat) : Word := rne32 (scaledVal fmt c e8)

/-- Bits of one element in memory, by format code (09 R107). -/
def fmtBits (fmt : Nat) : Nat :=
  if fmt = 0 || fmt = 4 || fmt = 5 || fmt = 10 || fmt = 12 then 8
  else if fmt = 1 || fmt = 6 || fmt = 7 || fmt = 9 then 16
  else if fmt = 3 then 64
  else if fmt = 11 then 4
  else 32

/-- Block-scaled formats (09 R107). -/
def isScaled (fmt : Nat) : Bool := fmt = 10 || fmt = 11 || fmt = 12

/-- The load path of the other formats of at most 32 bits: what a load of the bits delivers (09 R107, R112). -/
def widen (fmt v : Nat) : Word :=
  if fmt = 4 then BitVec.ofInt 32 (sext v 8)
  else if fmt = 6 then BitVec.ofInt 32 (sext v 16)
  else if fmt = 9 then bf16Word v
  else BitVec.ofNat 32 v

/-! ## The store path -/

/-- A rounding mode of the store path (09 R113): SR takes its random word. -/
inductive StoreMode where
  | mode (m : Mode)
  | sr (r : Nat)
  deriving DecidableEq, Repr

/-- Rounds x, strictly between adjacent grid values lo and hi, stochastically (09 R117): hi when r is below the
fraction. -/
def srUp (x lo hi : Q) (r : Nat) : Bool := (Q.int r).lt (((x.sub lo).div (hi.sub lo)).mul (Q.int (2 ^ 32)))

/-- A nonnegative t rounded to an integer for a value of the sign given; SR compares on the signed grid. -/
def roundStep (m : StoreMode) (neg : Bool) (t : Q) : Nat :=
  match m with
  | .mode md => roundInt md neg t
  | .sr r =>
    let n := t.floor.toNat
    if t.eq (Q.int n) then n
    else
      let up := if neg then !srUp t.neg (Q.int (-(n + 1 : Int))) (Q.int (-n)) r else srUp t (Q.int n) (Q.int (n + 1)) r
      if up then n + 1 else n

/-- A store of FP32 as BF16: the code and its flags (09 R114, R117, R118). -/
def toBf16 (m : StoreMode) (w : Word) : Nat × Flags :=
  match num32 w with
  | .nan => (0x7FC0, flagIf (isSnan w) flagNV)
  | .inf n => (if n then 0xFF80 else 0x7F80, 0)
  | .fin n q =>
    let s := if n then 0x8000 else 0
    if q.isZero then (s, 0)
    else
      match m with
      | .mode md =>
        let (c, fl) := roundMag fmt16 md n q
        (s + c, fl)
      | .sr r =>
        let e := q.log2
        let e' := if e < -126 then -126 else e
        let t := q.mul (Q.pow2 (7 - e'))
        let k := roundStep m n t
        let code := (e' + 126).toNat * 128 + k
        if 0x7F7F < code || (Q.scaled 255 120).lt q then (s + 0x7F7F, flagNX ||| flagOF)
        else
          let inexact := !(t.eq (Q.int k))
          let u := roundStep (.sr r) n (q.mul (Q.pow2 (7 - e)))
          let tiny := e < -126 && (Q.scaled u (e - 7)).lt (Q.pow2 (-126))
          (s + code, flagIf inexact flagNX ||| flagIf (inexact && tiny) flagUF)

/-- The M8 payload and grid position of a positive magnitude: the greatest payload whose value is not above q, by bits
from k down. -/
def m8Below (q : Q) : Nat → Nat → Nat
  | 0, p => p
  | k + 1, p =>
    let t := p + 2 ^ k
    m8Below q k (if (m8Mag t).le q then t else p)

/-- Narrows the scaled y to M8 (09 R116, R117): a code and whether it saturated. -/
def narrowM8 (m : StoreMode) (y : Q) : Nat × Bool :=
  let neg := y.isNeg
  let q := y.abs
  let top : Q := Q.of 31 2
  if q.isZero then (0, false)
  else if top.lt q then ((if neg then 0x80 else 0) + 0x7F, true)
  else
    let lo := m8Below q 7 0
    let loQ : Q := if lo = 0 then ⟨0, 1⟩ else m8Mag lo
    let p :=
      if loQ.eq q then lo
      else
        let hiQ := m8Mag (lo + 1)
        let up :=
          match m with
          | .mode .rne =>
            let mid := (loQ.add hiQ).div (Q.int 2)
            mid.lt q || (mid.eq q && lo % 2 = 1)
          | .mode .rtz => false
          | .mode .rdn => neg
          | .mode .rup => !neg
          | .mode .rmm => ((loQ.add hiQ).div (Q.int 2)).le q
          | .sr r => if neg then !srUp q.neg hiQ.neg loQ.neg r else srUp q loQ hiQ r
        if up then lo + 1 else lo
    (if p = 0 then 0 else (if neg then 0x80 else 0) + p, false)

/-- Narrows the scaled y of sign neg to H4 or H8 of n bits (09 R110, R113, R116, R117): a code and whether it
saturated. The grid is k + ½. -/
def narrowH (bits : Nat) (m : StoreMode) (neg : Bool) (y : Q) : Nat × Bool :=
  let lim : Int := 2 ^ (bits - 1)
  let top := Q.of (2 * lim - 1) 2
  if y.isZero then (if neg then 2 ^ bits - 1 else 0, false)
  else if top.lt y then ((lim - 1).toNat, true)
  else if y.lt top.neg then (lim.toNat, true)
  else
    -- position on the grid: z = y - ½ lies at or between integers
    let z := y.sub (Q.mk 1 2)
    let lo := z.floor
    let k : Int :=
      if z.eq (Q.int lo) then lo
      else
        match m with
        | .mode .rne =>
          let fr := z.sub (Q.int lo)
          if (Q.mk 1 2).lt fr || ((Q.mk 1 2).eq fr && lo % 2 = 1) then lo + 1 else lo
        | .mode .rtz =>
          -- toward zero, and the value of y's sign nearest to zero between -½ and +½
          if y.isNeg then (if lo + 1 < 0 then lo + 1 else -1) else (if lo < 0 then 0 else lo)
        | .mode .rdn => lo
        | .mode .rup => lo + 1
        | .mode .rmm =>
          let fr := z.sub (Q.int lo)
          if (Q.mk 1 2).lt fr || ((Q.mk 1 2).eq fr && !y.isNeg) then lo + 1 else lo
        | .sr r => if srUp z (Q.int lo) (Q.int (lo + 1)) r then lo + 1 else lo
    (lowBits bits k, false)

/-- Narrows x, already divided by its block's scale, to the code of a block-scaled format (09 R116). -/
def narrowCode (fmt : Nat) (m : StoreMode) (neg : Bool) (y : Q) : Nat × Bool :=
  if fmt = 10 then narrowM8 m y else if fmt = 11 then narrowH 4 m neg y else narrowH 8 m neg y

/-- The exponent place t of 09 R116: 3 for M8, 2 for H4, 6 for H8. -/
def scalePlace (fmt : Nat) : Int := if fmt = 10 then 3 else if fmt = 11 then 2 else 6

/-- An infinity counts as the largest finite FP32 magnitude for the scale (09 R116). -/
def magForScale : FNum → Q
  | .fin _ m => m
  | .inf _ => Q.scaled (2 ^ 24 - 1) 104
  | .nan => ⟨0, 1⟩

/-- E8 of a block of values (09 R116). -/
def blockScale (fmt : Nat) (xs : List FNum) : Nat :=
  if xs.any FNum.isNan then 255
  else
    let m := xs.foldl (fun a x => if a.lt (magForScale x) then magForScale x else a) ⟨0, 1⟩
    if m.isZero then 0
    else
      let e := m.log2 - scalePlace fmt + 127
      if e < 0 then 0 else if 254 < e then 254 else e.toNat

/-- The code of one element of a block whose E8 is known, with its flags (09 R116, R118). -/
def blockCode (fmt e8 : Nat) (m : StoreMode) (x : FNum) : Nat × Flags :=
  if e8 = 255 then
    (if fmt = 10 then 0x80 else 0, if x.isNan then flagNV else flagNX)
  else
    match x with
    | .nan => (if fmt = 10 then 0x80 else 0, flagNV)
    | .inf n =>
      let c := if fmt = 10 then (if n then 0xFF else 0x7F)
        else if fmt = 11 then (if n then 8 else 7) else (if n then 0x80 else 0x7F)
      (c, flagNX)
    | .fin n q =>
      let y := (if n then q.neg else q).mul (Q.pow2 (127 - (e8 : Int)))
      let (c, sat) := narrowCode fmt m n y
      let back := (codeVal fmt c).val
      (c, flagIf (!(back.eq y)) flagNX ||| flagIf sat flagOF)

/-- A saturating store of an integer format (09 R115, R118). -/
def toIntFmt (fmt : Nat) (w : Word) : Nat × Flags :=
  let sat (lo hi v : Int) : Int × Flags :=
    if v < lo then (lo, flagNX) else if hi < v then (hi, flagNX) else (v, 0)
  if fmt = 4 then let (v, f) := sat (-128) 127 w.toInt; (lowBits 8 v, f)
  else if fmt = 5 then let (v, f) := sat 0 255 w.toNat; (lowBits 8 v, f)
  else if fmt = 6 then let (v, f) := sat (-32768) 32767 w.toInt; (lowBits 16 v, f)
  else let (v, f) := sat 0 65535 w.toNat; (lowBits 16 v, f)

/-- The bits a store writes for an element of a format that is not block-scaled, of at most 32 bits (09 R107). -/
def narrow (fmt : Nat) (m : StoreMode) (w : Word) : Nat × Flags :=
  if fmt = 9 then toBf16 m w
  else if fmt = 4 || fmt = 5 || fmt = 6 || fmt = 7 then toIntFmt fmt w
  else (w.toNat % 2 ^ fmtBits fmt, 0)

/-- Rounding to BF16 under RNE, as the engines write it (11 R157, 29 R336). -/
def bf16Rne (w : Word) : Nat := (toBf16 (.mode .rne) w).1

end Sys2Proof.Machine
end

