-- ==== Sys2Proof/Machine/Memory.lean ====
section
/-! DEFINITION. The memory system (chapter 11): the layers a byte may lie in, poison, the physical map, the Sv57 walk,
permissions, Sluice, scratchpad windows, reducing windows and signatures. -/

namespace Sys2Proof.Machine

/-! ## Updates of the state, one per field -/

def State.setMem (s : State) (m : MemSys) : State := { s with mem := m }
def State.setCrews (s : State) (c : Map Crew) : State := { s with crews := c }
def State.setTctxs (s : State) (c : Map TeamCtx) : State := { s with tctxs := c }
def State.setTeams (s : State) (c : Map Team) : State := { s with teams := c }
def State.setLaunches (s : State) (c : Map Launch) : State := { s with launches := c }
def State.setCores (s : State) (c : Map Core) : State := { s with cores := c }
def State.setDisp (s : State) (d : Dispatcher) : State := { s with disp := d }
def State.setSys (s : State) (d : SysDie) : State := { s with sys := d }
def State.setNear (s : State) (d : NearMem) : State := { s with near := d }
def State.setSleepers (s : State) (m : Map Sleeper) : State := { s with sleepers := m }
def State.setOut (s : State) (o : List Output) : State := { s with out := o }
def State.setCur (s : State) (c : Option Issue) : State := { s with cur := c }
def State.setClock (s : State) (c : Nat) : State := { s with clock := c }
def State.setSchedule (s : State) (l : List Instr) : State := { s with schedule := l }
def State.setFree (s : State) (n : Nat) : State := { s with free := n }
def State.setSerial (s : State) (n : Nat) : State := { s with serial := n }

def State.setCrew (s : State) (k : Nat) (c : Crew) : State := s.setCrews (s.crews.set k c)

/-! ## Places -/

/-- The key of a crew slot (01 R15): 6 partitions of 32 slots per core. -/
def crewKey (core part slot : Nat) : Nat := (core * 6 + part) * 32 + slot
def coreOf (key : Nat) : Nat := key / 192
def partOf (key : Nat) : Nat := key / 32 % 6
/-- The logical cluster of a logical core (01 R18). -/
def clusterOf (core : Nat) : Nat := core / 16
/-- The logical die of a logical core: four clusters (11 R144). -/
def dieOf (core : Nat) : Nat := core / 64
/-- The key of a team's context on a core (03 R28). -/
def tctxKey (team core : Nat) : Nat := team * 256 + core

/-! ## Default records -/

def Context.atReset : Context :=
  { preempt := false, resume := false, stopped := false, reset := false, dl := 0, deadline := none, save := 0, slim := 0
    hart := 0, id := 0, ppn := 0, asid := 0, mode := 0, windows := [], hen := false, hbase := 0, evbase := 0, evlog := 4
    evlost := false, evhead := 0, evtail := 0, rval := 0, resIdx := 0, resKill := false, saved := [], savedSleepers := []
    held := [], waiting := [] }

def Window.reset : Window := { base := 0, log := 12, op := 0, en := false }
def SubRing.reset : SubRing :=
  { base := 0, log := 0, head := 0, tail := 0, en := false, overrun := false, rdfault := false, ctx := 0, barred := false }
def JobQueue.reset : JobQueue :=
  { ctx := 0, cls := 0, en := false, fault := false, budget := false, bload := 0, brem := 0, launches := [] }
def FaultRing.reset : FaultRing := { base := 0, log := 4, head := 0, tail := 0 }
def FaultUnit.reset : FaultUnit :=
  { rings := [], starved := false, donefull := false, hart := 0, id := 0, migrations := [], unread := [] }
def Variance.reset : Variance := { s := 0, mean := 0, m2 := 0, reason := 0 }
def Part.reset : Part := { doneA := 0, doneB := 0, lastA := 31, lastB := 31, lastSwap := 0, doneSwap := 0, rfpsn := 0 }
/-- A core at module reset (21 R240: minimums of 16 and caps of 128 units of 8 entries). -/
def Core.reset : Core :=
  { poolMin := 0x10101010, poolCap := 0x80808080, commands := [], waiters := [], rings := [], mill := none
    variance := .reset, tiles := [], payloads := [], formed := [], charges := [], reports := [], footprints := [], milled := { sig := 0#512, know := [] }
    parts := [], lastReport := 0 }
def TeamCtx.start : TeamCtx := { scratch := 0, joints := [], slots := [], tables := [], index := none }
def Hart.reset : Hart :=
  { pc := 0, x := [], f := [], v := [], fcsr := 0, vl := 0, vtype := BitVec.ofNat 64 (2 ^ 63), vstart := 0, vcsr := 0
    cycle := 0, instret := 0, reservation := none, handles := []
    machine := true, mstatus := 0, mtvec := 0, mepc := 0, mcause := 0, mtval := 0
    mie := 0, mscratch := 0, cycleBase := 0 }
def StackEngine.reset : StackEngine := { queue := [], running := none, hart := .reset }
def Carried.none : Carried := { sig := 0#512, know := [] }
def Token.idle : Token := { state := .idle, status := 0, cause := 0, ea := 0, carried := .none }
def Joint.empty : Joint := { need := none, sigs := [], bad := false }
def Slot.start : Slot := { state := .empty, vals := [], bad := false, carried := .none }

def State.context (s : State) (n : Nat) : Context := (s.disp.contexts.get n).getD .atReset
def State.subRing (s : State) (n : Nat) : SubRing := (s.disp.rings.get n).getD .reset
def State.queue (s : State) (n : Nat) : JobQueue := (s.disp.queues.get n).getD .reset
def State.core (s : State) (n : Nat) : Core := (s.cores.get n).getD .reset
def State.faultUnit (s : State) (d : Nat) : FaultUnit := (s.sys.faults.get d).getD .reset
def FaultUnit.ring (u : FaultUnit) (n : Nat) : FaultRing := (u.rings.get n).getD .reset
def Context.window (c : Context) (n : Nat) : Window := (c.windows.get n).getD .reset
def State.engine (s : State) (n : Nat) : StackEngine := (s.near.engines.get n).getD .reset
def Core.part (c : Core) (n : Nat) : Part := (c.parts.get n).getD .reset

def State.setContext (s : State) (n : Nat) (c : Context) : State :=
  s.setDisp { s.disp with contexts := s.disp.contexts.set n c }
def State.setSubRing (s : State) (n : Nat) (c : SubRing) : State :=
  s.setDisp { s.disp with rings := s.disp.rings.set n c }
def State.setQueue (s : State) (n : Nat) (c : JobQueue) : State :=
  s.setDisp { s.disp with queues := s.disp.queues.set n c }
def State.setCore (s : State) (n : Nat) (c : Core) : State := s.setCores (s.cores.set n c)
def State.setFaultUnit (s : State) (n : Nat) (u : FaultUnit) : State :=
  s.setSys { s.sys with faults := s.sys.faults.set n u }
def State.setEngine (s : State) (n : Nat) (e : StackEngine) : State :=
  s.setNear { s.near with engines := s.near.engines.set n e }
def State.setTctx (s : State) (team core : Nat) (t : TeamCtx) : State :=
  s.setTctxs (s.tctxs.set (tctxKey team core) t)
def State.emit (s : State) (o : Output) : State := s.setOut (o :: s.out)

/-- A team's launch record (03 R30). -/
def State.launchOf (s : State) (team : Nat) : Option Launch :=
  (s.teams.get team).bind fun t => s.launches.get t.launch

/-! ## Bytes of memory -/

/-- The number of stacks of the partition (01 R19). -/
def SysDie.stacks (d : SysDie) : Nat := if d.record.partitions = 4 then 4 else if d.record.partitions = 2 then 8 else 16
/-- The number of compute dies of the partition (01 R19). -/
def SysDie.dies (d : SysDie) : Nat := d.stacks / 4

/-- What a physical address reaches (11 R131). -/
inductive Target where
  | hbm
  | capacity
  | fabric
  /-- a root port's memory window (31 R346) -/
  | window (port : Nat)
  /-- another part of the system region (31 R346) -/
  | system
  | none
  deriving DecidableEq, Repr

/-- An address lies in a range. -/
def Extent.has (e : Extent) (pa : Nat) : Bool := e.base ≤ pa && pa < e.base + e.size

/-- A decoder of the partition's CXL host ports maps a fabric address (31 R350): a dynamic one where an extent holds it. -/
def SysDie.maps (d : SysDie) (pa : Nat) : Bool :=
  d.decoders.any fun e =>
    d.record.hosts.contains e.port && e.base ≤ pa && pa < e.base + e.size && (!e.dynamic || d.extents.any fun x => x.has pa)

/-- The physical map of the partition (11 R131, 31 R346; 01 R20): the window of a port that is not the partition's has no
target. -/
def SysDie.target (d : SysDie) (pa : Nat) : Target :=
  if pa < d.stacks * 2 ^ 36 then .hbm
  else if 2 ^ 40 ≤ pa && pa < 2 ^ 40 + d.record.chips.length * 2 ^ 39 then .capacity
  else if 2 ^ 48 ≤ pa && pa < 2 ^ 49 then
    (if d.maps pa && !(d.departed.any fun e => e.has pa) then .fabric else .none)
  else if 0xF100000000000 ≤ pa && pa < 0xF100000000000 + 4 * 2 ^ 44 then
    (let p := (pa - 0xF100000000000) / 2 ^ 44
     if d.record.ports.any fun e => e.1 = p then .window p else .none)
  else if 0xF000000000000 ≤ pa && pa < 2 ^ 52 then .system
  else .none

/-- A byte lies in a revoked fabric range (11 R160). -/
def MemSys.isRevoked (m : MemSys) (pa : Nat) : Bool := m.revoked.any fun r => r.1 ≤ pa && pa < r.1 + r.2

def l1Key (core pa : Nat) : Nat := core * 2 ^ 52 + pa

/-- A byte as its L2 home holds it. -/
def MemSys.home (m : MemSys) (pa : Nat) : Byte :=
  match m.l2.get pa with
  | some b => b
  | none => m.ram.read pa

/-- A byte as a thread of a core reads it: the core's dirty copy, else the home. -/
def MemSys.seen (m : MemSys) (core pa : Nat) : Byte :=
  match m.l1.get (l1Key core pa) with
  | some b => b
  | none => m.home pa

/-- n bytes from an address. -/
def MemSys.homeBytes (m : MemSys) (pa n : Nat) : List Byte := (List.range n).map fun k => m.home (pa + k)
def MemSys.seenBytes (m : MemSys) (core pa n : Nat) : List Byte := (List.range n).map fun k => m.seen core (pa + k)

/-- Little-endian value of bytes (00 R3). -/
def bytesNat : List Byte → Nat
  | [] => 0
  | b :: bs => b.toNat + 256 * bytesNat bs

/-- The n low bytes of a number (00 R3). -/
def natBytes : Nat → Nat → List Byte
  | 0, _ => []
  | n + 1, v => BitVec.ofNat 8 v :: natBytes n (v / 256)

/-- Writes a byte in the L2 of its home. -/
def MemSys.putHome (m : MemSys) (pa : Nat) (b : Byte) : MemSys := { m with l2 := m.l2.set pa b }
/-- Writes a byte in the memory itself, through any L2 copy (11 R134, WT and CLVL 10). -/
def MemSys.putThrough (m : MemSys) (pa : Nat) (b : Byte) : MemSys :=
  { m with l2 := m.l2.erase pa, ram := m.ram.write pa b }
/-- Writes a byte in a core's L1, dirty. -/
def MemSys.putL1 (m : MemSys) (core pa : Nat) (b : Byte) : MemSys := { m with l1 := m.l1.set (l1Key core pa) b }

/-- Poison marks. -/
def MemSys.poisonAt (m : MemSys) (pa : Nat) : Bool := (m.poison.get (pa / 16)).isSome
def MemSys.poisonSet (m : MemSys) (g : Nat) : MemSys := { m with poison := m.poison.set g () }
def MemSys.poisonClear (m : MemSys) (g : Nat) : MemSys := { m with poison := m.poison.erase g }

/-- A range of n bytes touches a poisoned granule. -/
def MemSys.poisonIn (m : MemSys) (pa n : Nat) : Bool :=
  (List.range (n / 16 + 2)).any fun k =>
    let g := pa / 16 + k
    16 * g < pa + n && (m.poison.get g).isSome

/-- Clears the poison of every granule that a write of n bytes covers whole (19 R219). -/
def MemSys.unpoison (m : MemSys) (pa n : Nat) : MemSys :=
  (List.range (n / 16 + 1)).foldl (fun m k =>
    let g := (pa + 15) / 16 + k
    if 16 * g + 16 ≤ pa + n then m.poisonClear g else m) m

/-- Folds a byte writer over consecutive addresses. -/
def writeSeq (f : MemSys → Nat → Byte → MemSys) : MemSys → Nat → List Byte → MemSys
  | m, _, [] => m
  | m, a, b :: bs => writeSeq f (f m a b) (a + 1) bs

/-- Writes the dirty bytes of a core's L1 that satisfy a test to their homes (11 R153, 19 R229). -/
def MemSys.flushL1 (m : MemSys) (core : Nat) (p : Nat → Bool) : MemSys :=
  let mine := m.l1.filter fun e => e.1 / 2 ^ 52 = core && p (e.1 % 2 ^ 52)
  let m' := { m with l1 := m.l1.filter fun e => !(e.1 / 2 ^ 52 = core && p (e.1 % 2 ^ 52)) }
  mine.foldl (fun m e => m.putHome (e.1 % 2 ^ 52) e.2) m'

/-- Writes the dirty L2 bytes that satisfy a test to memory (19 R229, 31 R353). -/
def MemSys.flushL2 (m : MemSys) (p : Nat → Bool) : MemSys :=
  let mine := m.l2.filter fun e => p e.1
  mine.foldl (fun m e => { m with ram := m.ram.write e.1 e.2 }) { m with l2 := m.l2.filter fun e => !p e.1 }

/-- The bytes of a 128-byte line. -/
def inLine (line pa : Nat) : Bool := pa / 128 = line

/-- Writes bytes at their home, after the core's own dirty bytes of the lines (19 R226, 11 R132). -/
def MemSys.writeHome (m : MemSys) (core pa : Nat) (bs : List Byte) : MemSys :=
  let lo := pa / 128
  let hi := (pa + bs.length - 1) / 128
  let m := m.flushL1 core fun a => lo ≤ a / 128 && a / 128 ≤ hi
  (writeSeq MemSys.putHome m pa bs).unpoison pa bs.length

/-! ## Page tables -/

def pteBit (p : BitVec 64) (k : Nat) : Bool := p.getLsbD k
def ptePpn (p : BitVec 64) : Nat := p.toNat / 2 ^ 10 % 2 ^ 44

/-- The outcome of a walk. -/
inductive Walk where
  /-- a leaf: the PTE, its address, and log2 of the page's size -/
  | leaf (pte : BitVec 64) (pteAt log : Nat)
  /-- a capacity PTE (11 R139) -/
  | capacity (pte : BitVec 64) (pteAt : Nat) (big : Bool)
  | bad (cause : Nat)
  deriving DecidableEq, Repr

/-- A PTE with V = 0 that names a frame of the capacity tier, at the 4 KiB level or in a 64 KiB group (11 R139). -/
def isCapacityPte (p : BitVec 64) : Bool :=
  !pteBit p 0 && pteBit p 60 && 2 ^ 28 ≤ ptePpn p && ptePpn p < 5 * 2 ^ 28 && (!pteBit p 63 || ptePpn p % 16 = 8)

/-- The cause of an address at which a device finds no memory (11 R131, R160): 0x048 within a revoked range, and where
an extent has left the decoders (DEDUCED, log 71); 0x04A for another address with no target, and for the system region. -/
def absentCause (s : State) (pa : Nat) : Option Nat :=
  if s.mem.isRevoked pa then some 0x048
  else
    match s.sys.target pa with
    | .none => some (if s.sys.departed.any fun d => d.has pa then 0x048 else 0x04A)
    | .system => some 0x04A
    | _ => none

/-- One level of the Sv57 walk and those below it (11 R134, R135, after the RISC-V privileged architecture, log 12, log 26). -/
def walkGo (s : State) (va : Nat) : Nat → Nat → Walk
  | 0, _ => .bad 0x042
  | lvl + 1, tablePpn =>
    let shift := 12 + 9 * lvl
    let pteAt := tablePpn * 4096 + 8 * (va / 2 ^ shift % 512)
    match absentCause s pteAt with
    | some c => .bad c
    | none =>
      let p := BitVec.ofNat 64 (bytesNat (s.mem.homeBytes pteAt 8))
      let r := pteBit p 1
      let w := pteBit p 2
      let x := pteBit p 3
      if !pteBit p 0 then
        (if lvl = 0 && isCapacityPte p then .capacity p pteAt (pteBit p 63) else .bad 0x042)
      else if w && !r then .bad 0x042
      else if r || x then
        if pteBit p 61 && pteBit p 62 then .bad 0x042
        else if pteBit p 63 then
          (if lvl = 0 && ptePpn p % 16 = 8 then .leaf p pteAt 16 else .bad 0x042)
        else if ptePpn p % 2 ^ (9 * lvl) ≠ 0 then .bad 0x042
        else .leaf p pteAt shift
      else if pteBit p 4 || pteBit p 6 || pteBit p 7 || pteBit p 61 || pteBit p 62 || pteBit p 63 then .bad 0x042
      else walkGo s va lvl (ptePpn p)

/-- The walk of a context's tables (11 R133). -/
def walk (s : State) (ctx va : Nat) : Walk := walkGo s va 5 (s.context ctx).ppn.toNat

/-- A translated access: physical address, leaf and its address. -/
structure Mapped where
  pa : Nat
  pte : BitVec 64
  pteAt : Nat
  deriving DecidableEq, Repr

/-- The physical address of va under a leaf of 2^log bytes. -/
def leafPa (pte : BitVec 64) (log va : Nat) : Nat := ptePpn pte * 4096 / 2 ^ log * 2 ^ log + va % 2 ^ log

/-- Caching off: CLVL 10, or a PBMT of NC or IO (11 R134). -/
def uncached (pte : BitVec 64) : Bool :=
  (pteBit pte 55 && !pteBit pte 54) || pteBit pte 61 || pteBit pte 62
def isIo (pte : BitVec 64) : Bool := pteBit pte 62 && !pteBit pte 61
def clvl (pte : BitVec 64) : Nat := pte.toNat / 2 ^ 54 % 4

/-- What a kind of access needs. -/
inductive Access where
  | load
  | store
  | fetch
  /-- no permission (19 R229) -/
  | cache
  deriving DecidableEq, Repr

/-- The least of the causes that apply (05 R75, 19 R218). -/
def least (cs : List (Bool × Nat)) : Option Nat :=
  cs.foldl (fun a c => if c.1 then (match a with | some x => some (min x c.2) | none => some c.2) else a) none

/-- The permission causes of a leaf (11 R135). -/
def permission (pte : BitVec 64) (k : Access) : Option Nat :=
  least [(k = .store && !pteBit pte 2, 0x043), (k = .fetch && !pteBit pte 3, 0x044),
    (k = .load && !pteBit pte 1, 0x045), (k ≠ .cache && !pteBit pte 4, 0x045)]

/-- The causes of a physical target (11 R131, R160; 31 R346). -/
def targetCause (s : State) (pa : Nat) (pte : BitVec 64) : Option Nat :=
  match absentCause s pa, s.sys.target pa with
  | some c, _ => some c
  | none, .window _ => if isIo pte then none else some 0x04A
  | none, _ => none

/-- The outcome of a device access to a virtual address. -/
inductive Reach where
  | ok (m : Mapped)
  | capacity (pte : BitVec 64) (pteAt : Nat) (big : Bool)
  | bad (cause : Nat)
  deriving DecidableEq, Repr

/-- The leaves that the TLB of a core and the TLB its cluster shares hold for an address: those that any core of the
cluster loaded (11 R136). A leaf serves an access whose A and D bits it has set; another access walks again (11 R135). -/
def tlbLeaves (s : State) (core asid va : Nat) (store : Bool) : List Walk :=
  (s.mem.tlb.filter fun e => (e.core = core || (core < 256 && e.core / 16 = core / 16)) && e.asid = asid && e.base ≤ va && va < e.base + 2 ^ e.log &&
    pteBit e.pte 6 && (!store || pteBit e.pte 7)).map fun e => .leaf e.pte e.pteAt e.log

/-- The leaf of an address for a core: by a walk, or one that a TLB holds where that differs and the free choice says
that the TLB still holds it (11 R136, log 13). -/
def leafOf (s : State) (core ctx va : Nat) (store : Bool) : Walk :=
  let fresh := walk s ctx va
  match (tlbLeaves s core (s.context ctx).asid.toNat va store).filter fun e => e ≠ fresh with
  | [] => fresh
  | old :: olds =>
    let n := s.free * 2 ^ 57 + va
    if Config.freeBool n then (old :: olds).getD ((Config.freeWord n).toNat % (olds.length + 1)) old else fresh

/-- Translation and permission of an access of a context at a core (11 R128, R135, R139). -/
def translate (s : State) (core ctx va : Nat) (k : Access) : Reach :=
  if va / 2 ^ 56 ≠ 0 && va / 2 ^ 56 ≠ 255 then .bad 0x042
  else
    match leafOf s core ctx (va % 2 ^ 57) (k = .store) with
    | .bad c => .bad c
    | .capacity p a b => .capacity p a b
    | .leaf pte pteAt log =>
      match permission pte k with
      | some c => .bad c
      | none => .ok ⟨leafPa pte log (va % 2 ^ 57), pte, pteAt⟩

/-- Translation, permission and target of an access of a context at a core (11 R131, R135; 31 R346). -/
def reach (s : State) (core ctx va : Nat) (k : Access) : Reach :=
  match translate s core ctx va k with
  | .ok m =>
    match targetCause s m.pa m.pte with
    | some c => .bad c
    | none => .ok m
  | r => r

/-- How a unit that has no page's attributes writes a byte: in the L2 of its home, but through to fabric memory, of which only
pages with CLVL 11 are cached in L2 (11 R158; 31 R350). -/
def SysDie.unitWrite (d : SysDie) (pa : Nat) : MemSys → Nat → Byte → MemSys :=
  if d.target pa = .fabric then MemSys.putThrough else MemSys.putHome

/-- Sets A, and D for a store, of the PTE at its address, and keeps the leaf in the core's TLB (11 R135, R136). -/
def noteAccess (s : State) (core ctx va : Nat) (store : Bool) : State :=
  match leafOf s core ctx (va % 2 ^ 57) store with
  | .leaf pte pteAt log =>
    let want := pte ||| (1#64 <<< (6 : Nat)) ||| (if store then 1#64 <<< (7 : Nat) else 0#64)
    let m :=
      if pte = want then s.mem
      else writeSeq (s.sys.unitWrite pteAt) s.mem pteAt (natBytes 8 want.toNat)
    let asid := (s.context ctx).asid.toNat
    let base := va % 2 ^ 57 / 2 ^ log * 2 ^ log
    let e : TlbEntry := { core, asid, base, log, pte := want, pteAt }
    let tlb := e :: m.tlb.filter fun t => !(t.core = core && t.asid = asid && t.base = base)
    s.setMem { m with tlb := tlb }
  | _ => s

/-! ## Reads and writes of translated accesses -/

/-- DPC has contained a root port: its link is down (31 R348). -/
def SysDie.contained (d : SysDie) (port : Nat) : Bool := ((d.rootPorts.get port).map RootPort.contained).getD false

/-- The bytes that a device behind a root port returns; all ones while DPC contains the port (31 R346, R348; log 90). -/
def deviceBytes (s : State) (port pa n : Nat) : List Byte :=
  (List.range n).map fun k => if s.sys.contained port then 0xFF#8 else Config.deviceByte (s.free * 2 ^ 52 + pa + k)

/-- Bytes written to a device behind a root port, which are lost while DPC contains the port (31 R346, R348; log 90). -/
def deviceWrite (s : State) (port pa : Nat) (bs : List Byte) : State :=
  if s.sys.contained port then s else s.emit (.io pa bs)

/-- The bytes a thread of a core reads. A window of a root port returns what its device returns (31 R346). -/
def readMapped (s : State) (core : Nat) (m : Mapped) (n : Nat) : List Byte :=
  match s.sys.target m.pa with
  | .window p => deviceBytes s p m.pa n
  | _ => s.mem.seenBytes core m.pa n

/-- A store to a page goes through L2 to the target memory (11 R134): CLVL 10, NC or IO, WT, or fabric memory without
CLVL 11. -/
def writesThrough (s : State) (m : Mapped) : Bool :=
  uncached m.pte || pteBit m.pte 56 || (s.sys.target m.pa = .fabric && clvl m.pte ≠ 3)

/-- A store to an x row of a bank-unit sequence makes the y row of that index unpredictable (29 R341). -/
def spoilRows (s : State) (pa n : Nat) : State :=
  if s.near.sequences.isEmpty then s
  else
    s.setNear { s.near with sequences := s.near.sequences.map fun q =>
      { q with spoiled := q.spoiled ++ (List.range q.xs.length).filter fun r =>
          !q.spoiled.contains r && q.xs.getD r 0 < pa + n && pa < q.xs.getD r 0 + 1024 } }

/-- The number under which a hart of Umadioz makes its accesses (31 R344). -/
def umadiozCore (hart : Nat) : Nat := 640 + hart

/-! ## Frames of the capacity tier that software writes (11 R141) -/

/-- The capacity PTEs in memory that name the 4 KiB page of the capacity tier at an address. -/
def MemSys.capacityPtes (m : MemSys) (page : Nat) : List Nat :=
  let top (e : Nat × Byte) : Bool := e.1 % 8 = 7 && e.2.getLsbD 4
  (dedup [] ((m.ram.filter top ++ m.l2.filter top).map fun e => e.1 - 7)).filter fun a =>
    let p := BitVec.ofNat 64 (bytesNat (m.homeBytes a 8))
    isCapacityPte p && (if pteBit p 63 then ptePpn p / 16 = page / 16 else ptePpn p = page)

/-- A page table of a number of levels holds a PTE of its last level. -/
def tableHolds (m : MemSys) (pteAt : Nat) : Nat → Nat → Bool
  | 0, _ => false
  | lvl + 1, ppn =>
    if lvl = 0 then pteAt / 4096 = ppn
    else (List.range 512).any fun k =>
      let p := BitVec.ofNat 64 (bytesNat (m.homeBytes (ppn * 4096 + 8 * k) 8))
      pteBit p 0 && !pteBit p 1 && !pteBit p 2 && !pteBit p 3 && tableHolds m pteAt lvl (ptePpn p)

/-- A context can run: it is not stopped, and it has a resident team or a launch in an enabled queue (DESIGN CHOICE, log 97). -/
def canRun (s : State) (ctx : Nat) : Bool :=
  !(s.context ctx).stopped &&
    (s.teams.any (fun t => t.2.ctx = ctx) || s.disp.queues.any fun q => q.2.en && q.2.ctx.toNat = ctx && !q.2.launches.isEmpty)

/-- A software write of n bytes: a page of the capacity tier that a capacity PTE names is spoiled while a context that uses
the PTE's table can run, and a PTE written anew is not (11 R141; an EMBW is no such write, log 97). -/
def spoilFrames (s : State) (pa n : Nat) : State :=
  let kept : Map Unit := s.sys.spoiled.filter fun e => !(e.1 < pa + n && pa < e.1 + 8)
  let s := if s.sys.spoiled.isEmpty then s else s.setSys { s.sys with spoiled := kept }
  if s.sys.target pa ≠ .capacity then s
  else
    let pages := (List.range (n / 4096 + 2)).filterMap fun k =>
      let page := pa / 4096 + k
      if 4096 * page < pa + n then some page else none
    let ptes := (pages.flatMap s.mem.capacityPtes).filter fun a =>
      (List.range 16).any fun c => canRun s c && tableHolds s.mem a 5 (s.context c).ppn.toNat
    if ptes.isEmpty then s
    else s.setSys { s.sys with spoiled := ptes.foldl (fun m a => m.set a ()) s.sys.spoiled }

/-- Notes that another agent has stored to a hart's reservation granule, whatever the value (29 R327; 31 R344), and what a
store does to running bank-unit sequences. -/
def noteStore (s : State) (core pa n : Nat) : State :=
  let s := spoilFrames (spoilRows s pa n) pa n
  let kept := s.sys.reservations.filter fun e => umadiozCore e.1 = core || !(64 * e.2 < pa + n && pa < 64 * e.2 + 64)
  let s := if s.sys.reservations.isEmpty then s else s.setSys { s.sys with reservations := kept }
  s.near.engines.foldl (fun s x =>
    match x.2.hart.reservation with
    | some g =>
      if 512 + x.1 ≠ core && 64 * g < pa + n && pa < 64 * g + 64 then
        s.setEngine x.1 { x.2 with hart := { x.2.hart with reservation := none } }
      else s
    | none => s) s

/-- Writes bytes at their home, as an engine, an atomic or a release does, and through to memory where the page's
attributes ask for it (11 R134). A device behind a window takes the bytes. -/
def storeHome (s : State) (core : Nat) (m : Mapped) (bs : List Byte) : State :=
  match s.sys.target m.pa with
  | .window p => deviceWrite s p m.pa bs
  | _ =>
    let mem := s.mem.writeHome core m.pa bs
    (noteStore s core m.pa bs.length).setMem (if writesThrough s m then
        mem.flushL2 fun a => m.pa / 128 ≤ a / 128 && a / 128 ≤ (m.pa + bs.length - 1) / 128
      else mem)

/-- Writes bytes at a physical address for an agent that has no page's attributes. -/
def storePhysical (s : State) (core pa : Nat) (bs : List Byte) : State :=
  let m := s.mem.writeHome core pa bs
  (noteStore s core pa bs.length).setMem (if s.sys.target pa = .fabric then
    m.flushL2 fun a => pa / 128 ≤ a / 128 && a / 128 ≤ (pa + bs.length - 1) / 128 else m)

/-- Writes bytes as a plain store of a core does (11 R134, R142, R158): through to memory for an uncached page, WT, or
fabric memory without CLVL 11, into L2
for CLVL 01 or 11, else dirty in L1. A device behind a window takes the bytes. -/
def storeMapped (s : State) (core : Nat) (m : Mapped) (bs : List Byte) : State :=
  match s.sys.target m.pa with
  | .window p => deviceWrite s p m.pa bs
  | _ =>
    let mine (a : Nat) : Bool := m.pa / 128 ≤ a / 128 && a / 128 ≤ (m.pa + bs.length - 1) / 128
    let mem :=
      if writesThrough s m then
        writeSeq MemSys.putThrough (s.mem.flushL1 core mine) m.pa bs
      else if clvl m.pte = 0 then writeSeq (fun x a b => x.putL1 core a b) s.mem m.pa bs
      else writeSeq MemSys.putHome (s.mem.flushL1 core mine) m.pa bs
    (noteStore s core m.pa bs.length).setMem (mem.unpoison m.pa bs.length)

/-! ## Signatures (11 R152, R153) -/

/-- The three bits a line sets in a signature. -/
def signature (line : Nat) : BitVec 512 :=
  let f (hi lo : Nat) : Nat := line / 2 ^ lo % 2 ^ (hi + 1 - lo)
  let m := (mix32 (BitVec.ofNat 32 (f 31 0)) (BitVec.ofNat 32 (f 44 32))).toNat
  let i1 := (f 8 0 ^^^ f 17 9 ^^^ f 26 18 ^^^ f 35 27 ^^^ f 44 36) % 512
  (1#512 <<< i1) ||| (1#512 <<< (m % 512)) ||| (1#512 <<< (m / 512 % 512))

/-- A crew's write enters its write sets of the scopes team to system. -/
def Crew.noteWrite (c : Crew) (pa : Nat) : Crew :=
  { c with writeSets := c.writeSets.map fun w => w ||| signature (pa / 128) }

/-! ## Scratchpad windows (11 R129, R130) -/

/-- The reservation of a resident team of a context holds n bytes at offset o of a core's scratchpad. -/
def reservedBy (s : State) (ctx core o n : Nat) : Bool :=
  s.teams.any fun (k, t) =>
    t.ctx = ctx && t.cores.contains core &&
      (match s.tctxs.get (tctxKey k core), s.launches.get t.launch with
       | some c, some l => c.scratch ≤ o && o + n ≤ c.scratch + 1024 * l.record.scratch.toNat
       | _, _ => false)

/-- The scratchpad byte key of n bytes at a scratch address, for a team: none raises 0x046. -/
def scratchAt (s : State) (team addr n : Nat) : Option Nat :=
  match s.teams.get team with
  | none => none
  | some t =>
    if addr < t.cores.length * 2 ^ 19 then
      let core := nth t.cores (addr / 2 ^ 19)
      let o := addr % 2 ^ 19
      match s.tctxs.get (tctxKey team core), s.launches.get t.launch with
      | some c, some l => if o + n ≤ 1024 * l.record.scratch.toNat then some (core * 2 ^ 19 + c.scratch + o) else none
      | _, _ => none
    else if 0x01000000 ≤ addr && addr < 0x01800000 then
      let q := (addr - 0x01000000) / 2 ^ 19
      let o := addr % 2 ^ 19
      let core := (nth t.cores 0) / 16 * 16 + q
      if o + n ≤ 2 ^ 19 && reservedBy s t.ctx core o n then some (core * 2 ^ 19 + o) else none
    else none

def MemSys.scratchByte (m : MemSys) (k : Nat) : Byte := (m.scratch.get k).getD 0
def MemSys.scratchBytes (m : MemSys) (k n : Nat) : List Byte := (List.range n).map fun j => m.scratchByte (k + j)
/-- Writes scratchpad bytes; a granule written whole loses its poison. -/
def MemSys.putScratch (m : MemSys) (k : Nat) (bs : List Byte) : MemSys :=
  let m := writeSeq (fun x a b => { x with scratch := if b = 0 then x.scratch.erase a else x.scratch.set a b }) m k bs
  (List.range (bs.length / 16 + 1)).foldl (fun m j =>
    let g := (k + 15) / 16 + j
    if 16 * g + 16 ≤ k + bs.length then { m with scratchPoison := m.scratchPoison.erase g } else m) m

/-- A range of scratchpad bytes touches a poisoned granule. -/
def MemSys.scratchPoisoned (m : MemSys) (k n : Nat) : Bool :=
  (List.range (n / 16 + 2)).any fun j =>
    let g := k / 16 + j
    16 * g < k + n && (m.scratchPoison.get g).isSome
def MemSys.poisonScratch (m : MemSys) (g : Nat) : MemSys := { m with scratchPoison := m.scratchPoison.set g () }

/-- The numbers of a crew's thread and of an engine queue of a core as writers of scratchpad (23 R277). -/
def threadWriter (key lane : Nat) : Nat := 32 * key + lane
def engineWriter (core queue : Nat) : Nat := 2 ^ 22 + 4 * core + queue

/-- A scratchpad write of writers in the step of a number (23 R277). -/
def MemSys.noteScratch (m : MemSys) (writers : List Nat) (step k n : Nat) : MemSys :=
  { m with unordered := (List.range (n / 16 + 2)).foldl (fun u j =>
      let g := k / 16 + j
      if 16 * g < k + n then writers.foldl (fun u x => u.set (g * 2 ^ 24 + x) step) u else u) m.unordered }

/-- Every write of a granule happens before what knows the writes given (11 R149; 23 R277). -/
def MemSys.orderedFor (m : MemSys) (know : Map Nat) (g : Nat) : Bool :=
  m.unordered.all fun e => e.1 / 2 ^ 24 ≠ g ||
    (match know.get (e.1 % 2 ^ 24) with | some n => e.2 ≤ n | none => false)

/-! ## Reducing windows (11 R155, R156) -/

/-- The enabled windows of a context that hold a virtual address: number and operation. -/
def windowsAt (s : State) (ctx va : Nat) : List (Nat × Nat) :=
  (List.range 4).filterMap fun n =>
    let w := (s.context ctx).window n
    let log := if 12 ≤ w.log.toNat && w.log.toNat ≤ 30 then w.log.toNat else 12
    let base := w.base.toNat / 2 ^ log * 2 ^ log
    if w.en && w.op.toNat ≠ 3 && base ≤ va && va < base + 2 ^ log then some (n, w.op.toNat) else none

/-- The first of them. -/
def windowAt (s : State) (ctx va : Nat) : Option (Nat × Nat) := (windowsAt s ctx va).head?

/-- Adds a contribution into a staging slot (11 R156): the first is copied, later ones are added, in FP32 for FP32 and
BF16. -/
def stage (s : State) (ctx win op pa core : Nat) (v : Word) : State :=
  let k := pa * 256 + core
  let nv : Word :=
    match s.mem.staged.get k with
    | none => v
    | some old =>
      if op = 2 then old.val + v else (fadd old.val v).1
  s.setMem { s.mem with staged := s.mem.staged.set k { ctx, win, op, val := nv } }

/-! ## Sluice (11 R142) -/

/-- Strips sent lines of a core from the pending loads of its crews. -/
def releaseLines (s : State) (core : Nat) (lines : List Nat) : State :=
  s.setCrews (s.crews.map fun (k, c) =>
    if coreOf k = core then
      (k, { c with pend := c.pend.map fun p => { p with lines := p.lines.filter fun l => !lines.contains l } })
    else (k, c))

/-- Sends the entries of a core that satisfy a test. -/
def sendEntries (s : State) (core : Nat) (p : SluiceEntry → Bool) : State :=
  let sent := s.mem.sluice.filter fun e => e.core = core && p e
  let s := s.setMem { s.mem with sluice := s.mem.sluice.filter fun e => !(e.core = core && p e) }
  releaseLines s core (sent.map SluiceEntry.line)

/-- Enters a request for sectors of a line; a 257th line sends the oldest entry. -/
def enterSluice (s : State) (core line : Nat) (sectors : BitVec 8) (crew : Option Nat) : State :=
  let add (e : SluiceEntry) : SluiceEntry :=
    { e with sectors := e.sectors ||| sectors
             stores := match crew with | some c => if e.stores.contains c then e.stores else c :: e.stores | none => e.stores }
  if s.mem.sluice.any fun e => e.core = core && e.line = line then
    s.setMem { s.mem with sluice := s.mem.sluice.map fun e => if e.core = core && e.line = line then add e else e }
  else
    let mine := s.mem.sluice.filter fun e => e.core = core
    let s := if mine.length < 256 then s
      else match mine with
        | o :: _ => sendEntries s core fun e => e.line = o.line
        | [] => s
    s.setMem { s.mem with sluice := s.mem.sluice ++
      [add { core, line, born := s.clock, sectors := 0, stores := [] }] }

/-- The 16-byte sectors of a line that n bytes at pa cover. -/
def sectorsOf (pa n : Nat) : BitVec 8 :=
  (List.range 8).foldl (fun m k =>
    if pa % 128 < 16 * k + 16 && 16 * k < pa % 128 + n then m ||| (1#8 <<< k) else m) 0#8

/-! ## Releases and acquires at a core (11 R142, R148, R153) -/

/-- The latest scratchpad write of each writer in two maps. -/
def joinKnow (a b : Map Nat) : Map Nat := b.foldl (fun m e => m.set e.1 (max e.2 ((m.get e.1).getD 0))) a

/-- What two releases carry together. -/
def Carried.join (a b : Carried) : Carried := { sig := a.sig ||| b.sig, know := joinKnow a.know b.know }

/-- The part of a release at a scope that a core performs for a crew: its held stores are sent at core scope or wider,
and its core's dirty bytes go to their homes, and its write set clears, at team scope or wider. -/
def releaseAt (s : State) (crew scope : Nat) : State :=
  let core := coreOf crew
  let s := if 2 ≤ scope then sendEntries s core fun e => e.stores.contains crew else s
  if 1 ≤ scope then
    let s := s.setMem (s.mem.flushL1 core fun _ => true)
    s.setCrews (s.crews.modify crew fun c =>
      { c with writeSets := (List.range c.writeSets.length).map fun k =>
          if k + 1 = scope then 0#512 else c.writeSets.getD k 0 })
  else s

/-- The scratchpad writes that happen before a release by some of a crew's threads (11 R149; 23 R277): those the crew has
acquired, and every one of these threads. -/
def Crew.knowing (c : Crew) (key step : Nat) (lanes : List Nat) : Map Nat :=
  lanes.foldl (fun m l => m.set (threadWriter key l) step) c.know

/-- What a release of threads of a crew at a scope carries (11 R149, R153): its write set for the scope with its acquired set,
as they stand before the release, and the scratchpad writes that happen before it. -/
def releaseSig (s : State) (crew scope : Nat) (lanes : List Nat) : Carried :=
  match s.crews.get crew with
  | some c => { sig := (c.writeSets.getD (scope - 1) 0#512) ||| c.acquired, know := c.knowing crew s.free lanes }
  | none => .none

/-- A release write carries what its release gives to the home of a line (11 R153). -/
def carry (s : State) (x : Carried) (pa : Nat) : State :=
  s.setMem { s.mem with carried := s.mem.carried.set (pa / 128) (((s.mem.carried.get (pa / 128)).getD .none).join x) }

/-- An acquire of a hart takes what a release carried (11 R149). -/
def AgentOrder.acquire (o : AgentOrder) (x : Carried) : AgentOrder := { o with know := joinKnow o.know x.know }

/-- What a release of a hart carries (11 R149, R153): it holds no write set, and the signature of all ones never misses a line
(DESIGN CHOICE, log 83). -/
def AgentOrder.release (o : AgentOrder) : Carried := { sig := BitVec.allOnes 512, know := o.know }

/-- A FENCE of a hart: an acquiring one makes its earlier reads acquires, a releasing one its later stores releases (11 R148). -/
def AgentOrder.fenced (o : AgentOrder) (acq rel : Bool) : AgentOrder :=
  let o := if acq then o.acquire { sig := 0#512, know := o.reads } else o
  if rel then { o with fence := o.release } else o

/-- What the releases of a line have carried. -/
def carriedAt (s : State) (pa : Nat) : Carried := (s.mem.carried.get (pa / 128)).getD .none

/-- A hart's reads of the lines at addresses, which a later acquiring FENCE makes acquires (11 R148), or are acquires. -/
def AgentOrder.read (o : AgentOrder) (s : State) (pas : List Nat) (acquire : Bool) : AgentOrder :=
  pas.foldl (fun o pa =>
    let x := carriedAt s pa
    let o := { o with reads := joinKnow o.reads x.know }
    if acquire then o.acquire x else o) o

/-- What a hart's write at an address carries: what a release of its gives, or a releasing FENCE before it. -/
def AgentOrder.wrote (o : AgentOrder) (s : State) (pa : Nat) (release : Bool) : State :=
  if release then carry s o.release pa else if o.fence = .none then s else carry s o.fence pa

/-- A crew's acquire takes what a release carried (11 R149, R153). -/
def Crew.acquire (c : Crew) (x : Carried) : Crew :=
  let all := ({ sig := c.acquired, know := c.know } : Carried).join x
  { c with acquired := all.sig, know := all.know }

def acquireSig (s : State) (crew : Nat) (x : Carried) : State := s.setCrews (s.crews.modify crew fun c => c.acquire x)

/-- An acquire at team scope or wider takes what the releases of the line it reads carried (11 R153). -/
def acquireAt (s : State) (crew scope pa : Nat) : State :=
  if 1 ≤ scope then acquireSig s crew (carriedAt s pa) else s

/-- A plain read of a crew, which a later acquiring fence makes an acquire (11 R148). -/
def noteRead (s : State) (crew pa : Nat) : State :=
  s.setCrews (s.crews.modify crew fun c => { c with reads := c.reads.join (carriedAt s pa) })

end Sys2Proof.Machine
end

