-- ==== Sys2Proof/Machine/Special.lean ====
section
/-! DEFINITION. The special functions of 09 R121: each is computed to a rational interval with integer arithmetic at a
scale of 2^192 and rounded; its ends are taken to round alike for every FP32 operand (UNVERIFIED, log 70). -/

namespace Sys2Proof.Machine

/-- The scale of fixed-point values: 2^192. -/
def fxBits : Nat := 192
def fxOne : Nat := 2 ^ fxBits
/-- A bound on the error of each fixed-point value below, in units of the scale. -/
def fxErr : Nat := 2 ^ 24

/-- 1/(2k+1) z^(2k+1) summed with signs: the arctangent (alt) or inverse hyperbolic tangent of z, fuel terms. -/
def fxAtanGo (alt : Bool) (z2 : Nat) : Nat → Nat → Nat → Int
  | 0, _, _ => 0
  | fuel + 1, pow, k =>
    let t : Int := (pow / (2 * k + 1) : Nat)
    (if alt && k % 2 = 1 then -t else t) + fxAtanGo alt z2 fuel (pow * z2 / fxOne) (k + 1)

/-- The series at z = n / d. -/
def fxAtan (alt : Bool) (n d : Nat) (fuel : Nat) : Int :=
  fxAtanGo alt (fxOne * (n * n) / (d * d)) fuel (fxOne * n / d) 0

/-- π by Machin's formula. -/
def fxPi : Nat := (16 * fxAtan true 1 5 60 - 4 * fxAtan true 1 239 30).toNat

/-- ln 2 = 2 artanh(1/3). -/
def fxLn2 : Nat := (2 * fxAtan false 1 3 80).toNat

/-- Sum over k of t_k with t_(k+1) = ± t_k × x / ((a + 1)(b + 1)...) : terms of a power series, the divisors of term k
being step × k + 1 .. step × k + step offset by off. -/
def fxPower (x : Nat) (step off : Nat) (alt : Bool) : Nat → Nat → Nat → Int
  | 0, _, _ => 0
  | fuel + 1, t, k =>
    let m := step * k + off
    let d := if step = 1 then m + 1 else (m + 1) * (m + 2)
    (if alt && k % 2 = 1 then -(t : Int) else t) + fxPower x step off alt fuel (t * x / fxOne / d) (k + 1)

/-- The rational interval of a fixed-point value. -/
def fxLo (v : Int) : Q := Q.of (v - (fxErr : Int)) fxOne
def fxHi (v : Int) : Q := Q.of (v + (fxErr : Int)) fxOne

/-- Rounds an inexact value known to lie in an interval that does not touch 0 (00 R7, 09 R121): the rounding of its
lower end, at which NX is certain. -/
def roundInterval (neg : Bool) (lo hi : Q) : Word × Flags :=
  let a := round32 .rne (.fin neg lo)
  let b := round32 .rne (.fin neg hi)
  (a.1, a.2 ||| b.2 ||| flagNX)

/-- FEXP2 (09 R121). -/
def fexp2 (a : Word) : Word × Flags :=
  match num32 a with
  | .nan => (canonicalNan, snanFlag [a])
  | .inf n => (if n then 0#32 else infWord false, 0)
  | .fin n m =>
    let x := if n then m.neg else m
    if (Q.int 200).lt m then
      -- far outside the range: overflow, or a result that rounds to +0
      (if n then (0#32, flagNX ||| flagUF) else (infWord false, flagNX ||| flagOF))
    else
      let i := x.floor
      let fr := x.sub (Q.int i)
      if fr.isZero then round32 .rne (.fin false (Q.pow2 i))
      else
        let t := (fr.num.natAbs * fxLn2) / fr.den
        let v := fxPower t 1 0 false 60 fxOne 0
        roundInterval false ((fxLo v).mul (Q.pow2 i)) ((fxHi v).mul (Q.pow2 i))

/-- FLOG2 (09 R121). -/
def flog2 (a : Word) : Word × Flags :=
  match num32 a with
  | .nan => (canonicalNan, snanFlag [a])
  | .inf n => if n then (canonicalNan, flagNV) else (a, 0)
  | .fin n m =>
    if m.isZero then (infWord true, flagDZ)
    else if n then (canonicalNan, flagNV)
    else
      let e := m.log2
      let y := m.mul (Q.pow2 (-e))
      if y.eq (Q.int 1) then round32 .rne (FNum.ofQ (Q.int e))
      else
        let z := (y.sub (Q.int 1)).div (y.add (Q.int 1))
        let ln := 2 * fxAtan false z.num.natAbs z.den 70
        let v : Int := e * (fxOne : Int) + ln * (fxOne : Int) / (fxLn2 : Int)
        let neg := v < 0
        let w : Int := (v.natAbs : Int)
        roundInterval neg (fxLo w) (fxHi w)

/-- sin(πy) for 0 < y < 1 (y other than ½), as an interval: y × (π − π³y²/6 + …). -/
def sinPiMag (y : Q) : Q × Q :=
  let py := fxPi * y.num.natAbs / y.den
  let v := fxPower (py * py / fxOne) 2 1 true 40 fxPi 0
  ((fxLo v).mul y, (fxHi v).mul y)

/-- sin(πx) of a finite x whose magnitude is m and sign n, for m no multiple of ½: reduction to (0, ½) is exact. -/
def sinPiGo (n : Bool) (m : Q) : Word × Flags :=
  let k := m.floor
  let r := m.sub (Q.int k)
  let neg := n != (k % 2 = 1)
  let y := if (Q.mk 1 2).lt r then (Q.int 1).sub r else r
  let (lo, hi) := sinPiMag y
  roundInterval neg lo hi

/-- FSINPI (09 R121). -/
def fsinpi (a : Word) : Word × Flags :=
  match num32 a with
  | .nan => (canonicalNan, snanFlag [a])
  | .inf _ => (canonicalNan, flagNV)
  | .fin n m =>
    let k := m.floor
    let r := m.sub (Q.int k)
    if m.isZero then (a, 0)
    else if r.isZero then (zeroWord n, 0)
    else if r.eq (Q.mk 1 2) then (0x3F800000#32 ||| zeroWord (n != (k % 2 = 1)), 0)
    else sinPiGo n m

/-- FCOSPI (09 R121): cos(πx) = sin(π(x + ½)). -/
def fcospi (a : Word) : Word × Flags :=
  match num32 a with
  | .nan => (canonicalNan, snanFlag [a])
  | .inf _ => (canonicalNan, flagNV)
  | .fin _ m =>
    let s := m.add (Q.mk 1 2)
    let k := s.floor
    let r := s.sub (Q.int k)
    if r.isZero then (0#32, 0)
    else if r.eq (Q.mk 1 2) then (0x3F800000#32 ||| zeroWord (k % 2 = 1), 0)
    else sinPiGo false s

/-- FTANH (09 R121): x × (sinh x / x) / cosh x; beyond 16 the value rounds to ±1. -/
def ftanh (a : Word) : Word × Flags :=
  match num32 a with
  | .nan => (canonicalNan, snanFlag [a])
  | .inf n => (0x3F800000#32 ||| zeroWord n, 0)
  | .fin n m =>
    if m.isZero then (a, 0)
    else if (Q.int 16).lt m then (0x3F800000#32 ||| zeroWord n, flagNX)
    else
      let x := fxOne * m.num.natAbs / m.den
      let x2 := x * x / fxOne
      let sh := fxPower x2 2 1 false 90 fxOne 0
      let ch := fxPower x2 2 0 false 90 fxOne 0
      roundInterval n (((fxLo sh).mul m).div (fxHi ch)) (((fxHi sh).mul m).div (fxLo ch))

end Sys2Proof.Machine
end

