-- ==== Sys2Proof/Machine/Ops.lean ====
section
/-! DEFINITION. The named operations that the meanings share: the PC table, the event ring, taking an exception and
holding one, ending threads, convergence and barrier checks, posting results, and the frame of one issue. -/

namespace Sys2Proof.Machine

/-- An outcome of the machine. -/
abbrev Out := Host.Outcome State Fault Refusal

/-! ## Threads and the PC table (03 R21 to R23) -/

def Thread.start : Thread :=
  { pc := 0, rep := 0, handler := false, wait := .awake, h := List.replicate 16 0#32, stack := [], tlbase := 0, tlsp := 0 }

def Thread.live (t : Thread) : Bool := t.wait ≠ .ended
def Thread.key (t : Thread) : GroupKey := ⟨t.pc, t.handler, t.rep⟩

def Crew.thread (c : Crew) (l : Nat) : Thread := (c.threads.get l).getD { Thread.start with wait := .ended }
def Crew.setThread (c : Crew) (l : Nat) (t : Thread) : Crew := { c with threads := c.threads.set l t }
def Crew.mapThreads (c : Crew) (ls : List Nat) (f : Nat → Thread → Thread) : Crew :=
  ls.foldl (fun c l => c.setThread l (f l (c.thread l))) c

/-- The live lanes of a crew. -/
def Crew.liveLanes (c : Crew) : List Nat := (List.range 32).filter fun l => (c.thread l).live

/-- The order of groups by PC (03 R22), then repeat index and handler flag. -/
def keyLt (a b : GroupKey) : Bool :=
  a.pc.toNat < b.pc.toNat ||
    (a.pc = b.pc && (a.rep < b.rep || (a.rep = b.rep && !a.handler && b.handler)))

def insertKey (k : GroupKey) : List GroupKey → List GroupKey
  | [] => [k]
  | x :: xs => if k = x then x :: xs else if keyLt k x then k :: x :: xs else x :: insertKey k xs

/-- The distinct keys, in ascending order, to which the threads of the group K of `c` have moved in `c'`. -/
def successors (c c' : Crew) (K : GroupKey) : List GroupKey :=
  (List.range 32).foldl (fun ks l =>
    if (c.thread l).live && (c.thread l).key = K && (c'.thread l).live then insertKey (c'.thread l).key ks else ks) []

/-- The index of the group that takes the place of the group at index p or, if that left the table, of the next one
that stayed. -/
def placeOf (c c' : Crew) (new : List GroupKey) : Nat → Nat → Nat
  | 0, _ => 0
  | fuel + 1, p =>
    match c.groups[p]? with
    | none => 0
    | some K =>
      match successors c c' K with
      | k :: _ => new.findIdx fun x => x = k
      | [] => placeOf c c' new fuel (p + 1)

/-- The PC table after the threads moved from `c` to `c'` (03 R22): of each group the lowest next PC keeps the place, the
others are appended in ascending order, equal groups merge into the earlier one, and empty groups leave. -/
def retable (c c' : Crew) : Crew :=
  let step (acc : List GroupKey × List GroupKey) (K : GroupKey) : List GroupKey × List GroupKey :=
    match successors c c' K with
    | [] => acc
    | k :: rest => (acc.1 ++ [k], acc.2 ++ rest)
  let (places, appended) := c.groups.foldl step ([], [])
  let new := dedup [] (places ++ appended)
  { c' with groups := new, pointer := placeOf c c' new 33 c.pointer }

/-- The PC table after a convergence release (03 R22, 17 R208): the released groups, in ascending order of PC, take the
place of the earliest group they came from. -/
def retableRelease (c c' : Crew) (released : List Nat) : Crew :=
  let keys := released.foldl (fun ks l => insertKey (c'.thread l).key ks) []
  let olds := released.map fun l => (c.thread l).key
  let at' := c.groups.findIdx fun K => olds.contains K
  let present (k : GroupKey) : Bool := (List.range 32).any fun l => (c'.thread l).live && (c'.thread l).key = k
  let raw := c.groups.take at' ++ keys ++ c.groups.drop at'
  let new := dedup [] (raw.filter present)
  let pk := c.groups[c.pointer]?
  let pointer :=
    match pk with
    | some k => if new.contains k then new.findIdx (fun x => x = k) else if at' < new.length then at' else 0
    | none => 0
  { c' with groups := new, pointer := pointer }

/-! ## Teams of crews -/

/-- The context a crew's team belongs to. -/
def ctxOf (s : State) (c : Crew) : Nat := ((s.teams.get c.team).map Team.ctx).getD 0
def recordOf (s : State) (c : Crew) : Option LaunchRecord := (s.launchOf c.team).map Launch.record

/-- The crews of a team: keys and crews. -/
def crewsOf (s : State) (team : Nat) : List (Nat × Crew) := s.crews.filter fun e => e.2.team = team

/-! ## Messages and the event ring (27 R317, R318; 31 R347) -/

/-- A step that a hart of Umadioz makes: harts are released once the module is READY (31 R354). -/
def byHart (name : String) (s : State) (o : Out) : Out := if s.sys.ready then o else .refused (.notEnabled name)

/-- An interrupt file of a hart's IMSIC (31 R344). -/
def State.imsicFile (s : State) (hart file : Nat) : ImsicFile :=
  (s.sys.imsic.get (16 * hart + file)).getD { pending := [], enabled := [], threshold := 0, deliver := false }

/-- A write of an identity to seteipnum of an interrupt file: the identities are 1 to 2,047, another is ignored (31 R347; the RISC-V
AIA, PRESUMED, log 87). -/
def deliverMsi (s : State) (hart file id : Nat) : State :=
  if 1 ≤ id && id < 2048 then
    let x := s.imsicFile hart file
    s.setSys { s.sys with imsic := s.sys.imsic.set (16 * hart + file) { x with pending := x.pending.set id () } }
  else s

/-- An MSI write to the S-level file of a hart: dropped when the hart lies outside the partition (31 R347). -/
def sendMsi (s : State) (hart id : Nat) : State :=
  if s.sys.record.harts.contains hart then (deliverMsi s hart 1 id).emit (.msi hart id) else s

/-- The CTXIRQ message of a context. -/
def sendCtxIrq (s : State) (ctx : Nat) : State :=
  let c := s.context ctx
  sendMsi s c.hart.toNat c.id.toNat

/-! ## Health (31 R347, R356) -/

/-- Sends the health message and the BMC event of a setting of HEALTH bits [4:0]; code names the cause of the setting. -/
def healthMessage (s : State) (code : Nat) : State :=
  sendMsi (s.emit (.bmc code)) s.sys.hlthHart.toNat s.sys.hlthId.toNat

/-- Sets one of HEALTH bits [4:1], which stay set; a new setting sends its message (31 R356). -/
def raiseHealth (s : State) (bit : Nat) : State :=
  let d := s.sys
  let was := if bit = 1 then d.tshare else if bit = 2 then d.l2spare else if bit = 3 then d.hbmspare else d.cerate
  if was then s
  else
    healthMessage (s.setSys { d with
      tshare := d.tshare || bit = 1, l2spare := d.l2spare || bit = 2, hbmspare := d.hbmspare || bit = 3
      cerate := d.cerate || bit = 4 }) bit

/-- Counts n corrected errors in a CECNT field, saturating; a field above its limit sets CERATE (31 R356). -/
def countCorrected (s : State) (field n : Nat) : State :=
  let v := min 65535 (nth s.sys.cecnt field + n)
  let s := s.setSys { s.sys with cecnt := s.sys.cecnt.set field v }
  if nth s.sys.record.limits field < v then raiseHealth s 4 else s

/-- log2 of a ring's entries: values outside 4 to 12 act as 4. -/
def ringLog (n : Nat) : Nat := if 4 ≤ n && n ≤ 12 then n else 4

def evFull (c : Context) : Bool := 2 ^ ringLog c.evlog.toNat ≤ (c.evhead - c.evtail).toNat

/-- Writes an entry of four dwords, advances EVHEAD and sends the message. -/
def writeEvent (s : State) (ctx : Nat) (ds : List Nat) : State :=
  let c := s.context ctx
  let pa := c.evbase.toNat / 4096 * 4096 + 32 * (c.evhead.toNat % 2 ^ ringLog c.evlog.toNat)
  let s := storePhysical s 256 pa (ds.flatMap fun d => natBytes 8 d)
  sendCtxIrq (s.setContext ctx { s.context ctx with evhead := c.evhead + 1 }) ctx

/-- A context event: dropped with LOST set when the ring is full (27 R318). -/
def contextEvent (s : State) (ctx cause d1 d2 d3 : Nat) (team : Nat := 0) : State :=
  let c := s.context ctx
  if evFull c then s.setContext ctx { c with evlost := true }
  else writeEvent s ctx [cause + team * 2 ^ 32, d1, d2, d3]

/-- A context event that announces a register, whose message goes out also when the ring has no room for the entry (03 R49;
11 R140; 31 R347). -/
def noticeEvent (s : State) (ctx cause : Nat) : State :=
  let s' := contextEvent s ctx cause 0 0 0
  if evFull (s.context ctx) then sendCtxIrq s' ctx else s'

/-- The team index of a crew. -/
def teamIndex (s : State) (c : Crew) : Nat := ((s.teams.get c.team).map Team.index).getD 0

/-- Writes the escalation entry of a sleeper (27 R317, R318), whose threads then wait for a resume. -/
def escalate (s : State) (ctx id : Nat) (sl : Sleeper) (pc value : Nat) (direct : Bool) : State :=
  match s.crews.get sl.crew with
  | none => s
  | some c =>
    let cause := match lanesOf sl.lanes with
      | l :: _ => ((c.thread l).h.getD 0 0#32).toNat % 1024
      | [] => 0
    let idx := (s.context ctx).evhead.toNat
    let s := writeEvent s ctx
      [cause + 4096 + teamIndex s c * 2 ^ 32, c.index + coreOf sl.crew * 2 ^ 16 + sl.lanes.toNat * 2 ^ 32, pc, value]
    s.setSleepers (s.sleepers.set id { sl with what := .escalated idx direct })

/-- Writes the waiting escalations of a context, oldest first, while the ring has room (27 R317). -/
def drainEscalations (s : State) (ctx : Nat) : Nat → State
  | 0 => s
  | fuel + 1 =>
    let c := s.context ctx
    match c.waiting with
    | [] => s
    | id :: rest =>
      if evFull c then s
      else
        let s := s.setContext ctx { c with waiting := rest }
        match s.sleepers.get id with
        | some sl =>
          let pc := match s.crews.get sl.crew, lanesOf sl.lanes with
            | some cr, l :: _ => (cr.thread l).pc.toNat
            | _, _ => 0
          drainEscalations (escalate s ctx id sl pc 0 true) ctx fuel
        | none => drainEscalations s ctx fuel

/-! ## Taking an exception (27 R308 to R312) -/

/-- A cause raised by one thread: its lane, the code and the fault value of H3 and H4. -/
structure Raised where
  lane : Nat
  cause : Nat
  value : Nat := 0
  deriving DecidableEq, Repr

/-- The handler registers at a first entry (27 R311). -/
def entryRegs (t : Thread) (r : Raised) (h5 h6 : Word) (mask : Lanes) (heldCount : Nat) : List Word :=
  [BitVec.ofNat 32 (r.cause + t.rep * 2 ^ 16), BitVec.ofNat 32 t.pc.toNat, BitVec.ofNat 32 (t.pc.toNat / 2 ^ 32),
   BitVec.ofNat 32 r.value, BitVec.ofNat 32 (r.value / 2 ^ 32), h5, h6, mask, BitVec.ofNat 32 heldCount] ++
    List.replicate 7 0#32

/-- Holds a cause for a thread in handler mode (27 R312). -/
def Crew.hold (c : Crew) (cause : Nat) (pc : Addr) : Crew :=
  if (c.held.get cause).isSome then c else { c with held := c.held.set cause pc }

/-- Takes the exceptions of one instruction of a crew: threads outside handler mode enter the handler, or escalate at
once when HEN is 0; threads in handler mode hold the cause and move on to next. h5 and h6 are the instruction's words.
The PC table is left to the caller. -/
def takeCauses (s : State) (key : Nat) (rs : List Raised) (h5 h6 : Word) (next : Addr) : State :=
  match s.crews.get key with
  | none => s
  | some c0 =>
    let ctx := ctxOf s c0
    let cx := s.context ctx
    let (held, fresh) := rs.partition fun r => (c0.thread r.lane).handler
    let c1 := held.foldl (fun c r =>
      let t := c.thread r.lane
      (c.hold r.cause t.pc).setThread r.lane { t with pc := next, rep := 0, wait := .awake }) c0
    let maskFor (r : Raised) : Lanes :=
      maskOf ((fresh.filter fun q => q.cause = r.cause && (c0.thread q.lane).key = (c0.thread r.lane).key).map Raised.lane)
    let enter (c : Crew) (r : Raised) : Crew :=
      let t := c.thread r.lane
      let regs := entryRegs t r h5 h6 (maskFor r) c1.held.length
      c.setThread r.lane
        { t with h := regs, handler := true, wait := .awake, pc := if cx.hen then cx.hbase else t.pc
                 rep := if cx.hen then 0 else t.rep }
    let c2 := fresh.foldl enter c1
    let s := s.setCrew key c2
    if cx.hen || fresh.isEmpty then s
    else
      -- one escalation for each sub-crew (R310, R317)
      let masks := dedup [] (fresh.map maskFor)
      let s := masks.foldl (fun s m =>
        let id := s.serial
        let ls := lanesOf m
        let s := s.setSerial (id + 1)
        let s := s.setSleepers (s.sleepers.set id
          { crew := key, lanes := m, since := s.clock, seq := 0, next := 0, what := .escalating })
        let s := s.setCrews (s.crews.modify key fun c => c.mapThreads ls fun _ t => { t with wait := .op id })
        s.setContext ctx { s.context ctx with waiting := (s.context ctx).waiting ++ [id] }) s
      drainEscalations s ctx 64

/-! ## Entering again from a handler (27 R313, R315) -/

/-- The recorded PC and index of a handler thread. -/
def recordedPc (t : Thread) : Addr := (t.h.getD 2 0#32 ++ t.h.getD 1 0#32).setWidth 57
def recordedIndex (t : Thread) : Nat := (t.h.getD 0 0#32).toNat / 2 ^ 16 % 64

/-- The handler registers of a chained entry (27 R315). -/
def chainRegs (code : Nat) (pc : Addr) (index : Nat) (at' : Addr) (mask : Lanes) (left : Nat) : List Word :=
  [BitVec.ofNat 32 (code + index * 2 ^ 16 + 2 ^ 24), BitVec.ofNat 32 pc.toNat, BitVec.ofNat 32 (pc.toNat / 2 ^ 32),
   0#32, 0#32, 0#32, 0#32, mask, BitVec.ofNat 32 left, BitVec.ofNat 32 at'.toNat, BitVec.ofNat 32 (at'.toNat / 2 ^ 32),
   0#32, 0#32, 0#32, 0#32, 0#32]

/-- Threads that stay in handler mode enter it again at a handler's address with the lowest held code of their crew, each with
the resume point given (27 R315); none where the crew holds no code. -/
def Crew.chain (c : Crew) (hbase : Addr) (points : List (Nat × Thread × Addr × Nat)) :
    Option (Crew × List (Nat × Thread)) :=
  match c.held with
  | [] => none
  | (code, at') :: rest =>
    let mask := maskOf (points.map Prod.fst)
    some ({ c with held := rest }, points.map fun (l, t, pc, i) =>
      (l, { t with h := chainRegs code pc i at' mask rest.length, pc := hbase, rep := 0, wait := .awake }))

/-- The page of their resume point cannot be read: threads parked by HRETs hold 0x042, stay at the recorded PC and index, and
enter again (11 R140; 27 R313, R315). -/
def failResume (s : State) (key : Nat) (ls : List Nat) : State :=
  match s.crews.get key with
  | none => s
  | some c =>
    (dedup [] (ls.map fun l => (c.thread l).pc)).foldl (fun s pc =>
      match s.crews.get key with
      | none => s
      | some c1 =>
        let points := (ls.filter fun l => (c.thread l).pc = pc).map fun l =>
          (l, c.thread l, recordedPc (c.thread l), recordedIndex (c.thread l))
        match (c1.hold 0x042 pc).chain (s.context (ctxOf s c)).hbase points with
        | none => s
        | some (c2, moves) => s.setCrew key (retable c1 (moves.foldl (fun c m => c.setThread m.1 m.2) c2))) s

/-! ## Fetching words (07 R77, R78) -/

/-- A byte as instruction fetch reads it through the core's instruction cache: an old copy, or the L2's value, by the
free choice (07 R78, log 14). -/
def fetchByte (s : State) (core pa : Nat) : Byte :=
  let now := s.mem.home pa
  match s.mem.icache.get (l1Key core pa) with
  | some b => if b = now then now else if Config.freeBool (s.free * 2 ^ 57 + pa / 2) then b else now
  | none => now

/-- One byte of an instruction: its physical address and value, or a cause (07 R78; 11 R135; 27 R321). -/
def fetchAt (s : State) (core ctx va : Nat) : Except Nat (Nat × Byte) :=
  match reach s core ctx (if va / 2 ^ 56 % 2 = 1 then va % 2 ^ 57 + 127 * 2 ^ 57 else va % 2 ^ 57) .fetch with
  | .bad c => .error c
  | .capacity _ _ _ => .error 0
  | .ok m => if s.mem.poisonAt m.pa then .error 0x103 else .ok (m.pa, fetchByte s core m.pa)

/-- n bytes of an instruction from an address (57-bit wrap). Error 0 stands for a capacity PTE. -/
def fetchBytes (s : State) (core ctx : Nat) : Nat → Nat → Except Nat (List (Nat × Byte))
  | 0, _ => .ok []
  | n + 1, va =>
    match fetchAt s core ctx va with
    | .error c => .error c
    | .ok b =>
      match fetchBytes s core ctx n (va + 1) with
      | .error c => .error c
      | .ok bs => .ok (b :: bs)

/-- The bytes of the instruction at a PC. -/
def fetchInstr (s : State) (core ctx : Nat) (pc : Addr) : Except Nat (List (Nat × Byte)) :=
  match fetchBytes s core ctx 2 pc.toNat with
  | .error c => .error c
  | .ok first =>
    let b0 := (first.map Prod.snd).headD 0
    let n := if b0.toNat % 2 = 0 then 2 else if b0.toNat % 4 = 1 then 4 else 8
    match fetchBytes s core ctx (n - 2) (pc.toNat + 2) with
    | .error c => .error c
    | .ok rest => .ok (first ++ rest)

/-- The words H5 and H6 of an instruction's bytes (27 R311). -/
def wordsOf (bs : List Byte) : Word × Word :=
  (BitVec.ofNat 32 (bytesNat (bs.take 4)), BitVec.ofNat 32 (bytesNat (bs.drop 4)))

/-- The words H5 and H6 of the instruction at a PC, or of a REP unit's target, and the length of the whole (27 R311,
R312): 0 and 4 where it cannot be fetched (log 31). -/
def unitWords (s : State) (core ctx : Nat) (pc : Addr) : Word × Word × Nat :=
  match fetchInstr s core ctx pc with
  | .error _ => (0, 0, 4)
  | .ok bs =>
    let bytes := bs.map Prod.snd
    match decode bytes with
    | .ok (.rep _, _) =>
      (match fetchInstr s core ctx (pc + 4) with
       | .error _ => (0, 0, 4)
       | .ok ts =>
         let w := wordsOf (ts.map Prod.snd)
         (w.1, w.2, 4 + ts.length))
    | _ =>
      let w := wordsOf bytes
      (w.1, w.2, bytes.length)

/-! ## Waking, convergence and the barrier -/

/-- Moves the threads of lanes to a PC and wakes them, with the PC table (03 R22). -/
def wakeLanes (s : State) (key : Nat) (ls : List Nat) (pc : Nat → Thread → Addr) : State :=
  match s.crews.get key with
  | none => s
  | some c => s.setCrew key (retable c (c.mapThreads ls fun l t => { t with wait := .awake, pc := pc l t }))

/-- Threads asleep under ELECT with a leader among the lanes wake past the ELECT (15 R191). -/
def wakeElect (s : State) (key : Nat) (leaders : List Nat) : State :=
  match s.crews.get key with
  | none => s
  | some c =>
    let ls := (List.range 32).filter fun l =>
      match (c.thread l).wait with
      | .elect d => leaders.contains d
      | _ => false
    if ls.isEmpty then s else wakeLanes s key ls fun _ t => t.pc + 4

/-- The release check of every convergence register (17 R208): with no unreleased member, the arrived threads wake past
their CVWAIT. -/
def releaseCheck (s : State) (key : Nat) : State :=
  (List.range 16).foldl (fun s n =>
    match s.crews.get key with
    | none => s
    | some c =>
      match c.conv.get n with
      | none => s
      | some cv =>
        let waiting := lanesOf cv.members |>.filter fun l => (c.thread l).live && !inMask cv.arrived l
        let arrived := lanesOf cv.arrived
        if waiting.isEmpty && !arrived.isEmpty then
          let c1 := { c with conv := c.conv.set n { cv with arrived := 0#32 } }
          let c2 := c1.mapThreads arrived fun _ t => { t with wait := .awake, pc := t.pc + 4 }
          s.setCrew key (retableRelease c c2 arrived)
        else s) s

/-- Raises causes in threads that wait in a crew, each with the words of the instruction it waits at. -/
def raiseWaiters (s : State) (key : Nat) (rs : List Raised) : State :=
  match s.crews.get key with
  | none => s
  | some c =>
    let pcs := dedup [] (rs.map fun r => (c.thread r.lane).pc)
    let s := pcs.foldl (fun s pc =>
      let u := unitWords s (coreOf key) (ctxOf s c) pc
      takeCauses s key (rs.filter fun r => (c.thread r.lane).pc = pc) u.1 u.2.1 (pc + BitVec.ofNat 57 u.2.2)) s
    match s.crews.get key with
    | some c' => s.setCrew key (retable c c')
    | none => s

/-- When every live thread of a crew waits at convergence registers, each raises 0x081 (17 R210); when they wait at BAR
and at convergence registers, with one of each, those at BAR raise 0x080 (19 R231). -/
def starveCheck (s : State) (key : Nat) : State :=
  match s.crews.get key with
  | none => s
  | some c =>
    let live := c.liveLanes
    let isConv (l : Nat) : Bool := match (c.thread l).wait with | .conv _ => true | _ => false
    let isBar (l : Nat) : Bool := (c.thread l).wait = .barrier
    if live.isEmpty || !live.all (fun l => isConv l || isBar l) then s
    else if live.all isConv then
      let c1 := { c with conv := c.conv.map fun (n, v) => (n, { v with arrived := 0#32 }) }
      raiseWaiters (s.setCrew key c1) key (live.map fun l => { lane := l, cause := 0x081 })
    else if live.any isConv then
      raiseWaiters s key ((live.filter isBar).map fun l => { lane := l, cause := 0x080 })
    else s

/-- The team barrier (19 R230): it completes when every crew of the team with a live thread has all its live threads
asleep at a BAR. -/
def barrierCheck (s : State) (team : Nat) : State :=
  match s.teams.get team with
  | none => s
  | some t =>
    let crews := (crewsOf s team).filter fun e => !e.2.liveLanes.isEmpty
    let flagged := crews.filter fun e => e.2.liveLanes.all fun l => (e.2.thread l).wait = .barrier
    if !flagged.isEmpty && flagged.length = crews.length then
      let s := s.setTeams (s.teams.set team { t with barGen := t.barGen + 1, barCount := 0, barFlags := [] })
      -- each arrival is a release at team scope, each wake an acquire
      let x := flagged.foldl (fun x e => Carried.join x (releaseSig s e.1 1 e.2.liveLanes)) .none
      let s := flagged.foldl (fun s e => acquireSig (releaseAt s e.1 1) e.1 x) s
      flagged.foldl (fun s e => wakeLanes s e.1 e.2.liveLanes fun _ th => th.pc + 8) s
    else
      s.setTeams (s.teams.set team { t with barCount := flagged.length, barFlags := flagged.map fun e => e.2.index })

/-- The cores a team runs on. -/
def teamCores (s : State) (team : Nat) : List Nat := ((s.teams.get team).map Team.cores).getD []

/-! ## The regroup table (03 R47) -/

/-- Takes at most 32 payloads of a team and key, in the order of submission, as a crew to form. -/
def takePayloads (ps : List Payload) (team key : Nat) : List Payload × List Payload :=
  let mine := ps.filter fun p => p.team = team && p.key = key
  let chosen := mine.take 32
  (chosen, ps.filter fun p => !(chosen.any fun q => q.serial = p.serial && q.lane = p.lane))

/-- The crew slots in use on a core: partition, slot and registers. -/
def usedSlots (s : State) (core : Nat) : List (Nat × Nat × Nat) :=
  (s.crews.filter fun e => coreOf e.1 = core).map fun e => (partOf e.1, e.1 % 32, e.2.nregs)

/-- A partition's lowest free slot, if it has room for a crew of g registers per thread (03 R27). -/
def slotIn (used : List (Nat × Nat × Nat)) (g part : Nat) : Option Nat :=
  let mine := used.filter fun e => e.1 = part
  if 1024 < (mine.map fun e => e.2.2).foldl (· + ·) g then none
  else (List.range 32).find? fun n => !(mine.any fun e => e.2.1 = n)

/-- The place of the crew of rank k: partition k mod 6, or without DET the next with room (03 R29, R53). -/
def placeCrew (used : List (Nat × Nat × Nat)) (g k : Nat) (det : Bool) : Option (Nat × Nat) :=
  (List.range (if det then 1 else 6)).findSome? fun i =>
    let part := (k + i) % 6
    (slotIn used g part).map fun n => (part, n)

/-- The place that a formed crew would take beside the slots in use (03 R48). -/
def formedPlace (s : State) (used : List (Nat × Nat × Nat)) (f : Formed) : Option (Nat × Nat) :=
  placeCrew used ((f.payloads.head?.map Payload.nregs).getD 0) f.rank
    (((s.launchOf f.team).map fun l => l.record.det).getD false)

/-- The crews of a team resident on a core, the formed ones that find a slot at once among them (03 R48). -/
def residents (s : State) (core team : Nat) (formed : List Formed) : Nat :=
  let here := ((crewsOf s team).filter fun e => coreOf e.1 = core).length
  (formed.foldl (fun (x : Nat × List (Nat × Nat × Nat)) f =>
    match formedPlace s x.2 f with
    | some (part, n) =>
      (if f.team = team then x.1 + 1 else x.1, (part, n, (f.payloads.head?.map Payload.nregs).getD 0) :: x.2)
    | none => x) (here, usedSlots s core)).1

/-- Forms a crew of a team and key from the table (03 R47, R48). -/
def formOne (s : State) (core : Nat) (c : Core) (team key : Nat) : Core :=
  let (now, rest) := takePayloads c.payloads team key
  { c with payloads := rest
           formed := c.formed ++ [{ team, rank := residents s core team c.formed, payloads := now }] }

/-- First case: every key with 32 payloads forms a crew, in ascending key order. -/
def formFull (s : State) (core : Nat) (c : Core) : Nat → Core
  | 0 => c
  | fuel + 1 =>
    let keys := sortAsc (c.payloads.map fun p => p.key)
    let pick := keys.findSome? fun k =>
      let teams := sortAsc ((c.payloads.filter fun p => p.key = k).map Payload.team)
      teams.findSome? fun t =>
        if 32 ≤ (c.payloads.filter fun p => p.team = t && p.key = k).length then some (t, k) else none
    match pick with
    | none => c
    | some (t, k) => formFull s core (formOne s core c t k) fuel

/-- Second case: every waiting key of a team forms crews, in ascending key order. -/
def formAll (s : State) (core : Nat) (c : Core) (team : Nat) : Nat → Core
  | 0 => c
  | fuel + 1 =>
    match sortAsc ((c.payloads.filter fun p => p.team = team).map Payload.key) with
    | [] => c
    | k :: _ => formAll s core (formOne s core c team k) team fuel

/-- Entries of the regroup table in use: payloads, and those of formed crews that wait for a slot (03 R47, R48). -/
def tableUsed (c : Core) : Nat := c.payloads.length + (c.formed.map fun x => x.payloads.length).foldl (· + ·) 0

/-- The tests of the regroup table after a REGROUP issue or an end of a thread of the team (03 R47); the third case only
where neither of the others formed a crew. -/
def regroupCheck (s : State) (core team : Nat) : State :=
  let c := s.core core
  if c.payloads.isEmpty then s
  else
    let formed := c.formed.length
    let c := formFull s core c 64
    let live := (crewsOf s team).any fun e => coreOf e.1 = core && !e.2.liveLanes.isEmpty
    let waits := c.formed.any fun f => f.team = team
    let c := if !live && !waits then formAll s core c team 2048 else c
    let c :=
      if c.formed.length ≠ formed || tableUsed c < 2048 then c
      else
        -- the pair with the most payloads, then the lowest key, then the oldest team
        let age (t : Nat) : Nat := ((s.teams.get t).map Team.age).getD 0
        let best := c.payloads.foldl (fun (b : Option (Nat × Nat × Nat)) p =>
          let n := (c.payloads.filter fun q => q.team = p.team && q.key = p.key).length
          match b with
          | none => some (n, p.key, p.team)
          | some (bn, bk, bt) =>
            if bn < n || (bn = n && (p.key < bk || (p.key = bk && age p.team < age bt))) then some (n, p.key, p.team)
            else b) none
        match best with
        | some (_, k, t) => formOne s core c t k
        | none => c
    s.setCore core c

/-! ## Ending threads (03 R21; 17 R206, R211; 19 R231; 27 R316) -/

/-- Removes a crew all of whose threads have ended (03 R21), with its tokens and its places among the waiting commands
(21 R239, R243, R245). -/
def retireCrew (s : State) (key : Nat) : State :=
  match s.crews.get key with
  | some c =>
    if c.liveLanes.isEmpty then
      let core := coreOf key
      let k := s.core core
      let s := if k.commands.isEmpty && k.waiters.isEmpty then s
        else s.setCore core { k with
          commands := k.commands.map fun x => if x.crew = key then { x with token := none } else x
          waiters := k.waiters.filter fun x => x.crew ≠ key }
      s.setCrews (s.crews.erase key)
    else s
  | none => s

/-- The event 0x147 when the last handler thread of a crew has left other than by HRET with causes held (27 R316). -/
def discardHeld (s : State) (key : Nat) : State :=
  match s.crews.get key with
  | none => s
  | some c =>
    if c.held.isEmpty || c.liveLanes.any (fun l => (c.thread l).handler) then s
    else
      match c.held with
      | (code, pc) :: _ =>
        let s := s.setCrew key { c with held := [] }
        contextEvent s (ctxOf s c) 0x147 (c.index + coreOf key * 2 ^ 16) pc.toNat code (teamIndex s c)
      | [] => s

/-- Ends threads of a crew: they leave every convergence register, their ELECT sleepers wake, their loads in flight are
discarded; killed marks the launch for THREADKILL. Then the release, starvation, barrier and regroup checks run. -/
def endThreads (s : State) (key : Nat) (ls : List Nat) (killed : Bool) : State :=
  match s.crews.get key with
  | none => s
  | some c =>
    let m := ~~~ (maskOf ls)
    let c1 := c.mapThreads ls fun _ t => { t with wait := .ended }
    let c2 := { c1 with
      conv := c1.conv.map fun (n, v) => (n, { members := v.members &&& m, arrived := v.arrived &&& m })
      pend := c1.pend.map fun p =>
        if p.memory then { p with writes := p.writes.filter fun e => !ls.contains (e.1 % 32) } else p }
    let s := s.setCrew key (retable c c2)
    let s := if killed then s.setTeams (s.teams.modify c.team fun t => { t with killed := true }) else s
    let s := wakeElect s key ls
    let s := discardHeld s key
    let s := releaseCheck s key
    let s := starveCheck s key
    let s := retireCrew s key
    let s := barrierCheck s c.team
    regroupCheck s (coreOf key) c.team

/-! ## Registers -/

/-- A v register word of a lane: a dead one reads 0 (05 R71). -/
def Crew.word (c : Crew) (r l : Nat) : Word :=
  match c.regs.get (32 * r + l) with
  | some w => if w.live then w.val else 0#32
  | none => 0#32

def Crew.isLive (c : Crew) (r l : Nat) : Bool := ((c.regs.get (32 * r + l)).map LaneReg.live).getD false
def Crew.isPoison (c : Crew) (r l : Nat) : Bool := ((c.regs.get (32 * r + l)).map LaneReg.poison).getD false
def Crew.greg (c : Crew) (n : Nat) : Word := ((c.gregs.get n).map GReg.val).getD 0#32
def Crew.gregPoison (c : Crew) (n : Nat) : Bool := ((c.gregs.get n).map GReg.poison).getD false

/-- A fixed-latency result for a register word has not been written yet (05 R69). -/
def Crew.early (c : Crew) (r l : Nat) : Bool :=
  c.pend.any fun p => p.due.isSome && (p.writes.get (32 * r + l)).isSome
def Crew.earlyG (c : Crew) (n : Nat) : Bool :=
  c.pend.any fun p => p.due.isSome && (match p.greg with | some (k, _) => k = n | none => false)

/-- The cause of a thread's read of one v register, the lowest that applies (05 R69, R71, R74, R75). -/
def Crew.readCause (c : Crew) (r l : Nat) : Option Nat :=
  least [(c.stallchk && c.early r l, 0x010), (c.stallchk && !c.isLive r l, 0x011), (c.isPoison r l, 0x100)]

/-- The cause of a read of a group register, for the whole issue group (05 R69, R74). -/
def Crew.readCauseG (c : Crew) (n : Nat) : Option Nat :=
  least [(c.stallchk && c.earlyG n, 0x010), (c.gregPoison n, 0x100)]

/-- A register operand of the run n from r. -/
def Crew.words (c : Crew) (r n l : Nat) : List Word := (List.range n).map fun k => c.word (r + k) l

/-- The lower of two causes, the first kept on a tie. -/
def lower (a b : Option (Nat × Nat)) : Option (Nat × Nat) :=
  match a, b with
  | none, b => b
  | a, none => a
  | some x, some y => if y.1 < x.1 then some y else some x

/-- The least cause over a run of v registers, with the fault value of 27 R311. -/
def runCause (c : Crew) (r n l : Nat) : Option (Nat × Nat) :=
  (List.range n).foldl (fun a k => lower a ((c.readCause (r + k) l).map fun x => (x, r + k))) none

/-- The least cause over a run of group registers. -/
def groupCause (c : Crew) (r n : Nat) : Option (Nat × Nat) :=
  (List.range n).foldl (fun a k => lower a ((c.readCauseG (r + k)).map fun x => (x, 0x400 + r + k))) none

/-- Makes a register dead for lanes (05 R71). -/
def Crew.kill (c : Crew) (r : Nat) (ls : List Nat) : Crew :=
  { c with regs := ls.foldl (fun m l =>
      m.modify (32 * r + l) fun w => { w with val := 0#32, live := false, poison := false }) c.regs }

/-- The number of registers of a use, 0 when it names none. -/
def Use.count (u : Sys2Proof.Use) : Nat :=
  match u with
  | .run n _ => n
  | _ => 0

/-! ## The frame of one issue -/

/-- One participant: its lane and the words of its operands a, b, c and d. -/
structure Part1 where
  l : Nat
  a : List Word
  b : List Word
  c : List Word
  d : List Word
  deriving DecidableEq, Repr

/-- What an instruction's effect sees: its place, its crew as it stood at issue, and the threads that raise no read
cause (15 R185). -/
structure Env where
  key : Nat
  is : Issue
  crew : Crew
  f : Fields
  /-- words of the further group registers the instruction reads -/
  more : List Word
  parts : List Part1
  deriving DecidableEq, Repr

/-- The lanes that take part. -/
def Env.lanes (env : Env) : List Nat := env.parts.map Part1.l

/-- What an instruction's effect gives. -/
structure Eff where
  s : State
  /-- words for the destination run, by lane -/
  writes : List (Nat × List Word) := []
  flags : Flags := 0
  raised : List Raised := []
  /-- new PCs that are not the next instruction -/
  jumps : List (Nat × Addr) := []
  /-- threads that stand anew as given (27 R313, R315) -/
  moves : List (Nat × Thread) := []
  /-- threads that stay at their PC, asleep -/
  sleeps : List (Nat × Wait) := []
  ended : List Nat := []
  killed : Bool := false
  /-- a memory reply: the Sluice lines that hold it -/
  lines : Option (List Nat) := none
  greg : Option (Nat × Word) := none
  /-- lower causes of threads whose register reads already raise (05 R75; 19 R218) -/
  overs : List Raised := []
  /-- the instruction does not issue yet; s holds at most its place among the waiting commands -/
  hold : Bool := false

/-- Charges one issue slot to the team's queue (03 R38, 25 R305). -/
def chargeIssue (s : State) (key : Nat) (c : Crew) : State :=
  match recordOf s c with
  | some r =>
    let core := coreOf key
    let k := s.core core
    s.setCore core { k with charges := k.charges.set r.jobq.toNat ((k.charges.get r.jobq.toNat).getD 0 + 1) }
  | none => s

/-- Poison reads with no lane of the issue group in the granule, counted once per register (05 R74). -/
def rfpsnCount (c : Crew) (regs : List Nat) (lanes : Lanes) : Nat :=
  (sortAsc regs).foldl (fun n r =>
    n + ((List.range 8).filter fun k =>
      (List.range 4).all (fun j => !inMask lanes (4 * k + j)) && (List.range 4).any (fun j => c.isPoison r (4 * k + j))).length) 0

def addRfpsn (s : State) (key n : Nat) : State :=
  if n = 0 then s
  else
    let core := coreOf key
    let k := s.core core
    let p := k.part (partOf key)
    let s := s.setCore core { k with parts := k.parts.set (partOf key) { p with rfpsn := p.rfpsn + BitVec.ofNat 32 n } }
    countCorrected s 0 n

/-- Where a thread goes after an issue of the instruction: the next repetition or past the unit (17 R212). -/
def Issue.after (is : Issue) (t : Thread) : Thread :=
  if is.rep + 1 < is.count then { t with rep := is.rep + 1 } else { t with pc := is.next, rep := 0 }

/-- The clock from which the crew may issue again (05 R66). -/
def stallTill (clock : Nat) (i : Instr) : Nat :=
  match i.kind, i.form.lat with
  | .half, .fixed n => clock + n
  | _, _ => clock + 1 + i.fields.s

/-- Threads of an issue that end it where they stand, parked on a migration (11 R139). -/
def parkedLanes (r : Eff) : List Nat :=
  (r.sleeps.filter fun e => match e.2 with | .migration _ _ | .resuming _ _ => true | _ => false).map Prod.fst

/-- Where a thread of the issue group stands after the issue, the handler entry aside (03 R22; 17 R212). -/
def moveThread (is : Issue) (r : Eff) (l : Nat) (t : Thread) : Thread :=
  if (r.raised.map Raised.lane).contains l || r.ended.contains l then t
  else
    match r.moves.find? (fun e => e.1 = l), r.sleeps.find? (fun e => e.1 = l), r.jumps.find? (fun e => e.1 = l) with
    | some (_, t'), _, _ => t'
    | none, some (_, w), _ => { t with wait := w }
    | none, none, some (_, pc) => { t with pc := pc, rep := 0 }
    | none, none, none => is.after t

/-- The words an issue posts, by 32 × register + lane. -/
def postedWords (dst : Nat) (writes : List (Nat × List Word)) : Map Word :=
  writes.foldl (fun m (l, ws) =>
    (List.range ws.length).foldl (fun m k => m.set (32 * (dst + k) + l) (ws.getD k 0#32)) m) []

/-- The result an issue posts (05 R67, R68; 13 R163). -/
def postedResult (seq clock dst run : Nat) (lat : Latency) (r : Eff) : Pending :=
  { seq, due := match lat with | .fixed n => some (clock + n) | _ => none
    board := lat = .board, memory := r.lines.isSome, lines := r.lines.getD []
    dst, run, lanes := maskOf (r.writes.map Prod.fst), writes := postedWords dst r.writes, greg := r.greg, flags := r.flags }

/-- The crew after an issue, before the causes are taken: its threads moved, last uses made dead for the threads that
completed, and the result posted (05 R66 to R71). -/
def issuedCrew (i : Instr) (is : Issue) (clock dst run : Nat) (lat : Latency) (kills : List Nat) (r : Eff) (c0 : Crew) :
    Crew :=
  let group := lanesOf is.lanes
  let done := group.filter fun l => !(r.raised.map Raised.lane).contains l && !(parkedLanes r).contains l
  let c1 := kills.foldl (fun c g => c.kill g done) c0
  let c2 := c1.mapThreads group (moveThread is r)
  let posts := lat ≠ .none && (!(postedWords dst r.writes).isEmpty || r.flags ≠ 0 || r.greg.isSome)
  { c2 with
    issues := c2.issues + 1, stallTill := stallTill clock i, lastGrant := clock, waitSince := none
    pend := if posts then c2.pend ++ [postedResult (c2.issues + 1) clock dst run lat r] else c2.pend }

/-- The places of a PC table that the groups up to one, that one among them, keep after an issue that left the crew as c:
the place of the group that follows it (03 R22, R23). -/
def followPlace (old c : Crew) (K : GroupKey) : Nat :=
  (dedup [] ((old.groups.take (old.groups.findIdx (fun k => k = K) + 1)).filterMap fun k => (successors old c k).head?)).length

/-- The crew's PC table and service pointer after an issue that left it as c: the pointer moves to the group that follows
the issuing one, also where that merged into an earlier group (03 R22, R23). -/
def advanceTable (is : Issue) (old c : Crew) : Crew :=
  let c5 := retable old c
  let m := followPlace old c { pc := is.pc, handler := is.handler, rep := is.rep }
  { c5 with pointer := if m < c5.groups.length then m else 0 }

/-- The issue as a whole: the threads that neither raise, jump, sleep nor end move on, results are posted, causes are
taken, the PC table and the service pointer follow (03 R22, R23; 05 R66 to R70; 27 R308). -/
def finishIssue (i : Instr) (is : Issue) (dst run : Nat) (lat : Latency) (kills : List Nat) (r : Eff) : State :=
  match r.s.crews.get is.crew with
  | none => r.s
  | some c0 =>
    let s0 := chargeIssue r.s is.crew c0
    let c3 := issuedCrew i is s0.clock dst run lat kills r c0
    let s1 := takeCauses (s0.setCrew is.crew c3) is.crew r.raised is.h5 is.h6 is.next
    match s1.crews.get is.crew with
    | none => s1
    | some c4 =>
      let s2 := s1.setCrew is.crew (advanceTable is c0 c4)
      if r.ended.isEmpty then s2 else endThreads s2 is.crew r.ended r.killed

/-- The registers of a use with the base r. -/
def useRegs (u : Sys2Proof.Use) (r : Nat) : List Nat := (List.range (Use.count u)).map fun k => r + k

/-- The cause the decoder or the allocation gives the whole issue group (05 R73; 07 R94). -/
def groupBar (i : Instr) (m : Form) (is : Issue) (c : Crew) : Option Nat :=
  let f := i.fields
  match i.decodeCause c.nregs is.handler with
  | some code => some code
  | none =>
    if m.d.beyond f.vd c.nregs || m.a.beyond f.va c.nregs || m.c.beyond f.vc c.nregs ||
        (!f.g && m.b.beyond f.vb c.nregs) then some 0x004 else none

/-- The cause of a thread's register reads, the lowest, with its fault value (05 R75; 15 R185). -/
def laneCause (m : Form) (f : Fields) (c : Crew) (l : Nat) : Option (Nat × Nat) :=
  lower (runCause c f.va (Use.count m.a) l)
    (lower (if f.g then none else runCause c f.vb (Use.count m.b) l)
      (lower (runCause c f.vc (Use.count m.c) l)
        (lower (if m.src then runCause c f.vd (Use.count m.d) l else none)
          (lower (if f.g then groupCause c f.gidx m.grun else none)
            (match m.more with | some (p, n) => groupCause c p n | none => none)))))

/-- A participant: the words of its operands. -/
def partAt (m : Form) (f : Fields) (c : Crew) (l : Nat) : Part1 :=
  { l, a := c.words f.va (Use.count m.a) l
    b := if f.g then (List.range m.grun).map fun k => c.greg (f.gidx + k) else c.words f.vb (Use.count m.b) l
    c := c.words f.vc (Use.count m.c) l, d := if m.src then c.words f.vd (Use.count m.d) l else [] }

/-- A form whose seed, in the vd field of a stochastic store, a REP has stepped past g63 (07 R92). -/
def Form.lift (m : Form) (n : Nat) : Form :=
  match m.d with
  | .raw => { m with more := m.more.map fun e => (e.1 + n, e.2) }
  | _ => m

/-- What an instruction's effect sees at an issue. -/
def issueEnv (i : Instr) (m : Form) (is : Issue) (c : Crew) : Env :=
  let f := i.fields
  let m := Form.lift m is.seedUp
  { key := is.crew, is, crew := c, f
    more := match m.more with | some (p, n) => (List.range n).map fun k => c.greg (p + k) | none => []
    parts := ((lanesOf is.lanes).filter fun l => (laneCause m f c l).isNone).map (partAt m f c) }

/-- The causes of the issue group's register reads. -/
def readRaised (i : Instr) (m : Form) (is : Issue) (c : Crew) : List Raised :=
  (lanesOf is.lanes).filterMap fun l =>
    (laneCause (Form.lift m is.seedUp) i.fields c l).map fun (code, v) => ({ lane := l, cause := code, value := v } : Raised)

/-- The read causes, each thread's replaced by a lower cause that it raises as well (05 R75; 19 R218). -/
def overrule (rs overs : List Raised) : List Raised :=
  match overs with
  | [] => rs
  | _ => rs.map fun r => (overs.find? fun o => o.lane = r.lane && o.cause < r.cause).getD r

/-- The v registers an instruction reads. -/
def readRegs (m : Form) (f : Fields) : List Nat :=
  useRegs m.a f.va ++ (if f.g then [] else useRegs m.b f.vb) ++ useRegs m.c f.vc ++ (if m.src then useRegs m.d f.vd else [])

/-- The v registers whose reads RFPSN counts (05 R74): also those of an operand a that the instruction's meaning reads
itself, as GSET and REGROUP do. -/
def countedRegs (i : Instr) (m : Form) : List Nat :=
  readRegs { m with a := if m.a = .no then i.form.a else m.a } i.fields

/-- The v registers whose last use an instruction marks (05 R71). -/
def killRegs (m : Form) (f : Fields) : List Nat :=
  (if f.la then useRegs m.a f.va else []) ++ (if f.lb && !f.g then useRegs m.b f.vb else []) ++
    (if f.lc then useRegs m.c f.vc else [])

/-- The issue in progress with its crew, if there is one (03 R23). -/
def issuing (s : State) : Option (Issue × Crew) :=
  match s.cur with
  | none => none
  | some is => (s.crews.get is.crew).map fun c => (is, c)

/-- Issues an instruction whose fields are used as a form says (07 R94, 15 R185): the decoder's causes, then every
thread's read causes, then the effect for the threads that are left. -/
def issueAs (i : Instr) (m : Form) (s : State) (body : Env → State → Eff) : Out :=
  match issuing s with
  | none => .fault .noIssueGroup
  | some (is, c) =>
    match groupBar i m is c with
    | some code =>
      .next (finishIssue i is 0 0 .none []
        { s := s, raised := (lanesOf is.lanes).map fun l => { lane := l, cause := code } })
    | none =>
      let e := body (issueEnv i m is c) s
      if e.hold then
        .next (e.s.setCrews (e.s.crews.modify is.crew fun c =>
          { c with waitSince := some (c.waitSince.getD s.clock) }))
      else
        let s' := addRfpsn e.s is.crew (rfpsnCount c (countedRegs i m) is.lanes)
        .next (finishIssue i is i.fields.vd (Use.count m.d) m.lat (killRegs m i.fields)
          { e with s := s', raised := overrule (readRaised i m is c) e.overs ++ e.raised })

/-- The threads of an issue group whose only read cause is poison (0x100) in an operand outside the form given, which
names those of the address: a lower cause of their access overrules it (05 R75; 19 R218). -/
def latePartsBy (i : Instr) (address : Form) (env : Env) : List Part1 :=
  ((lanesOf env.is.lanes).filter fun l =>
    (laneCause (Form.lift i.form env.is.seedUp) env.f env.crew l).map Prod.fst = some 0x100 &&
      (laneCause address env.f env.crew l).isNone).map (partAt i.form env.f env.crew)

/-- Those of an instruction whose data lie in vc or vd (19 R218). -/
def lateParts (i : Instr) (env : Env) : List Part1 :=
  latePartsBy i { i.form with c := .no, src := false, more := none } env

/-- The causes that a test finds in threads. -/
def overBy (ps : List Part1) (f : Part1 → Option (Nat × Nat)) : List Raised :=
  ps.filterMap fun p => (f p).map fun (code, v) => ({ lane := p.l, cause := code, value := v } : Raised)

/-- Issues an instruction with the form of its encoding. -/
def issue (i : Instr) (s : State) (body : Env → State → Eff) : Out := issueAs i i.form s body

/-- An instruction that computes within lanes (13 R161): each participant's words from its operands, with flags. -/
def laneOp (i : Instr) (s : State) (g : Part1 → List Word × Flags) : Out :=
  issue i s fun env s =>
    let rs := env.parts.map fun p => (p.l, g p)
    { s := s, writes := rs.map fun (l, r) => (l, r.1), flags := rs.foldl (fun a e => a ||| e.2.2) 0#5 }

/-- Raises one cause for every participant (21 R237, 23 R267). -/
def raiseAll (env : Env) (s : State) (cause : Nat) (value : Nat := 0) : Eff :=
  { s := s, raised := env.parts.map fun p => { lane := p.l, cause, value } }

/-- The same words for every participant. -/
def writeAll (env : Env) (s : State) (ws : List Word) : Eff :=
  { s := s, writes := env.parts.map fun p => (p.l, ws) }

/-- The n-th word of an operand. -/
def w (ws : List Word) (n : Nat) : Word := ws.getD n 0#32

/-- A pair of words as 64 bits: the low word first (05 R58). -/
def pair64 (ws : List Word) (n : Nat := 0) : BitVec 64 := w ws (n + 1) ++ w ws n

/-- The two words of 64 bits. -/
def split64 (v : BitVec 64) : List Word := [v.extractLsb' 0 32, v.extractLsb' 32 32]

end Sys2Proof.Machine
end

