-- ==== Sys2Proof/Machine/Operands.lean ====
section
/-! DEFINITION. Operand forms: immediates (07 R86, R89), branch targets (07 R83), memory operands (19 R217, R218) and the
field descriptors of BFX and BFI (13 R171). -/

namespace Sys2Proof.Machine

/-- sext(imm8, 8) as a word (07 R86). -/
def immS (imm : BitVec 8) : Word := imm.signExtend 32
/-- zext(imm8, 8) as a word (07 R86). -/
def immZ (imm : BitVec 8) : Word := imm.setWidth 32

/-- PC + 2 × sext(d, n), modulo 2^57 (07 R83). -/
def target {n : Nat} (pc : Addr) (d : BitVec n) : Addr := pc + 2#57 * d.signExtend 57

/-- The displacement of a memory operand, in units of the access size: sext(imm8, 8), or sext(imm8[4:0], 5) with a group
index (19 R217). -/
def dispOf (f : Fields) : Int := if f.g then sext f.imm 5 else sext f.imm 8

/-- The index of a memory operand: 0 without IX, a sign-extended word with it (19 R218). -/
def indexOf (p : Part1) : Int := match p.b with | x :: _ => x.toInt | [] => 0

/-- ea of a virtual access of size z (19 R218). -/
def eaOf (f : Fields) (ix : Bool) (z : Nat) (p : Part1) : Nat :=
  lowBits 64 ((pair64 p.a).toNat + (if ix then indexOf p * z else 0) + dispOf f * z)

/-- ea of a scratch access of size z (19 R218). -/
def scratchEaOf (f : Fields) (ix : Bool) (z : Nat) (p : Part1) : Nat :=
  lowBits 32 ((w p.a 0).toNat + (if ix then indexOf p * z else 0) + dispOf f * z)

/-- The access size of a format: 2 for records, 16 with Q (19 R220). -/
def sizeOf (fmt : Nat) (q : Bool) : Nat := if q then 16 else if isScaled fmt then 2 else fmtBits fmt / 8

/-- The field descriptor of BFX and BFI (13 R171): position, length and SGN. -/
def fieldPos (b : Word) : Nat := b.toNat % 32
def fieldLen (b : Word) : Nat := b.toNat / 256 % 32 + 1
def fieldSigned (b : Word) : Bool := b.getLsbD 15

/-- A bit of a modifier. -/
def modBit (f : Fields) (k : Nat) : Bool := fieldOf f.mod k k = 1

end Sys2Proof.Machine
end

