-- ==== Sys2Proof/Machine/Flags.lean ====
section
/-! DEFINITION. Conditions and FFLAGS: the integer conditions of ICMP and BCC (13 R172), the FP32 conditions of FCMP and
BCC (13 R177), and the write of FFLAGS at an instruction's write clock (13 R163). -/

namespace Sys2Proof.Machine

/-- An integer condition by its place in the order EQ, NE, LT, LE, LTU, LEU, GT, GTU (07 R84, 13 R172). -/
def icmp (cc : Nat) (a b : Word) : Bool :=
  if cc = 0 then a = b
  else if cc = 1 then a ≠ b
  else if cc = 2 then a.toInt < b.toInt
  else if cc = 3 then a.toInt ≤ b.toInt
  else if cc = 4 then a.toNat < b.toNat
  else if cc = 5 then a.toNat ≤ b.toNat
  else if cc = 6 then b.toInt < a.toInt
  else b.toNat < a.toNat

/-- 1 when a condition holds, else 0. -/
def boolWord (b : Bool) : Word := if b then 1#32 else 0#32

/-- A condition of BCC with its flags: codes 0 to 7 as ICMP, 8 to 15 as FCMP (17 R204). -/
def bccCond (cc : Nat) (a b : Word) : Bool × Flags :=
  if cc < 8 then (icmp cc a b, 0) else fcmp (cc - 8) a b

/-- ORs flags into FFLAGS (13 R163). -/
def Crew.orFlags (c : Crew) (fl : Flags) : Crew := { c with fflags := c.fflags ||| fl }

/-- Writes a result that has come to its registers (05 R67, R70, R71): a lane word whose register holds a later
instruction's result is discarded; a written lane lives and loses its poison. -/
def Crew.writeBack (c : Crew) (p : Pending) : Crew :=
  let regs := p.writes.foldl (fun m (k, v) =>
    match m.get k with
    | some old => if p.seq < old.seq then m else m.set k { val := v, live := true, poison := false, seq := p.seq }
    | none => m.set k { val := v, live := true, poison := false, seq := p.seq }) c.regs
  let gregs := match p.greg with
    | some (n, v) => c.gregs.set n { val := v, poison := false }
    | none => c.gregs
  { c with regs := regs, gregs := gregs, pend := c.pend.filter fun q => q ≠ p }.orFlags p.flags

end Sys2Proof.Machine
end

