-- ==== Sys2Proof/Machine/Cross.lean ====
section
/-! DEFINITION. Cross-lane, regrouping and transfer instructions (chapter 15), and the sleepers they share with other
instructions. -/

namespace Sys2Proof.Machine

/-! ## Sleepers -/

/-- The lanes of the participants. -/
def partLanes (env : Env) : List Nat := env.parts.map Part1.l

/-- Puts the participants to sleep at their PC on a condition; next is where they go when it is met. -/
def sleepOn (env : Env) (s : State) (what : Awaits) (since : Option Nat := none) : Eff :=
  let id := s.serial
  let sl : Sleeper :=
    { crew := env.key, lanes := maskOf (partLanes env), since := since.getD s.clock, seq := env.crew.issues + 1
      next := env.is.next, what := what }
  { s := (s.setSerial (id + 1)).setSleepers (s.sleepers.set id sl), sleeps := env.parts.map fun p => (p.l, .op id) }

/-- Posts a scoreboarded result for lanes of a crew, under an issue number (05 R68). -/
def postBoard (s : State) (key seq dst run : Nat) (ws : List (Nat × List Word)) (memory : Bool := false) : State :=
  let words : Map Word := ws.foldl (fun m (l, vs) =>
    (List.range vs.length).foldl (fun m k => m.set (32 * (dst + k) + l) (vs.getD k 0#32)) m) []
  s.setCrews (s.crews.modify key fun c =>
    { c with pend := c.pend ++ [{ seq, due := none, board := true, memory, lines := [], dst, run
                                  lanes := maskOf (ws.map Prod.fst), writes := words, greg := none, flags := 0 }] })

/-- The lanes of a sleeper that still sleep on it. -/
def sleeperLanes (s : State) (id : Nat) (sl : Sleeper) : List Nat :=
  match s.crews.get sl.crew with
  | some c => (lanesOf sl.lanes).filter fun l => (c.thread l).wait = .op id
  | none => []

/-- Wakes a sleeper's threads past their instruction and forgets the sleeper. -/
def wakeSleeper (s : State) (id : Nat) : State :=
  match s.sleepers.get id with
  | none => s
  | some sl =>
    let ls := sleeperLanes s id sl
    let s := s.setSleepers (s.sleepers.erase id)
    match s.crews.get sl.crew with
    | none => s
    | some c => s.setCrew sl.crew (retable c (c.mapThreads ls fun _ t => { t with wait := .awake, pc := sl.next, rep := 0 }))

/-- Raises a cause in the threads of a sleeper, at the instruction they sleep at, and forgets the sleeper. -/
def raiseSleeper (s : State) (id cause : Nat) (value : Nat := 0) : State :=
  match s.sleepers.get id with
  | none => s
  | some sl =>
    let ls := sleeperLanes s id sl
    let s := s.setSleepers (s.sleepers.erase id)
    raiseWaiters s sl.crew (ls.map fun l => { lane := l, cause := cause, value := value })

/-- Completes a sleeper with words for every one of its threads, written to a destination. -/
def finishSleeper (s : State) (id dst : Nat) (ws : Nat → List Word) (run : Nat) : State :=
  match s.sleepers.get id with
  | none => s
  | some sl =>
    let ls := sleeperLanes s id sl
    wakeSleeper (postBoard s sl.crew sl.seq dst run (ls.map fun l => (l, ws l))) id

/-- Orders sleepers by the clock they began to wait and then by partition (15 R198, 21 R259). -/
def before (a b : Nat × Sleeper) : Bool :=
  a.2.since < b.2.since || (a.2.since = b.2.since && (partOf a.2.crew < partOf b.2.crew ||
    (partOf a.2.crew = partOf b.2.crew && a.1 < b.1)))

def insertSleeper (x : Nat × Sleeper) : List (Nat × Sleeper) → List (Nat × Sleeper)
  | [] => [x]
  | y :: ys => if before x y then x :: y :: ys else y :: insertSleeper x ys

/-- The sleepers that satisfy a test, in order. -/
def sleepersWhere (s : State) (p : Sleeper → Bool) : List (Nat × Sleeper) :=
  (s.sleepers.filter fun e => p e.2).foldl (fun acc e => insertSleeper e acc) []

/-- The crew's team runs on the sleeper's core. -/
def sameTeamCore (s : State) (team core : Nat) (sl : Sleeper) : Bool :=
  coreOf sl.crew = core && ((s.crews.get sl.crew).map Crew.team) = some team

/-! ## Votes, shuffles and leaders (15 R188 to R192) -/

/-- The cause 0x085 for every participant in handler mode (27 R312). -/
def handlerBar (env : Env) (s : State) (body : Eff) : Eff := if env.is.handler then raiseAll env s 0x085 else body

/-- The result of VOTE in a mode over the participants' va (15 R188). -/
def voteVal (mode : Nat) (ps : List (Nat × Word)) : Word :=
  if mode = 0 then boolWord (ps.any fun p => p.2 ≠ 0#32)
  else if mode = 1 then boolWord (ps.all fun p => p.2 ≠ 0#32)
  else if mode = 2 then maskOf ((ps.filter fun p => p.2 ≠ 0#32).map Prod.fst)
  else boolWord (match ps with | [] => true | q :: qs => qs.all fun p => p.2 = q.2)

/-- Lanes with the word of their operand a. -/
def aWords (env : Env) : List (Nat × Word) := env.parts.map fun p => (p.l, w p.a 0)

/-- VOTE (15 R188). -/
def execVote (f : V3) (s : State) : Out :=
  issue (.vote f) s fun env s => writeAll env s [voteVal (f.vb.toNat % 4) (aWords env)]

/-- SHFL (15 R189). -/
def execShfl (f : V3) (s : State) : Out :=
  issue (.shfl f) s fun env s =>
    { s := s, writes := env.parts.map fun p =>
        (p.l, [match env.parts.find? fun q => q.l = (w p.b 0).toNat with | some q => w q.a 0 | none => w p.a 0]) }

/-- ELECT (15 R190): the leader is the lowest participant; with SLEEP the others fall asleep. -/
def execElect (f : V3) (s : State) : Out :=
  issue (.elect f) s fun env s =>
    let leader := (partLanes env).headD 0
    let e := writeAll env s [BitVec.ofNat 32 leader]
    if f.vb.getLsbD 0 then
      handlerBar env s { e with sleeps := ((partLanes env).filter fun l => l ≠ leader).map fun l => (l, .elect leader) }
    else e

/-- WAKE (15 R192). The threads it wakes enter the PC table before its own issue group moves on, so that where they stand
at the WAKE's own PC (it follows their ELECT) the leader, which moves on alone, is appended (DESIGN CHOICE, log 23). -/
def execWake (f : V3) (s : State) : Out :=
  issue (.wake f) s fun env s =>
    let mask := env.parts.foldl (fun m p => m ||| w p.a 0) 0#32
    let ls := (lanesOf mask).filter fun l =>
      match (env.crew.thread l).wait with
      | .elect d => (partLanes env).contains d
      | _ => false
    { s := if ls.isEmpty then s else wakeLanes s env.key ls fun _ t => t.pc + 4 }

/-! ## Reductions, scans, matching and packing (15 R193 to R195) -/

/-- The identity of an operation (15 R193). -/
def lredIdentity (op : Nat) : Word :=
  if op = 1 then 0x7FFFFFFF#32 else if op = 2 then 0x80000000#32 else if op = 3 || op = 5 then 0xFFFFFFFF#32
  else if op = 9 then infWord false else if op = 10 then infWord true else 0#32

/-- One integer step of an operation. -/
def lredStep (op : Nat) (a b : Word) : Word :=
  if op = 0 then a + b
  else if op = 1 then (if b.toInt < a.toInt then b else a)
  else if op = 2 then (if a.toInt < b.toInt then b else a)
  else if op = 3 then (if b.toNat < a.toNat then b else a)
  else if op = 4 then (if a.toNat < b.toNat then b else a)
  else if op = 5 then a &&& b
  else if op = 6 then a ||| b
  else a ^^^ b

/-- The reduction of a list of words, with its flags (15 R193). -/
def lredVal (op : Nat) (ws : List Word) : Word × Flags :=
  match ws with
  | [] => (lredIdentity op, 0)
  | x :: xs =>
    if op = 8 then fdot [] (x :: xs)
    else if op = 9 || op = 10 then
      let r := xs.foldl (fun a b => (fminmax (op = 10) a b).1) x
      (if isNan r then canonicalNan else r, snanFlag (x :: xs))
    else (xs.foldl (lredStep op) x, 0)

/-- LRED (15 R193). -/
def execLred (f : F64) (s : State) : Out :=
  issue (.lred f) s fun env s =>
    let r := lredVal (f.mod.toNat % 16) ((aWords env).map Prod.snd)
    { writeAll env s [r.1] with flags := r.2 }

/-- LSCAN (15 R193). -/
def execLscan (f : F64) (s : State) : Out :=
  issue (.lscan f) s fun env s =>
    let op := f.mod.toNat % 16
    let ws := (aWords env).map Prod.snd
    let excl := f.mod.getLsbD 4
    let rs := (List.range ws.length).map fun k => lredVal op (ws.take (if excl then k else k + 1))
    let fl := rs.foldl (fun a r => a ||| r.2) (if 8 ≤ op then snanFlag ws else 0#5)
    { s := s, flags := fl, writes := (List.range ws.length).map fun k =>
        ((env.parts.map Part1.l).getD k 0, [(rs.map Prod.fst).getD k 0#32]) }

/-- MATCH (15 R194). -/
def execMatch64 (f : F64) (s : State) : Out :=
  issue (.match64 f) s fun env s =>
    { s := s, writes := env.parts.map fun p => (p.l, [maskOf ((env.parts.filter fun q => q.a = p.a).map Part1.l)]) }

/-- The selected participants: vb nonzero (15 R195). -/
def selected (env : Env) : List Part1 := env.parts.filter fun p => w p.b 0 ≠ 0#32

/-- COMPACT (15 R195). -/
def execCompact (f : F64) (s : State) : Out :=
  issue (.compact f) s fun env s =>
    { s := s, writes := ((selected env).zip env.parts).map fun (q, p) => (p.l, [w q.a 0]) }

/-- EXPAND (15 R195). -/
def execExpand (f : F64) (s : State) : Out :=
  issue (.expand f) s fun env s =>
    { s := s, writes := ((selected env).zip env.parts).map fun (q, p) => (q.l, [w p.a 0]) }

/-! ## REGROUP (15 R196, R197; 03 R47) -/

/-- The payload of one thread: its registers as they stand, dead, poisoned or live. -/
def payloadOf (env : Env) (s : State) (f : F64) (p : Part1) : Payload :=
  let n := f.mod.toNat % 16 + 1
  let words : Map LaneReg := (List.range n).foldl (fun m k =>
    match env.crew.regs.get (32 * (f.va.toNat + k) + p.l) with
    | some r => m.set (f.va.toNat + k) { r with seq := 0 }
    | none => m) []
  { team := env.crew.team, lane := p.l, key := (w p.b 0).toNat % 2 ^ 16, serial := s.serial
    crewIndex := env.crew.index, pc := env.is.next, words, gregs := env.crew.gregs, nregs := env.crew.nregs
    tlbase := (env.crew.thread p.l).tlbase, know := (releaseSig s env.key 1 [p.l]).know }

/-- The form under which REGROUP reads: its payload registers raise 0x010 alone, since dead and poisoned ones are
submitted as they are (15 R196). -/
def regroupForm (f : F64) : Form := { Instr.form (.regroup f) with a := .no }

/-- The cause 0x010 of a lane whose payload holds an unwritten fixed-latency result, with the lowest such register
(05 R69). -/
def payloadCause (c : Crew) (f : F64) (l : Nat) : Option (Nat × Nat) :=
  (List.range (f.mod.toNat % 16 + 1)).findSome? fun k =>
    if c.stallchk && c.early (f.va.toNat + k) l then some (0x010, f.va.toNat + k) else none

/-- REGROUP (15 R196): the payloads enter the table, dead and poisoned registers as they are, and the threads end. -/
def execRegroup (f : F64) (s : State) : Out :=
  issueAs (.regroup f) (regroupForm f) s fun env s =>
    if env.is.handler then raiseAll env s 0x085
    else
      let good := env.parts.filter fun p => (payloadCause env.crew f p.l).isNone
      let core := coreOf env.key
      let c := s.core core
      if 2048 < tableUsed c + good.length then { s := s, hold := true }
      else
        { s := (s.setSerial (s.serial + 1)).setCore core { c with payloads := c.payloads ++ good.map (payloadOf env s f) }
          raised := overBy env.parts fun p => payloadCause env.crew f p.l
          overs := overBy ((lanesOf env.is.lanes).map (partAt (regroupForm f) env.f env.crew))
            fun p => payloadCause env.crew f p.l
          ended := good.map Part1.l }

/-! ## Transfer slots (05 R61, R62; 15 R198, R199) -/

def slotOf (s : State) (team core n : Nat) : Slot :=
  (((s.tctxs.get (tctxKey team core)).bind fun t => t.slots.get n)).getD .start

def setSlot (s : State) (team core n : Nat) (x : Slot) : State :=
  s.setTctxs (s.tctxs.modify (tctxKey team core) fun t => { t with slots := t.slots.set n x })

/-- Fills a slot, with what the sender's release carries (15 R199). -/
def fillSlot (s : State) (team core n k : Nat) (vals : List Word) (carried : Carried) : State :=
  setSlot s team core n { state := .filled k, vals := vals, bad := (slotOf s team core n).bad, carried := carried }

/-- Takes one count of a filled slot. -/
def takeCount (s : State) (team core n : Nat) : State :=
  let x := slotOf s team core n
  match x.state with
  | .filled k => setSlot s team core n { x with state := if k ≤ 1 then .released else .filled (k - 1) }
  | _ => s

/-- The receivers asleep at a slot in the partitions up to one, in ascending partition number (05 R62), and within a
partition the longest asleep first; those of an issuer's own partition come before its own operation (DESIGN CHOICE, log 102). -/
def slotReceivers (s : State) (team core n upTo : Nat) : List (Nat × Sleeper) :=
  let rs := sleepersWhere s fun sl => sameTeamCore s team core sl &&
    (match sl.what with | .xrecv m _ => m = n | _ => false)
  (List.range (upTo + 1)).flatMap fun p => rs.filter fun e => partOf e.2.crew = p

/-- The senders asleep at a slot, in the order in which they fill it (05 R62). -/
def slotSenders (s : State) (team core n : Nat) : List (Nat × Sleeper) :=
  sleepersWhere s fun sl => sameTeamCore s team core sl && (match sl.what with | .xsend m _ _ _ => m = n | _ => false)

/-- Serves one receiver asleep at a slot that a fill has woken (05 R61, R62): it takes a count and acquires what the
sender released (15 R199), or after the last count raises 0x083; of a slot that a soft error struck it raises 0x104 (27
R320). -/
def serveReceiver (s : State) (team core n : Nat) (e : Nat × Sleeper) : State :=
  let x := slotOf s team core n
  match x.state, e.2.what with
  | .filled _, .xrecv _ dst =>
    if x.bad then raiseSleeper s e.1 0x104
    else
      let s := acquireSig s e.2.crew x.carried
      takeCount (finishSleeper s e.1 dst (fun l => [x.vals.getD l 0#32]) 1) team core n
  | .released, .xrecv _ _ => raiseSleeper s e.1 (if x.bad then 0x104 else 0x083)
  | _, _ => s

/-- Serves the receivers asleep at a slot in the partitions up to one (05 R62). -/
def serveReceivers (s : State) (team core n upTo : Nat) : State :=
  (slotReceivers s team core n upTo).foldl (fun s e => serveReceiver s team core n e) s

/-- The end of a clock at a slot: the receivers still asleep compete for its counts, and where it is released the first
sleeping sender fills it (05 R62; log 75). -/
def serveSlot (s : State) (team core n : Nat) : State :=
  let s := serveReceivers s team core n 5
  match (slotOf s team core n).state, slotSenders s team core n with
  | .released, (id, sl) :: _ =>
    if (slotOf s team core n).bad then raiseSleeper s id 0x104
    else
      (match sl.what with
       | .xsend _ vals k carried => wakeSleeper (fillSlot s team core n k vals carried) id
       | _ => s)
  | _, _ => s

/-- The slots at which the end of a clock has something to serve: team, core and number. -/
def slotsDue (s : State) : List (Nat × Nat × Nat) :=
  s.sleepers.filterMap fun (_, sl) =>
    match s.crews.get sl.crew with
    | none => none
    | some c =>
      let core := coreOf sl.crew
      match sl.what with
      | .xrecv n _ => if (slotOf s c.team core n).state = .empty then none else some (c.team, core, n)
      | .xsend n _ _ _ => if (slotOf s c.team core n).state = .released then some (c.team, core, n) else none
      | _ => none

/-- XSEND (15 R198): a release at core scope (15 R199); behind senders that sleep on a slot released in this clock it
sleeps too (log 75). -/
def execXsend (f : F64) (s : State) : Out :=
  issue (.xsend f) s fun env s =>
    handlerBar env s <|
      let n := f.mod.toNat % 32
      let team := env.crew.team
      let core := coreOf env.key
      let vals := (List.range 32).map fun l => match env.parts.find? fun p => p.l = l with | some p => w p.a 0 | none => 0#32
      let x := slotOf s team core n
      if env.parts.isEmpty then { s := s }
      else if x.bad then raiseAll env s 0x104
      else
        let carried := releaseSig s env.key 2 env.lanes
        let s := releaseAt s env.key 2
        match x.state, slotSenders s team core n with
        | .filled _, _ | .released, _ :: _ => sleepOn env s (.xsend n vals f.imm.toNat carried)
        | _, _ =>
          { s := serveReceivers (fillSlot s team core n f.imm.toNat vals carried) team core n (partOf env.key) }

/-- XRECV (15 R198): the receivers asleep in the partitions up to its own come first (05 R62). -/
def execXrecv (f : F64) (s : State) : Out :=
  issue (.xrecv f) s fun env s =>
    handlerBar env s <|
      let n := f.mod.toNat % 32
      let team := env.crew.team
      let core := coreOf env.key
      if env.parts.isEmpty then { s := s }
      else if (slotOf s team core n).bad then raiseAll env s 0x104
      else
        let s := serveReceivers s team core n (partOf env.key)
        let x := slotOf s team core n
        match x.state with
        | .empty => sleepOn env s (.xrecv n f.vd.toNat)
        | .released => raiseAll env s 0x083
        | .filled _ =>
          { s := takeCount (acquireSig s env.key x.carried) team core n
            writes := env.parts.map fun p => (p.l, [x.vals.getD p.l 0#32]) }

end Sys2Proof.Machine
end

