-- ==== Sys2Proof/Machine/FaultUnit.lean ====
section
/-! DEFINITION. The fault units and fault-driven migration (11 R138 to R141). -/

namespace Sys2Proof.Machine

/-- The compute die of the partition that serves a logical core (01 R19): the dies of a partition serve equal runs of
consecutive cores, also where it has fewer than 4 (DESIGN CHOICE, log 73). -/
def faultDie (s : State) (core : Nat) : Nat := core * s.sys.dies / 256

/-- Status codes of a done entry (11 R138). -/
def migDone : Nat := 0
def migAbandoned : Nat := 1
def migPoisoned : Nat := 2
def migUnreadable : Nat := 3

/-- Entry i of a ring with entries of z bytes. -/
def ringEntry (r : FaultRing) (z : Nat) (i : Word) : Nat :=
  r.base.toNat / 4096 * 4096 + z * (i.toNat % 2 ^ ringLog r.log.toNat)

/-- The capacity frame of a PTE: its physical address. -/
def oldFrame (m : Migration) : Nat := if m.big then ptePpn m.old / 16 * 65536 else ptePpn m.old * 4096

def frameSize (m : Migration) : Nat := if m.big then 65536 else 4096

/-- The PTE's frame has a target (11 R140). -/
def readable (s : State) (m : Migration) : Bool :=
  s.sys.target (oldFrame m) = .capacity && s.sys.target (oldFrame m + frameSize m - 1) = .capacity

def setMigration (s : State) (die pte : Nat) (f : Migration → Migration) : State :=
  let u := s.faultUnit die
  s.setFaultUnit die { u with migrations := u.migrations.map fun m => if m.pte = pte && m.done.isNone then f m else m }

/-- The migrations that hold a slot and have no frame yet take the next frames of their free rings; a ring found empty
sets STARVED and sends the context event 0x143 with its message (11 R139, R140). -/
def grabFrames (s : State) (die : Nat) : State :=
  let slots := (s.faultUnit die).migrations.take 1024
  slots.foldl (fun s m =>
    if m.frame.isSome || m.done.isSome || !readable s m then s
    else
      let u := s.faultUnit die
      let n := if m.big then 1 else 0
      let r := u.ring n
      if r.head = r.tail then
        if u.starved then s
        else noticeEvent (s.setFaultUnit die { u with starved := true }) m.ctx 0x143
      else
        let a := ringEntry r 8 r.tail
        let frame := bytesNat (s.mem.homeBytes a 8) / 4096 % 2 ^ 40 * 4096
        let s := s.setFaultUnit die { u with rings := u.rings.set n { r with tail := r.tail + 1 } }
        setMigration s die m.pte fun x => { x with frame := some frame }) s

/-- What a migration is named by in a parked thread: a 64 KiB group by its first PTE (DESIGN CHOICE, log 74). -/
def migrationId (pteAt : Nat) (big : Bool) : Nat := if big then pteAt / 128 * 128 else pteAt

/-- Starts or joins the migration of a capacity PTE (11 R139), for a thread or for another agent that waits for it. -/
def startMigration (s : State) (die ctx va : Nat) (pte : BitVec 64) (pteAt : Nat) (big : Bool)
    (who : Option Agent := none) : State :=
  let id := migrationId pteAt big
  let u := s.faultUnit die
  let waits := match who with | some a => [a] | none => []
  if u.migrations.any fun m => m.pte = id && m.done.isNone then
    setMigration s die id fun m => { m with agents := m.agents ++ waits.filter fun a => !m.agents.contains a }
  else
    let m : Migration :=
      { pte := id, old := pte, va := va % 2 ^ 57, ctx, asid := (s.context ctx).asid.toNat, big, frame := none
        agents := waits, done := none }
    grabFrames (s.setFaultUnit die { u with migrations := u.migrations ++ [m] }) die

/-- Copies bytes of memory, with poison, by entries of the tables. -/
def copyMemory (m : MemSys) (src dst n : Nat) : MemSys :=
  let inside (k : Nat) : Bool := src ≤ k && k < src + n
  let out (k : Nat) : Bool := !(dst ≤ k && k < dst + n)
  let ramSrc := m.ram.filter fun e => inside e.1
  let l2Src := m.l2.filter fun e => inside e.1
  let ram := ramSrc.foldl (fun r e => Memory.write r (e.1 - src + dst) e.2) (m.ram.filter fun e => out e.1)
  let ram := l2Src.foldl (fun r e => Memory.write r (e.1 - src + dst) e.2) ram
  let moved : Map Unit := m.poison.keep fun k => inside (16 * k)
  let rest : Map Unit := m.poison.keep fun k => out (16 * k)
  let pois : Map Unit := moved.keys.foldl (fun (p : Map Unit) k => p.set (k - src / 16 + dst / 16) ()) rest
  { m with ram := ram, l2 := m.l2.filter fun e => out e.1, poison := pois }

/-- The PTEs of a migration's page or group. -/
def Migration.ptes (m : Migration) : List Nat := if m.big then (List.range 16).map fun j => m.pte + 8 * j else [m.pte]

/-- Fills a frame with free bytes: the contents of a page whose capacity frame software wrote (11 R141, log 1). -/
def fillFree (m : MemSys) (seed dst n : Nat) : MemSys :=
  (List.range n).foldl (fun m k => m.putThrough (dst + k) (Config.freeByte (seed * 2 ^ 52 + dst + k))) m

/-- The new PTE of a migrated page (11 R139, step 4). -/
def newPte (m : Migration) (frame : Nat) : BitVec 64 :=
  let keep := m.old &&& ~~~ (BitVec.ofNat 64 ((2 ^ 44 - 1) * 2 ^ 10))
  let ppn := if m.big then frame / 65536 * 16 + 8 else frame / 4096
  keep ||| BitVec.ofNat 64 (ppn * 2 ^ 10) ||| 0x41#64

/-- Writes a done entry and frees the slot, or waits for room with DONEFULL (11 R139, R140). -/
def writeDone (s : State) (die pte : Nat) : State :=
  let u := s.faultUnit die
  match u.migrations.find? fun m => m.pte = pte && m.done.isSome with
  | none => s
  | some m =>
    let r := u.ring 2
    if 2 ^ ringLog r.log.toNat ≤ (r.head - r.tail).toNat then s.setFaultUnit die { u with donefull := true }
    else
      let a := ringEntry r 32 r.head
      let ds := [m.va / 4096 * 4096 + m.done.getD 0, oldFrame m, m.pte, m.ctx + m.asid * 2 ^ 16]
      let s := storePhysical s 256 a (ds.flatMap fun d => natBytes 8 d)
      let u := s.faultUnit die
      let s := s.setFaultUnit die { u with
        rings := u.rings.set 2 { r with head := r.head + 1 }
        migrations := u.migrations.erase m }
      grabFrames (sendMsi s u.hart.toNat u.id.toNat) die

/-- The crews of a die with threads parked on a migration, with those lanes. -/
def parkedOn (s : State) (die pte : Nat) : List (Nat × List Nat) :=
  (s.crews.filter fun e => faultDie s (coreOf e.1) = die).filterMap fun (k, c) =>
    let ls := c.liveLanes.filter fun l =>
      match (c.thread l).wait with | .migration p _ | .resuming p _ => p = pte | _ => false
    if ls.isEmpty then none else some (k, ls)

/-- A migration's frame returns to the head of its free ring (11 R140). -/
def returnFrame (s : State) (die : Nat) (m : Migration) : State :=
  match m.frame with
  | none => s
  | some frame =>
    let u := s.faultUnit die
    let k := if m.big then 1 else 0
    let r := u.ring k
    let r' := { r with tail := r.tail - 1 }
    let s := storePhysical s 256 (ringEntry r' 8 r'.tail) (natBytes 8 frame)
    s.setFaultUnit die { u with rings := u.rings.set k r' }

/-- The agents other than threads that wait for a migration learn that it ended UNREADABLE (11 R140; 21 R242). -/
def markUnread (s : State) (die : Nat) (m : Migration) : State :=
  let u := s.faultUnit die
  s.setFaultUnit die { u with unread := u.unread ++ m.agents.map fun a => (a, m.pte) }

/-- The end of a migration (11 R139, R140): the page is copied, the PTE swapped, the parked threads wake and re-execute.
failed: the read of the capacity tier fails. A 64 KiB group ends as one migration (DESIGN CHOICE, log 74). -/
def finishMigration (die pte : Nat) (failed : Bool) (s : State) : Out :=
  match ((s.faultUnit die).migrations.take 1024).find? fun m => m.pte = pte && m.done.isNone with
  | none => .refused (.notEnabled "MIGRATION_COMPLETE")
  | some m =>
    let wakeAll (s : State) : State :=
      (parkedOn s die pte).foldl (fun s (k, ls) => wakeLanes s k ls fun _ t => t.pc) s
    if failed || !readable s m then
      let s := returnFrame (markUnread s die m) die m
      let s := setMigration s die pte fun x => { x with done := some migUnreadable }
      let s := writeDone s die pte
      .next ((parkedOn s die pte).foldl (fun s (k, ls) =>
        let at' (l : Nat) : Option Nat :=
          match s.crews.get k with
          | some c => (match (c.thread l).wait with | .migration _ a => some a | _ => none)
          | none => none
        let rs := ls.filterMap fun l => (at' l).map fun a => ({ lane := l, cause := 0x042, value := a } : Raised)
        raiseWaiters (failResume s k (ls.filter fun l => (at' l).isNone)) k rs) s)
    else
      match m.frame with
      | none => .refused (.notEnabled "MIGRATION_COMPLETE")
      | some frame =>
        let old := bytesNat (s.mem.homeBytes pte 8)
        if old ≠ m.old.toNat then
          let s := returnFrame s die m
          let s := setMigration s die pte fun x => { x with done := some migAbandoned }
          .next (wakeAll (writeDone s die pte))
        else
          let bad := s.mem.poison.any fun e => oldFrame m ≤ 16 * e.1 && 16 * e.1 < oldFrame m + frameSize m
          let mem := copyMemory s.mem (oldFrame m) frame (frameSize m)
          let mem := if m.ptes.any fun a => (s.sys.spoiled.get a).isSome then fillFree mem s.free frame (frameSize m) else mem
          let s := m.ptes.foldl (fun x a => storePhysical x 256 a (natBytes 8 (newPte m frame).toNat)) (s.setMem mem)
          let s := setMigration s die pte fun x =>
            { x with done := some (if bad then migPoisoned else migDone) }
          .next (wakeAll (writeDone s die pte))

/-- DONE_ENTRY_WRITE (11 R140): the first migration that waits on a full done ring writes its entry once there is room. -/
def execDoneEntryWrite (s : State) : Out :=
  match (List.range 4).findSome? fun d =>
      let u := s.faultUnit d
      let r := u.ring 2
      if (r.head - r.tail).toNat < 2 ^ ringLog r.log.toNat then
        (u.migrations.find? fun m => m.done.isSome).map fun m => (d, m.pte)
      else none with
  | some (d, pte) => .next (writeDone s d pte)
  | none => .refused (.notEnabled "DONE_ENTRY_WRITE")

/-- FURHEAD_WRITE (11 R138): a write to the head of free ring 0 or 1 posts frames; ring 2's head ignores writes. -/
def execFurheadWrite (die ring : Nat) (v : Word) (s : State) : Out :=
  let u := s.faultUnit die
  byHart "FURHEAD_WRITE" s (.next (
    if ring < 2 && die < s.sys.dies then
      grabFrames (s.setFaultUnit die { u with rings := u.rings.set ring { u.ring ring with head := v } }) die
    else s))

end Sys2Proof.Machine
end

