-- ==== Sys2Proof/Machine/Access.lean ====
section
/-! DEFINITION. The accesses of threads and engines to virtual memory and scratchpad, which the memory instructions, the
return stack, the engines and the dispatcher share (11 R128 to R142, R155, R156; 19 R218, R219). -/

namespace Sys2Proof.Machine

/-! ## Where n bytes at a virtual address lie -/

/-- What n bytes at an address meet. -/
inductive Meet where
  /-- the pieces, one per page, each with its number of bytes -/
  | ok (ms : List (Mapped × Nat))
  | bad (cause : Nat)
  | park (pte : BitVec 64) (pteAt : Nat) (big : Bool)
  deriving DecidableEq, Repr

/-- The pieces of n bytes at ea, one per 4 KiB page. -/
def splitPages : Nat → Nat → Nat → List (Nat × Nat)
  | 0, _, _ => []
  | fuel + 1, ea, n =>
    if n = 0 then []
    else
      let k := min n (4096 - ea % 4096)
      (ea, k) :: splitPages fuel (ea + k) (n - k)

/-- Translation of n bytes for a context at a core: the lowest cause, else a capacity PTE, else the pieces. -/
def meet (s : State) (core ctx ea n : Nat) (k : Access) : Meet :=
  let rs := (splitPages (n / 4096 + 2) ea n).map fun e => (reach s core ctx (e.1 % 2 ^ 64) k, e.2)
  match least (rs.map fun r => match r.1 with | .bad c => (true, c) | _ => (false, 0)) with
  | some c => .bad c
  | none =>
    match rs.findSome? fun r => match r.1 with | .capacity p a b => some (Meet.park p a b) | _ => none with
    | some m => m
    | none => .ok (rs.filterMap fun r => match r.1 with | .ok m => some (m, r.2) | _ => none)

/-- The bytes of pieces, as a thread of a core reads them. -/
def readPieces (s : State) (core : Nat) (ms : List (Mapped × Nat)) : List Byte :=
  ms.flatMap fun e => readMapped s core e.1 e.2

/-- A piece touches a poisoned granule. -/
def piecesPoisoned (s : State) (ms : List (Mapped × Nat)) : Bool := ms.any fun e => s.mem.poisonIn e.1.pa e.2

/-- Notes the accesses to the pages of n bytes (11 R135). -/
def noteRange (s : State) (core ctx ea n : Nat) (store : Bool) : State :=
  (splitPages (n / 4096 + 2) ea n).foldl (fun s e => noteAccess s core ctx e.1 store) s

/-- Writes bytes over pieces as plain stores of a core. -/
def writePieces (s : State) (core : Nat) : List (Mapped × Nat) → List Byte → State
  | [], _ => s
  | (m, n) :: rest, bs => writePieces (storeMapped s core m (bs.take n)) core rest (bs.drop n)

/-- The physical lines of pieces. -/
def linesOf (ms : List (Mapped × Nat)) : List Nat :=
  sortAsc (ms.flatMap fun e => (List.range (e.2 / 128 + 2)).filterMap fun k =>
    let line := e.1.pa / 128 + k
    if line * 128 < e.1.pa + e.2 then some line else none)

/-- A page whose accesses Sluice never holds: CLVL 10, IO, or a device (11 R142). -/
def neverHeld (s : State) (m : Mapped) : Bool :=
  uncached m.pte || (match s.sys.target m.pa with | .window _ => true | _ => false)

/-- Enters the requests for pieces into Sluice, unless they are never held; the lines that now hold them. -/
def holdPieces (s : State) (core : Nat) (ms : List (Mapped × Nat)) (crew : Option Nat) : State × List Nat :=
  if ms.any fun e => neverHeld s e.1 then (s, [])
  else
    let ls := linesOf ms
    let sectors (line : Nat) : BitVec 8 := ms.foldl (fun b e =>
      (List.range 8).foldl (fun b k =>
        let a := line * 128 + 16 * k
        if a < e.1.pa + e.2 && e.1.pa < a + 16 then b ||| (1#8 <<< k) else b) b) 0#8
    (ls.foldl (fun s line => enterSluice s core line (sectors line) crew) s, ls)

/-! ## One thread's accesses -/

/-- What one thread's access gives. -/
inductive Got where
  /-- the bytes, the Sluice lines that hold the request, and the physical address -/
  | bytes (bs : List Byte) (lines : List Nat) (pa : Nat)
  | raise (cause : Nat)
  | park (id : Nat)
  deriving DecidableEq, Repr

/-- Parks a thread on the migration of a capacity PTE (11 R139). -/
def parkOn (s : State) (core ctx ea : Nat) (pte : BitVec 64) (pteAt : Nat) (big : Bool) : State × Got :=
  (startMigration s (faultDie s core) ctx ea pte pteAt big, .park (migrationId pteAt big))

/-- A load of n bytes at ea by a thread of a crew; held says that Sluice may hold it (11 R142; 19 R219). -/
def threadLoad (s : State) (key ctx ea n align : Nat) (held : Bool) : State × Got :=
  let core := coreOf key
  if ea % align ≠ 0 then (s, .raise 0x040)
  else
    match meet s core ctx ea n .load with
    | .bad c => (s, .raise c)
    | .park p a b => parkOn s core ctx ea p a b
    | .ok ms =>
      if piecesPoisoned s ms then (s, .raise 0x047)
      else
        let s := noteRange s core ctx ea n false
        let bs := readPieces s core ms
        let s := (linesOf ms).foldl (fun s l => noteRead s key (l * 128)) s
        let (s, ls) := if held then holdPieces s core ms none else (s, [])
        (s, .bytes bs ls ((ms.map fun e => e.1.pa).headD 0))

/-- The writes of physical lines enter the crew's write sets, and carry what a releasing fence before them gives (11 R148,
R152, R153). -/
def noteWrites (s : State) (key : Nat) (lines : List Nat) : State :=
  let x := ((s.crews.get key).map Crew.fence).getD .none
  let s := s.setCrews (s.crews.modify key fun c => lines.foldl (fun c l => c.noteWrite (l * 128)) c)
  if x = .none then s else lines.foldl (fun s l => carry s x (l * 128)) s

/-- The element type of a reducing window's operation, as a format code (11 R155, R156): FP32, BF16 or X32. -/
def windowFmt (op : Nat) : Nat := if op = 0 then 8 else if op = 1 then 9 else 2

/-- The staging slots that the firmware's reserve holds (11 R156; 31 R346): one for 16 bytes (DESIGN CHOICE, log 72). -/
def stagingSlots (s : State) : Nat := s.sys.record.hbmrsv / 16

/-- A store of bytes at ea by a thread of a crew. Each lane's store is judged by itself: lanes that write a poisoned granule
whole only together leave its poison (DESIGN CHOICE, log 99). plain says that Sluice may hold it; fmt is its format if a reducing
window may take it (11 R142, R156; 19 R219, R221). A reducing store whose page is not in HBM raises 0x04B (DEDUCED, log 17). -/
def threadStore (s : State) (key ctx ea align : Nat) (bs : List Byte) (plain : Bool) (fmt : Option Nat) :
    State × Got :=
  let core := coreOf key
  let n := bs.length
  let win := windowAt s ctx (ea % 2 ^ 57)
  if ea % align ≠ 0 then (s, .raise 0x040)
  else
    match meet s core ctx ea n .store, win with
    | .bad c, _ => (s, .raise (if win.isSome then min c 0x04B else c))
    | .park _ _ _, some _ => (s, .raise 0x04B)
    | .park p a b, none => parkOn s core ctx ea p a b
    | .ok ms, some (wn, op) =>
      let pa := (ms.map fun e => e.1.pa).headD 0
      if plain && fmt = some (windowFmt op) && s.sys.target pa = .hbm then
        -- windows that overlap leave an unpredictable result (11 R155, log 1)
        let v : Word :=
          if 1 < (windowsAt s ctx (ea % 2 ^ 57)).length then Config.freeWord (s.free * 2 ^ 60 + ea)
          else BitVec.ofNat 32 (if op = 1 then bytesNat bs * 2 ^ 16 else bytesNat bs)
        let s := noteRange s core ctx ea n true
        (noteWrites (stage s ctx wn op pa core v) key (linesOf ms), .bytes [] [] pa)
      else (s, .raise 0x04B)
    | .ok ms, none =>
      let s := writePieces (noteRange s core ctx ea n true) core ms bs
      let s := noteWrites s key (linesOf ms)
      let s :=
        if plain then (holdPieces s core ms (some key)).1
        else s.setMem (s.mem.flushL1 core fun a => (linesOf ms).contains (a / 128))
      (s, .bytes [] [] ((ms.map fun e => e.1.pa).headD 0))

/-- The access an atomic makes (11 R135; 19 R225): it reads, and writes unless its compare fails, which f tells from the
bytes read, once the read has been noted; a page that it may only read serves a compare that fails. -/
def atomicReach (s : State) (core ctx ea n : Nat) (f : List Byte → Option (List Byte)) : Reach × Bool :=
  match reach s core ctx ea .store, reach s core ctx ea .load with
  | .bad 0x043, .ok m =>
    if (f ((noteAccess s core ctx ea false).mem.seenBytes core m.pa n)).isNone then (.ok m, false) else (.bad 0x043, true)
  | r, _ => (r, true)

/-- An atomic of n bytes at ea by a thread (19 R224 to R226): performed at the line's home. f gives the new bytes, or
none for a compare that fails. The bytes of the answer are the old ones. -/
def threadAtomic (s : State) (key ctx ea n : Nat) (f : List Byte → Option (List Byte)) : State × Got :=
  let core := coreOf key
  if ea % n ≠ 0 then (s, .raise 0x041)
  else
    let win := (windowAt s ctx (ea % 2 ^ 57)).isSome
    match (atomicReach s core ctx ea n f).1 with
    | .bad c => (s, .raise (if win then min c 0x04B else c))
    | .capacity p a b => if win then (s, .raise 0x04B) else parkOn s core ctx ea p a b
    | .ok m =>
      let fabric := s.sys.target m.pa = .fabric
      if s.mem.poisonIn m.pa n then (s, .raise 0x047)
      else if win then (s, .raise 0x04B)
      else if isIo m.pte || (fabric && clvl m.pte ≠ 3) then (s, .raise 0x04D)
      else
        let s := noteAccess s core ctx ea false
        let old := s.mem.seenBytes core m.pa n
        let s := s.setMem (s.mem.flushL1 core fun a => a / 128 = m.pa / 128)
        match f old with
        | none => (noteRead s key m.pa, .bytes old [] m.pa)
        | some new =>
          let s := storeHome (noteAccess s core ctx ea true) core m new
          (noteWrites (noteRead s key m.pa) key [m.pa / 128], .bytes old [] m.pa)

/-! ## Scratchpad (11 R129, R130; 23 R279) -/

/-- A scratchpad granule lies in a footprint. -/
def Footprint.holds (f : Footprint) (granule : Nat) : Bool := f.first ≤ granule && granule < f.first + f.count

/-- A scratchpad granule lies in the footprint of a Millstone command that no MWAIT has covered, of the team given. -/
def inFootprint (s : State) (team granule : Nat) : Bool :=
  s.cores.any fun e => e.2.footprints.any fun f => f.team = team && f.holds granule

/-- The bytes a crew's read of scratchpad gives: free where a Millstone command owns them (23 R279, log 1). -/
def scratchSeen (s : State) (team k n : Nat) : List Byte :=
  (List.range n).map fun j =>
    if inFootprint s team ((k + j) / 16) then Config.freeByte (s.free * 2 ^ 32 + k + j) else s.mem.scratchByte (k + j)

/-- The key of an accumulator element. -/
def accKey (core t i j : Nat) : Nat := ((core * 64 + t) * 64 + i) * 64 + j

def MemSys.accWord (m : MemSys) (k : Nat) : Word := (m.acc.get k).getD 0#32
def MemSys.putAcc (m : MemSys) (k : Nat) (w : Word) : MemSys :=
  { m with acc := if w = 0#32 then m.acc.erase k else m.acc.set k w }

/-- A variance register whose fields are free (23 R279, log 1). -/
def freeVariance (s : State) : Variance :=
  let w (k : Nat) : Word := Config.freeWord (s.free * 2 ^ 32 + 2 ^ 31 + k)
  { s := (w 0).toNat, mean := w 1, m2 := w 2, reason := (w 3).toNat }

/-- The result of a Millstone command becomes unpredictable (23 R279, log 1): free elements of its tile, where its team
still holds it, and for an MMAS a free variance register, or free bytes. -/
def spoilResult (s : State) (core team : Nat) (d : MillDest) : State :=
  match d with
  | .tile t first rows cols variance =>
    let k := s.core core
    let s := if variance && k.mill = some team then s.setCore core { k with variance := freeVariance s } else s
    if k.tiles.get t ≠ some team then s
    else
      let keys := (List.range rows).flatMap fun i => (List.range cols).map fun j => accKey core t (first + i) j
      s.setMem (keys.foldl (fun m k => m.putAcc k (Config.freeWord (s.free * 2 ^ 32 + k))) s.mem)
  | .pad k n => s.setMem (s.mem.putScratch k ((List.range n).map fun j => Config.freeByte (s.free * 2 ^ 32 + k + j)))

/-- A crew's write into footprints of its team spoils the results of their commands: at once of those already performed,
and of the others when they are performed (23 R279). -/
def spoilFootprints (s : State) (team k n : Nat) : State :=
  s.cores.foldl (fun s e =>
    let hit (f : Footprint) : Bool := f.team = team && (List.range n).any fun j => f.holds ((k + j) / 16)
    if !e.2.footprints.any hit then s
    else
      let overs (f : Footprint) : Bool := !e.2.commands.any fun c => c.serial = f.serial
      let s := (e.2.footprints.filter fun f => hit f && overs f).foldl (fun s f => spoilResult s e.1 team f.dest) s
      let c := s.core e.1
      s.setCore e.1 { c with footprints := c.footprints.map fun f => if hit f then { f with touched := true } else f }) s

/-- Writes scratchpad bytes of a team for the writers given; into a command's footprint the bytes left are free, and so is the command's result
(23 R279, log 1). -/
def scratchWrite (s : State) (writers : List Nat) (team k : Nat) (bs : List Byte) : State :=
  let out := (List.range bs.length).map fun j =>
    if inFootprint s team ((k + j) / 16) then Config.freeByte (s.free * 2 ^ 32 + k + j) else bs.getD j 0
  spoilFootprints (s.setMem ((s.mem.putScratch k out).noteScratch writers s.free k bs.length)) team k bs.length

/-- The scratchpad byte key of n bytes in the issuing core's own reservation of the team (21 R257; 23 R269). -/
def ownPad (s : State) (team core addr n : Nat) : Option Nat :=
  match scratchAt s team addr n, s.tctxs.get (tctxKey team core), s.launchOf team with
  | some k, some t, some l =>
    let o := k % 2 ^ 19
    if k / 2 ^ 19 = core && t.scratch ≤ o && o + n ≤ t.scratch + 1024 * l.record.scratch.toNat then some k else none
  | _, _, _ => none

/-- A load of scratchpad by a thread (19 R219, R223). -/
def scratchLoad (s : State) (team ea n align : Nat) : Got :=
  if ea % align ≠ 0 then .raise 0x040
  else
    match scratchAt s team ea n with
    | none => .raise 0x046
    | some k => if s.mem.scratchPoisoned k n then .raise 0x101 else .bytes (scratchSeen s team k n) [] k

/-- A store to scratchpad by threads (19 R219, R223). -/
def scratchStore (s : State) (writers : List Nat) (team ea align : Nat) (bs : List Byte) : State × Got :=
  if ea % align ≠ 0 then (s, .raise 0x040)
  else
    match scratchAt s team ea bs.length with
    | none => (s, .raise 0x046)
    | some k => (scratchWrite s writers team k bs, .bytes [] [] k)

/-! ## What the lanes of one instruction gather -/

/-- The effects of a memory instruction gathered over its lanes. -/
structure Lanewise where
  s : State
  writes : List (Nat × List Word) := []
  raised : List Raised := []
  sleeps : List (Nat × Wait) := []
  lines : List Nat := []
  flags : Flags := 0

/-- Takes what one lane's access gave: its words and flags when it was performed. -/
def Lanewise.take (a : Lanewise) (s : State) (l ea : Nat) (g : Got) (words : List Byte → List Word)
    (flags : Flags := 0) : Lanewise :=
  match g with
  | .bytes bs ls _ => { a with s := s, writes := a.writes ++ [(l, words bs)], lines := sortAsc (a.lines ++ ls)
                               flags := a.flags ||| flags }
  | .raise c => { a with s := s, raised := a.raised ++ [{ lane := l, cause := c, value := ea }] }
  | .park id => { a with s := s, sleeps := a.sleeps ++ [(l, .migration id ea)] }

/-- The effect of lanes whose words are the result of a load or an atomic. -/
def Lanewise.result (a : Lanewise) : Eff :=
  { s := a.s, writes := a.writes, raised := a.raised, sleeps := a.sleeps, lines := some a.lines }

/-- ORs flags into a crew's FFLAGS at once (09 R118): a store has no write clock, and its flags enter at its issue (DESIGN
CHOICE, log 100). -/
def orFlagsNow (s : State) (key : Nat) (fl : Flags) : State :=
  if fl = 0 then s else s.setCrews (s.crews.modify key fun c => c.orFlags fl)

/-- The effect of lanes that stored: no result, the flags set before the crew's next instruction (09 R118). -/
def Lanewise.stored (a : Lanewise) (key : Nat) : Eff :=
  { s := orFlagsNow a.s key a.flags, raised := a.raised, sleeps := a.sleeps }

/-! ## Engine and dispatcher accesses -/

/-- Reads n bytes at a virtual address for an engine of a core and context: the pieces' bytes with poison, the lowest
cause, or a capacity PTE. -/
inductive Fetch where
  | ok (bs : List Byte) (poison : Bool)
  | bad (cause : Nat)
  | park (pte : BitVec 64) (pteAt : Nat) (big : Bool)
  deriving DecidableEq, Repr

def engineRead (s : State) (core ctx ea n : Nat) : Fetch :=
  match meet s core ctx ea n .load with
  | .bad c => .bad c
  | .park p a b => .park p a b
  | .ok ms => .ok (readPieces s core ms) (piecesPoisoned s ms)

/-- The accesses of an engine's read of n bytes are noted, where it meets pages it may read (11 R135). -/
def noteEngine (s : State) (core ctx ea n : Nat) : State :=
  match meet s core ctx ea n .load with
  | .ok _ => noteRange s core ctx ea n false
  | _ => s

/-- The TLB entries that a translation of n bytes at an address uses, once its accesses are noted. -/
def entriesFor (s : State) (core ctx ea n : Nat) : List TlbEntry :=
  (splitPages (n / 4096 + 2) ea n).filterMap fun e =>
    s.mem.tlb.find? fun t => t.core = core && t.asid = (s.context ctx).asid.toNat && t.base ≤ e.1 % 2 ^ 57 &&
      e.1 % 2 ^ 57 < t.base + 2 ^ t.log

/-- What n bytes an engine writes at an address meet: no engine is the source of a reducing store, so its writes into a
reducing window are other stores (11 R156, log 17), except those of a BCOPY, which are plain (21 R255). -/
def engineMeet (s : State) (core ctx ea n : Nat) (plain : Bool := false) : Meet :=
  let win := !plain && (splitPages (n / 4096 + 2) ea n).any fun e => (windowAt s ctx (e.1 % 2 ^ 57)).isSome
  match meet s core ctx ea n .store with
  | .bad c => .bad (if win then min c 0x04B else c)
  | r => if win then .bad 0x04B else r

/-- What an agent other than a thread meets, for whom a migration that ended UNREADABLE is a failed translation, 0x042
(11 R140). -/
def unreadFor (s : State) (who : Agent) (pteAt : Nat) (big : Bool) : Bool :=
  s.sys.faults.any fun e => e.2.unread.contains (who, migrationId pteAt big)

def Meet.of (s : State) (who : Agent) : Meet → Meet
  | .park p a b => if unreadFor s who a b then .bad 0x042 else .park p a b
  | r => r

def Fetch.of (s : State) (who : Agent) : Fetch → Fetch
  | .park p a b => if unreadFor s who a b then .bad 0x042 else .park p a b
  | r => r

/-- An agent has met the end of its migration. -/
def forgetUnread (s : State) (who : Agent) : State :=
  if s.sys.faults.any fun e => e.2.unread.any fun x => x.1 = who then
    s.setSys { s.sys with faults := s.sys.faults.map fun e =>
      (e.1, { e.2 with unread := e.2.unread.filter fun x => x.1 ≠ who }) }
  else s

/-- Writes bytes at a virtual address for an engine, at their home (21 R241). -/
def engineWrite (s : State) (who : Agent) (core ctx ea : Nat) (bs : List Byte) (plain : Bool := false) : State × Got :=
  match (engineMeet s core ctx ea bs.length plain).of s who with
  | .bad c => (s, .raise c)
  | .park p a b => (startMigration s (faultDie s core) ctx ea p a b who, .park (migrationId a b))
  | .ok ms =>
    let go := ms.foldl (fun (x : State × List Byte) e =>
      (storeHome x.1 core e.1 (x.2.take e.2), x.2.drop e.2)) (noteRange s core ctx ea bs.length true, bs)
    (go.1, .bytes [] [] ((ms.map fun e => e.1.pa).headD 0))

/-- Poisons the granules of n bytes at a virtual address. -/
def enginePoison (s : State) (core ctx ea n : Nat) (plain : Bool := false) : State :=
  match engineMeet s core ctx ea n plain with
  | .ok ms => s.setMem (ms.foldl (fun m e =>
      (List.range (e.2 / 16 + 2)).foldl (fun m k =>
        let g := e.1.pa / 16 + k
        if 16 * g < e.1.pa + e.2 then m.poisonSet g else m) m) s.mem)
  | _ => s

end Sys2Proof.Machine
end

