-- ==== Sys2Proof/Machine/MemOps.lean ====
section
/-! DEFINITION. Memory, synchronisation and CSR instructions (chapter 19), and the steps that end them: replies, result
writes, Sluice, re-reads and limits. -/

namespace Sys2Proof.Machine

/-- An outcome changed by what follows the issue in the same clock. -/
def andThen (o : Out) (f : State → State) : Out :=
  match o with
  | .next s => .next (f s)
  | x => x

/-- The crew of the issue in progress. -/
def issueCrew (s : State) : Nat := (s.cur.map Issue.crew).getD 0

/-! ## LD, ST, LDS and STS (19 R220 to R223) -/

/-- The fields of the modifiers of LD and ST (19 R220). -/
def ldFmt (f : Fields) : Nat := fieldOf f.mod 3 0
def ldIx (f : Fields) : Bool := modBit f 4
def ldQ (f : Fields) : Bool := modBit f 5
def ldScope (f : Fields) : Nat := fieldOf f.mod 8 6
def ldOrd (f : Fields) : Bool := modBit f 9
def stRnd (f : Fields) : Nat := fieldOf f.mod 14 12

/-- The destination words of a loaded element (09 R107; 19 R220). -/
def loadWords (fmt : Nat) (bs : List Byte) : List Word :=
  if bs.length ≤ 4 then [widen fmt (bytesNat bs)]
  else (List.range (bs.length / 4)).map fun k => BitVec.ofNat 32 (bytesNat ((bs.drop (4 * k)).take 4))

/-- The rounding of a store for an element at a byte address (09 R113, R117). -/
def storeMode (rnd : Nat) (seed : Word) (counter : Nat) : StoreMode :=
  if rnd = 4 then .sr (mix32 (BitVec.ofNat 32 counter) seed).toNat else .mode (Mode.ofCode rnd)

/-- The bytes a store writes for one element, with its flags (09 R114, R115, R118). -/
def storeBytes (fmt : Nat) (q : Bool) (m : StoreMode) (ws : List Word) : List Byte × Flags :=
  if q || fmt = 3 then (ws.flatMap fun x => natBytes 4 x.toNat, 0)
  else
    let r := narrow fmt m (w ws 0)
    (natBytes (fmtBits fmt / 8) r.1, r.2)

/-- The seed of a stochastic store (09 R117). -/
def seedOf (env : Env) : Word := w env.more 0

/-- Bytes of a record and the place of its scales (19 R222). -/
def recordSize (fmt : Nat) : Nat := if fmt = 11 then 18 else 34
def scaleAt (fmt : Nat) : Nat := if fmt = 11 then 16 else 32

/-- Byte of lane l's code within a record. -/
def codeAt (fmt l : Nat) : Nat := if fmt = 11 then l / 2 else l

/-- Lane l's code and scale of a record's bytes. -/
def recordCode (fmt : Nat) (bs : List Byte) (l : Nat) : Nat :=
  let b := (bs.getD (codeAt fmt l) 0).toNat
  if fmt = 11 then (if l % 2 = 0 then b % 16 else b / 16) else b
def recordScale (fmt : Nat) (bs : List Byte) (l : Nat) : Nat := (bs.getD (scaleAt fmt + l / 16) 0).toNat

/-- The counter of lane l's element in a record at base R (09 R117). -/
def recordCounter (fmt base l : Nat) : Nat := if fmt = 11 then 2 * (base + l / 2) + l % 2 else base + l

/-- The bytes of a record stored from words by lane, and the flags of the lanes that store (09 R116, R118; 19 R222). -/
def recordBytes (fmt rnd : Nat) (seed : Word) (base : Nat) (vals : List (Nat × Word)) : List Byte × Flags :=
  let val (l : Nat) : FNum := match vals.find? fun e => e.1 = l with | some e => num32 e.2 | none => num32 0#32
  let e8 (b : Nat) : Nat := blockScale fmt ((List.range 16).map fun k => val (16 * b + k))
  let scales := [e8 0, e8 1]
  let code (l : Nat) : Nat × Flags :=
    blockCode fmt (nth scales (l / 16)) (storeMode rnd seed (recordCounter fmt base l)) (val l)
  let codes := (List.range 32).map code
  let flags := vals.foldl (fun a e => a ||| (codes.getD e.1 (0, 0)).2) 0#5
  let c (l : Nat) : Nat := (codes.getD l (0, 0)).1
  let body := if fmt = 11 then (List.range 16).map fun k => BitVec.ofNat 8 (c (2 * k) + 16 * c (2 * k + 1))
    else (List.range 32).map fun l => BitVec.ofNat 8 (c l)
  (body ++ scales.map (BitVec.ofNat 8), flags)

/-- The common address of the participants of a record access, or none when they differ (19 R222). -/
def recordBase (eas : List Nat) : Option Nat :=
  match eas with
  | [] => none
  | e :: es => if es.all fun x => x = e then some e else none

/-- The divergent record address, 0x04C, in every participant, unless a lower cause applies to its own address; a lane with
such a cause counts in the comparison (DESIGN CHOICE, log 98). -/
def divergent (s : State) (lanes : List (Nat × Nat)) (own : Nat → Option Nat) : Eff :=
  { s := s, raised := lanes.map fun e =>
      { lane := e.1, cause := (match own e.2 with | some c => min c 0x04C | none => 0x04C), value := e.2 } }

/-- The cause of a record access at an address, the lowest: its alignment, its translation, or for a store a reducing
window it touches (11 R156; 19 R218, R222). -/
def recordCause (s : State) (core ctx n ea : Nat) (k : Access) : Option Nat :=
  let win := k = .store && ((windowAt s ctx (ea % 2 ^ 57)).isSome || (windowAt s ctx ((ea + n - 1) % 2 ^ 57)).isSome)
  if ea % 2 ≠ 0 then some 0x040
  else
    match meet s core ctx ea n k with
    | .bad c => some (if win then min c 0x04B else c)
    | _ => if win then some 0x04B else none

/-- What every participant of a record access does when it is not performed. -/
def sameForAll (s : State) (lanes : List (Nat × Nat)) (g : Got) : Eff :=
  match g with
  | .raise c => { s := s, raised := lanes.map fun e => { lane := e.1, cause := c, value := e.2 } }
  | .park id => { s := s, sleeps := lanes.map fun e => (e.1, .migration id e.2) }
  | .bytes _ _ _ => { s := s }

/-- A load of a record from memory (19 R222). Poison raises in the lanes whose own code or scale lies in a poisoned granule
(DESIGN CHOICE, log 98). -/
def loadRecord (env : Env) (s : State) (ctx fmt : Nat) (held : Bool) : Eff × Nat :=
  let core := coreOf env.key
  let n := recordSize fmt
  let lanes := env.parts.map fun p => (p.l, eaOf env.f (ldIx env.f) 2 p)
  match recordBase (lanes.map Prod.snd) with
  | none => (divergent s lanes fun ea => recordCause s core ctx n ea .load, 0)
  | some ea =>
    match recordCause s core ctx n ea .load, meet s core ctx ea n .load with
    | some c, _ => (sameForAll s lanes (.raise c), 0)
    | none, .park p a b =>
      let r := parkOn s core ctx ea p a b
      (sameForAll r.1 lanes r.2, 0)
    | none, .ok ms =>
      let pas := ms.flatMap fun e => (List.range e.2).map fun k => e.1.pa + k
      let bad (l : Nat) : Bool :=
        s.mem.poisonAt (nth pas (codeAt fmt l)) || s.mem.poisonAt (nth pas (scaleAt fmt + l / 16))
      -- lanes that all raise leave nothing behind (00 R8)
      let some' := lanes.any fun e => !bad e.1
      let s := if some' then noteRange s core ctx ea n false else s
      let bs := readPieces s core ms
      let s := if some' then (linesOf ms).foldl (fun s l => noteRead s env.key (l * 128)) s else s
      let (s, ls) := if held && some' then holdPieces s core ms none else (s, [])
      ({ s := s, lines := some ls
         raised := (lanes.filter fun e => bad e.1).map fun e => { lane := e.1, cause := 0x047, value := ea }
         writes := (lanes.filter fun e => !bad e.1).map fun e =>
           (e.1, [widenScaled fmt (recordCode fmt bs e.1) (recordScale fmt bs e.1)]) }, nth pas 0)
    | none, .bad _ => (sameForAll s lanes (.raise 0x042), 0)

/-- An acquire of the participants at the lines they read (11 R148, R153). -/
def acquireAll (s : State) (key scope : Nat) (pas : List Nat) : State :=
  pas.foldl (fun s pa => acquireAt s key scope pa) s

/-- LD (19 R221). -/
def execLd (f : F64) (s : State) : Out :=
  issue (.ld f) s fun env s =>
    let ctx := ctxOf s env.crew
    let fmt := ldFmt env.f
    let scope := ldScope env.f
    if isScaled fmt then
      let (e, pa) := loadRecord env s ctx fmt (!ldOrd env.f)
      if ldOrd env.f && !e.writes.isEmpty then { e with s := acquireAt e.s env.key scope pa } else e
    else
      let z := sizeOf fmt (ldQ env.f)
      let go := env.parts.foldl (fun (a : Lanewise × List Nat) p =>
        let ea := eaOf env.f (ldIx env.f) z p
        let (s, g) := threadLoad a.1.s env.key ctx ea z z (!ldOrd env.f)
        (a.1.take s p.l ea g (loadWords fmt), match g with | .bytes _ _ pa => a.2 ++ [pa] | _ => a.2)) ({ s := s }, [])
      let e := go.1.result
      if ldOrd env.f then { e with s := acquireAll e.s env.key scope go.2 } else e

/-- A store of a record to memory, all its bytes (19 R222); the flags are set only by a store that is performed. Also the
physical address, if it is. -/
def storeRecord (env : Env) (s : State) (ctx fmt : Nat) (plain : Bool) : Eff × Option Nat :=
  let core := coreOf env.key
  let n := recordSize fmt
  let lanes := env.parts.map fun p => (p.l, eaOf env.f (ldIx env.f) 2 p)
  match recordBase (lanes.map Prod.snd) with
  | none => (divergent s lanes fun ea => recordCause s core ctx n ea .store, none)
  | some ea =>
    let (bs, fl) := recordBytes fmt (stRnd env.f) (seedOf env) (ea % 2 ^ 57) (env.parts.map fun p => (p.l, w p.c 0))
    let (s', g) := match recordCause s core ctx n ea .store with
      | some c => (s, Got.raise c)
      | none => threadStore s env.key ctx ea 2 bs plain none
    match g with
    | .bytes _ _ pa => ({ s := orFlagsNow s' env.key fl }, some pa)
    | g => (sameForAll s' lanes g, none)

/-- The store of one participant of ST, with its flags: a reducing store sets none (11 R156; 19 R221). -/
def storeLane (env : Env) (s : State) (ctx fmt : Nat) (rel : Bool) (p : Part1) : State × Got × Flags :=
  let q := ldQ env.f
  let z := sizeOf fmt q
  let ea := eaOf env.f (ldIx env.f) z p
  let (bs, fl) := storeBytes fmt q (storeMode (stRnd env.f) (seedOf env) (ea % 2 ^ 32)) p.c
  let r := threadStore s env.key ctx ea z bs (!rel) (if q then none else some fmt)
  (r.1, r.2, if (windowAt s ctx (ea % 2 ^ 57)).isSome then 0#5 else fl)

/-- The stores of ST in ascending lane order, and the physical addresses of those performed. -/
def storeLanes (env : Env) (s : State) (ctx fmt : Nat) (rel : Bool) : Eff × List Nat :=
  if isScaled fmt then
    let (e, pa) := storeRecord env s ctx fmt (!rel)
    (e, match pa with | some a => [a] | none => [])
  else
    let z := sizeOf fmt (ldQ env.f)
    let go := env.parts.foldl (fun (a : Lanewise × List Nat) p =>
      let (s, g, fl) := storeLane env a.1.s ctx fmt rel p
      (a.1.take s p.l (eaOf env.f (ldIx env.f) z p) g (fun _ => []) fl,
        match g with | .bytes _ _ pa => a.2 ++ [pa] | _ => a.2)) ({ s := s }, [])
    (go.1.stored env.key, go.2)

/-- Some participant's store lies in a reducing window, and the pool is full or has no room for all the slots that the
issue needs: reducing stores wait (11 R156; log 72). -/
def stagingFull (env : Env) (s : State) (ctx fmt : Nat) (rel : Bool) : Bool :=
  let z := sizeOf fmt (ldQ env.f)
  stagingSlots s < s.mem.staged.length + env.parts.length && !rel && !isScaled fmt &&
    env.parts.any (fun p =>
      (match windowAt s ctx (eaOf env.f (ldIx env.f) z p % 2 ^ 57), (storeLane env s ctx fmt rel p).2.1 with
       | some _, .bytes _ _ _ => true
       | _, _ => false)) &&
    (stagingSlots s ≤ s.mem.staged.length || stagingSlots s < (storeLanes env s ctx fmt rel).1.s.mem.staged.length)

/-- ST (19 R221): as a release, the crew's release comes before the stores, unless no thread performs one (00 R8; 11 R148,
R153). -/
def execSt (f : F64) (s : State) : Out :=
  issue (.st f) s fun env s =>
    let ctx := ctxOf s env.crew
    let fmt := ldFmt env.f
    let scope := ldScope env.f
    let rel := ldOrd env.f
    let plain := storeLanes env s ctx fmt rel
    let overs := overBy (lateParts (.st f) env) fun p =>
      let ea := eaOf env.f (ldIx env.f) (if isScaled fmt then 2 else sizeOf fmt (ldQ env.f)) p
      let bad := if isScaled fmt then recordCause s (coreOf env.key) ctx (recordSize fmt) ea .store
        else match (storeLane env s ctx fmt rel p).2.1 with | .raise c => some c | _ => none
      bad.map fun c => (c, ea)
    if stagingFull env s ctx fmt rel then { s := s, hold := true }
    else if !rel || plain.2.isEmpty then { plain.1 with overs := overs }
    else
      let x := releaseSig s env.key scope env.lanes
      let (e, pas) := storeLanes env (releaseAt s env.key scope) ctx fmt rel
      { e with s := if 1 ≤ scope then pas.foldl (fun s pa => carry s x pa) e.s else e.s, overs := overs }

/-- The cause of a scratchpad access of n bytes at an address, the lowest (19 R218, R223). -/
def padCauseAt (s : State) (team n align ea : Nat) : Option Nat :=
  if ea % align ≠ 0 then some 0x040 else if (scratchAt s team ea n).isNone then some 0x046 else none

/-- LDS (19 R223). -/
def execLds (f : F64) (s : State) : Out :=
  issue (.lds f) s fun env s =>
    let fmt := ldFmt env.f
    let team := env.crew.team
    if isScaled fmt then
      let n := recordSize fmt
      let lanes := env.parts.map fun p => (p.l, scratchEaOf env.f (ldIx env.f) 2 p)
      let own := padCauseAt s team n 2
      match recordBase (lanes.map Prod.snd) with
      | none => divergent s lanes own
      | some ea =>
        match own ea, scratchAt s team ea n with
        | some c, _ => sameForAll s lanes (.raise c)
        | none, none => sameForAll s lanes (.raise 0x046)
        | none, some k =>
          let bs := scratchSeen s team k n
          let bad (l : Nat) : Bool :=
            s.mem.scratchPoisoned (k + codeAt fmt l) 1 || s.mem.scratchPoisoned (k + scaleAt fmt + l / 16) 1
          { s := s, lines := some []
            raised := (lanes.filter fun e => bad e.1).map fun e => { lane := e.1, cause := 0x101 }
            writes := (lanes.filter fun e => !bad e.1).map fun e =>
              (e.1, [widenScaled fmt (recordCode fmt bs e.1) (recordScale fmt bs e.1)]) }
    else
      let z := sizeOf fmt (ldQ env.f)
      (env.parts.foldl (fun (a : Lanewise) p =>
        let ea := scratchEaOf env.f (ldIx env.f) z p
        match scratchLoad a.s team ea z z with
        | .raise 0x101 => { a with raised := a.raised ++ [{ lane := p.l, cause := 0x101 }] }
        | g => a.take a.s p.l ea g (loadWords fmt)) { s := s }).result

/-- STS (19 R223). -/
def execSts (f : F64) (s : State) : Out :=
  issue (.sts f) s fun env s =>
    let fmt := ldFmt env.f
    let team := env.crew.team
    let overs (own : Nat → Option Nat) (z : Nat) : List Raised :=
      overBy (lateParts (.sts f) env) fun p =>
        let ea := scratchEaOf env.f (ldIx env.f) z p
        (own ea).map fun c => (c, ea)
    if isScaled fmt then
      let n := recordSize fmt
      let lanes := env.parts.map fun p => (p.l, scratchEaOf env.f (ldIx env.f) 2 p)
      let own := padCauseAt s team n 2
      match recordBase (lanes.map Prod.snd) with
      | none => { divergent s lanes own with overs := overs own 2 }
      | some ea =>
        let (bs, fl) := recordBytes fmt (stRnd env.f) (seedOf env) ea (env.parts.map fun p => (p.l, w p.c 0))
        let (s', g) := scratchStore s (env.lanes.map (threadWriter env.key)) team ea 2 bs
        match g with
        | .bytes _ _ _ => { s := orFlagsNow s' env.key fl, overs := overs own 2 }
        | g => { sameForAll s' lanes g with overs := overs own 2 }
    else
      let z := sizeOf fmt (ldQ env.f)
      { (env.parts.foldl (fun (a : Lanewise) p =>
          let ea := scratchEaOf env.f (ldIx env.f) z p
          let (bs, fl) := storeBytes fmt (ldQ env.f) (storeMode (stRnd env.f) (seedOf env) ea) p.c
          let (s, g) := scratchStore a.s [threadWriter env.key p.l] team ea z bs
          a.take s p.l ea g (fun _ => []) fl) { s := s }).stored env.key with
        overs := overs (padCauseAt s team z z) z }

/-! ## Atomics (19 R224 to R226) -/

/-- The new value of an atomic operation on n bytes (19 R224). -/
def atomOp (op n old v : Nat) : Nat :=
  let wide : Nat := 8 * n
  let sg (x : Nat) : Int := sext x wide
  let f (g : Word → Word → Word) : Nat := (g (BitVec.ofNat 32 old) (BitVec.ofNat 32 v)).toNat
  if op = 0 then v
  else if op = 1 then (old + v) % 2 ^ wide
  else if op = 2 then old &&& v
  else if op = 3 then old ||| v
  else if op = 4 then old ^^^ v
  else if op = 5 then (if sg v < sg old then v else old)
  else if op = 6 then (if sg old < sg v then v else old)
  else if op = 7 then min old v
  else if op = 8 then max old v
  else if op = 9 then f fun a b => (fadd a b).1
  else f fun a b => (fminmax (op = 11) a b).1

/-- The words of a register run as bytes. -/
def runBytes (ws : List Word) : List Byte := ws.flatMap fun x => natBytes 4 x.toNat

/-- The words of bytes. -/
def byteWords (bs : List Byte) : List Word :=
  (List.range (bs.length / 4)).map fun k => BitVec.ofNat 32 (bytesNat ((bs.drop (4 * k)).take 4))

def atomScope (f : Fields) : Nat := fieldOf f.mod 9 7
def atomOrd (f : Fields) : Nat := fieldOf f.mod 11 10
def atomSize (f : Fields) : Nat := 4 * 2 ^ fieldOf f.mod 5 4

/-- The accesses of an atomic's lanes in ascending order, with the physical addresses reached and whether each was
written. g gives the new bytes from a participant and the old bytes. -/
def atomAccesses (env : Env) (s : State) (ctx n : Nat) (g : Part1 → List Byte → Option (List Byte)) :
    Lanewise × List (Nat × Bool) :=
  env.parts.foldl (fun (a : Lanewise × List (Nat × Bool)) p =>
    let ea := eaOf env.f (modBit env.f 6) n p
    let (s, got) := threadAtomic a.1.s env.key ctx ea n (g p)
    (a.1.take s p.l ea got byteWords, match got with | .bytes bs _ pa => a.2 ++ [(pa, (g p bs).isSome)] | _ => a.2))
    ({ s := s }, [])

/-- The lanes of an atomic, with its release before and its acquire after (11 R148, R153; 19 R224): the crew's held stores
are sent when some thread performs its access, and the release is made when some thread writes, for a compare that fails is
a read with no part in the release (00 R8; 11 R142; 19 R225). -/
def atomLanes (env : Env) (s : State) (g : Part1 → List Byte → Option (List Byte)) : Lanewise :=
  let ctx := ctxOf s env.crew
  let n := atomSize env.f
  let scope := atomScope env.f
  let ord := atomOrd env.f
  let first := atomAccesses env s ctx n g
  let writes := first.2.any fun e => e.2
  let x := releaseSig s env.key scope env.lanes
  let go :=
    if 2 ≤ ord && writes then atomAccesses env (releaseAt s env.key scope) ctx n g
    else if 2 ≤ scope && !first.2.isEmpty then
      atomAccesses env (sendEntries s (coreOf env.key) fun e => e.stores.contains env.key) ctx n g
    else first
  let s := if 2 ≤ ord && 1 ≤ scope then
      go.2.foldl (fun s e => if e.2 then carry s x e.1 else s) go.1.s
    else go.1.s
  let s := if ord % 2 = 1 then acquireAll s env.key scope (go.2.map Prod.fst) else s
  { go.1 with s := s }

/-- The causes of an atomic's threads whose data operand is poisoned, where lower (19 R218). -/
def atomOver (i : Instr) (env : Env) (s : State) (g : Part1 → List Byte → Option (List Byte)) : List Raised :=
  overBy (lateParts i env) fun p =>
    let n := atomSize env.f
    let ea := eaOf env.f (modBit env.f 6) n p
    match (threadAtomic s env.key (ctxOf s env.crew) ea n (g p)).2 with
    | .raise c => some (c, ea)
    | _ => none

/-- The new bytes of an ATOM or ARED for a participant. -/
def atomNew (env : Env) (p : Part1) (old : List Byte) : Option (List Byte) :=
  let n := atomSize env.f
  some (natBytes n (atomOp (fieldOf env.f.mod 3 0) n (bytesNat old) (bytesNat (runBytes p.c))))

/-- ATOM (19 R224). -/
def execAtom (f : F64) (s : State) : Out :=
  issue (.atom f) s fun env s =>
    { (atomLanes env s (atomNew env)).result with overs := atomOver (.atom f) env s (atomNew env) }

/-- ARED (19 R224). -/
def execAred (f : F64) (s : State) : Out :=
  issue (.ared f) s fun env s =>
    { (atomLanes env s (atomNew env)).stored env.key with overs := atomOver (.ared f) env s (atomNew env) }

/-- CAS (19 R225): the new value when the old equals vd bit for bit. -/
def execCas (f : F64) (s : State) : Out :=
  issue (.cas f) s fun env s =>
    let new (p : Part1) (old : List Byte) : Option (List Byte) :=
      if old = runBytes p.d then some (runBytes p.c) else none
    { (atomLanes env s new).result with overs := atomOver (.cas f) env s new }

/-! ## Fences, prefetch and cache operations (19 R227 to R229) -/

/-- A releasing fence of threads of a crew at a scope: what its later stores carry (11 R148, R153). -/
def fenceRelease (s : State) (key scope : Nat) (lanes : List Nat) : State :=
  let x := releaseSig s key scope lanes
  (releaseAt s key scope).setCrews ((releaseAt s key scope).crews.modify key fun c => { c with fence := c.fence.join x })

/-- An acquiring fence of a crew: its earlier reads become acquires (11 R148). -/
def fenceAcquire (s : State) (key : Nat) : State := s.setCrews (s.crews.modify key fun c => c.acquire c.reads)

/-- FENCE (19 R227): every kind sends the crew's held stores at core scope or wider (11 R142); rel, ar and sc release, and
acq, ar and sc acquire. Loads have bound their values at issue (log 6). -/
def execFence (f : F64) (s : State) : Out :=
  issue (.fence f) s fun env s =>
    let kind := fieldOf env.f.mod 1 0
    let scope := fieldOf env.f.mod 4 2
    let s := if 2 ≤ scope then sendEntries s (coreOf env.key) fun e => e.stores.contains env.key else s
    let s := if kind = 0 || scope = 0 then s else fenceRelease s env.key scope env.lanes
    { s := if kind = 1 || scope = 0 then s else fenceAcquire s env.key }

/-- PREF (19 R228): only a migration is visible. -/
def execPref (f : F64) (s : State) : Out :=
  issue (.pref f) s fun env s =>
    let ctx := ctxOf s env.crew
    let core := coreOf env.key
    { s := env.parts.foldl (fun s p =>
        let ea := eaOf env.f (modBit env.f 2) 128 p
        match reach s core ctx ea .load with
        | .capacity pte a big => if modBit env.f 5 then startMigration s (faultDie s core) ctx ea pte a big else s
        | _ => s) s }

/-- One cache operation on the line of a physical address (19 R229). -/
def cacheOp (s : State) (core op pa : Nat) : State :=
  let here (a : Nat) : Bool := a / 128 = pa / 128
  let s := sendEntries s core fun e => e.line = pa / 128
  if op = 0 then
    let m := s.mem.flushL1 core here
    s.setMem { m with icache := m.icache.filter fun e => !here (e.1 % 2 ^ 52) }
  else if op = 1 || op = 2 then s.setMem (s.mem.flushL1 core here)
  else s.setMem (s.mem.flushL2 here)

/-- CCTL (19 R229). It sets no A bit and loads no TLB entry (DEDUCED, log 39). -/
def execCctl (f : F64) (s : State) : Out :=
  issue (.cctl f) s fun env s =>
    let ctx := ctxOf s env.crew
    let core := coreOf env.key
    let a := env.parts.foldl (fun (a : Lanewise) p =>
      let ea := eaOf env.f (modBit env.f 4) 128 p
      match reach a.s core ctx ea .cache with
      | .bad c => { a with raised := a.raised ++ [{ lane := p.l, cause := c, value := ea }] }
      | .capacity _ _ _ => a
      | .ok m => { a with s := cacheOp a.s core (fieldOf env.f.mod 3 0) m.pa }) ({ s := s } : Lanewise)
    a.stored env.key

/-! ## The barrier and bit waits (19 R230 to R232) -/

/-- BAR (19 R230): the threads sleep at the BAR; the barrier's and the starvation check follow. -/
def execBar (f : F64) (s : State) : Out :=
  let key := issueCrew s
  let team := ((s.crews.get key).map Crew.team).getD 0
  andThen
    (issue (.bar f) s fun env s =>
      if env.is.handler then raiseAll env s 0x080
      else if ((s.teams.get team).map Team.barBad).getD false then raiseAll env s 0x104
      else { s := s, sleeps := env.parts.map fun p => (p.l, .barrier) })
    fun s => barrierCheck (starveCheck s key) team

/-- A word's bit has the chosen value. -/
def bitIs (v bit : Nat) (sense : Bool) : Bool := (v / 2 ^ bit % 2 = 1) = sense

/-- WAITBIT (19 R232): lanes whose bit already stands move on; each other lane sleeps on its own. -/
def execWaitbit (f : F64) (s : State) : Out :=
  issue (.waitbit f) s fun env s =>
    let ctx := ctxOf s env.crew
    let bit := fieldOf env.f.mod 5 0
    let sense := modBit env.f 6
    let scope := fieldOf env.f.mod 10 8
    let limit := fieldOf env.f.mod 14 11
    (env.parts.foldl (fun (a : Lanewise) p =>
      let ea := eaOf env.f (modBit env.f 7) 8 p
      let (s, g) := threadLoad a.s env.key ctx ea 8 8 false
      match g with
      | .bytes bs _ pa =>
        let s := acquireAt s env.key scope pa
        if bitIs (bytesNat bs) bit sense then a.take s p.l ea g byteWords
        else
          let id := s.serial
          let sl : Sleeper :=
            { crew := env.key, lanes := maskOf [p.l], since := s.clock, seq := env.crew.issues + 1, next := env.is.next
              what := .waitbit ea bit sense (if limit = 0 then none else some (s.clock + 2 ^ (limit + 6))) f.vd.toNat
                (BitVec.ofNat 64 (bytesNat bs)) s.clock scope }
          { a with s := (s.setSerial (id + 1)).setSleepers (s.sleepers.set id sl), sleeps := a.sleeps ++ [(p.l, .op id)] }
      | g => a.take s p.l ea g byteWords) ({ s := s } : Lanewise)).result

/-- A thread of a sleeper meets a capacity PTE at a re-read: it parks on the migration and will re-execute (11 R139). -/
def parkSleeper (s : State) (id mig ea : Nat) : State :=
  match s.sleepers.get id with
  | none => s
  | some sl =>
    let ls := sleeperLanes s id sl
    let s := s.setSleepers (s.sleepers.erase id)
    s.setCrews (s.crews.modify sl.crew fun c => c.mapThreads ls fun _ t => { t with wait := .migration mig ea })

/-- A lane must read its word again (19 R232): 1,024 clocks have passed since it last did, or its line has been written so
that the read now gives another word or does not succeed. -/
def rereadDue (s : State) (id : Nat) : Bool :=
  match s.sleepers.get id with
  | some sl =>
    match sl.what, s.crews.get sl.crew with
    | .waitbit addr _ _ _ _ last read _, some c =>
      read + 1024 ≤ s.clock ||
        (match (threadLoad s sl.crew (ctxOf s c) addr 8 8 false).2 with
         | .bytes bs _ _ => BitVec.ofNat 64 (bytesNat bs) ≠ last
         | _ => true)
    | _, _ => false
  | none => false

/-- WAITBIT_REREAD (19 R232): the lane reads its word again and wakes when the bit stands. -/
def execWaitbitReread (id : Nat) (s : State) : Out :=
  match s.sleepers.get id with
  | some sl =>
    match sl.what, s.crews.get sl.crew with
    | .waitbit addr bit sense till dst _ _ scope, some c =>
      let (s, g) := threadLoad s sl.crew (ctxOf s c) addr 8 8 false
      match g with
      | .bytes bs _ pa =>
        let s := acquireAt s sl.crew scope pa
        if bitIs (bytesNat bs) bit sense then .next (finishSleeper s id dst (fun _ => byteWords bs) 2)
        else .next (s.setSleepers (s.sleepers.set id
          { sl with what := .waitbit addr bit sense till dst (BitVec.ofNat 64 (bytesNat bs)) s.clock scope }))
      | .raise cause =>
        let ls := sleeperLanes s id sl
        .next (raiseWaiters (s.setSleepers (s.sleepers.erase id)) sl.crew
          (ls.map fun l => { lane := l, cause := cause, value := addr }))
      | .park mig => .next (parkSleeper s id mig addr)
    | _, _ => .refused (.notEnabled "WAITBIT_REREAD")
  | none => .refused (.notEnabled "WAITBIT_REREAD")

/-- WAITBIT_LIMIT (19 R232): the first lane whose limit has passed wakes with the word last read. -/
def execWaitbitLimit (s : State) : Out :=
  match s.sleepers.find? fun e => match e.2.what with | .waitbit _ _ _ (some t) _ _ _ _ => t ≤ s.clock | _ => false with
  | some (id, sl) =>
    match sl.what with
    | .waitbit _ _ _ _ dst last _ _ => .next (finishSleeper s id dst (fun _ => split64 last) 2)
    | _ => .refused (.notEnabled "WAITBIT_LIMIT")
  | none => .refused (.notEnabled "WAITBIT_LIMIT")

/-! ## CSRs (05 R64, R65; 19 R234, R235) -/

/-- SCRCL (11 R130). -/
def scrclOf (s : State) (key : Nat) (c : Crew) : Word :=
  match recordOf s c, s.tctxs.get (tctxKey c.team (coreOf key)) with
  | some r, some t =>
    if r.scratch = 0 then 0xFFFFFFFF#32 else BitVec.ofNat 32 (0x01000000 + coreOf key % 16 * 2 ^ 19 + t.scratch)
  | _, _ => 0xFFFFFFFF#32

/-- The value of a CSR for a lane. -/
def csrValue (s : State) (key : Nat) (c : Crew) (n l : Nat) : Word :=
  let t := c.thread l
  let core := s.core (coreOf key)
  if n = 0x001 then c.fflags.setWidth 32
  else if n = 0x002 then boolWord c.stallchk
  else if n = 0x010 then BitVec.ofNat 32 t.tlbase.toNat
  else if n = 0x011 then BitVec.ofNat 32 (t.tlbase.toNat / 2 ^ 32)
  else if n = 0x012 then t.tlsp
  else if n = 0x013 then ((recordOf s c).map LaunchRecord.tlsize).getD 0
  else if n = 0x020 then scrclOf s key c
  else if n = 0x100 then (core.part (partOf key)).rfpsn
  else if n = 0x101 then BitVec.ofNat 32 (s.context (ctxOf s c)).hbase.toNat
  else if n = 0x102 then BitVec.ofNat 32 ((s.context (ctxOf s c)).hbase.toNat / 2 ^ 32)
  else if n = 0x110 then core.poolMin
  else if n = 0x111 then core.poolCap
  else t.h.getD (n - 0x180) 0#32

/-- CSRR (19 R234). -/
def execCsrr (f : F64) (s : State) : Out :=
  issue (.csrr f) s fun env s =>
    { s := s, writes := env.parts.map fun p => (p.l, [csrValue s env.key env.crew (env.f.mod % 4096) p.l]) }

/-- The operation of CSRW on an old value: write, set bits or clear bits. -/
def csrOp (op : Nat) (old v : Word) : Word := if op = 0 then v else if op = 1 then old ||| v else old &&& ~~~v

/-- The CSRs with a copy per thread. -/
def csrPerThread (n : Nat) : Bool := n = 0x012 || 0x180 ≤ n

/-- A queue's 8-bit field of POOLMIN or POOLCAP (21 R240). -/
def poolField (v : Word) (q : Nat) : Nat := v.toNat / 2 ^ (8 * q) % 256

/-- The minimums sum to at most 256 and no cap is below its minimum (21 R240). -/
def poolOk (mn cap : Word) : Bool :=
  poolField mn 0 + poolField mn 1 + poolField mn 2 + poolField mn 3 ≤ 256 &&
    (List.range 4).all fun q => poolField mn q ≤ poolField cap q

/-- CSRW (19 R234): thread CSRs by lane; the others once, from the lowest participant or from all of them. -/
def execCsrw (f : F64) (s : State) : Out :=
  issue (.csrw f) s fun env s =>
    let n := env.f.mod % 4096
    let op := fieldOf env.f.mod 13 12
    if env.parts.isEmpty then { s := s }
    else if csrPerThread n then
      { s := s.setCrews (s.crews.modify env.key fun c => env.parts.foldl (fun c p =>
          let t := c.thread p.l
          let v := csrOp op (csrValue s env.key env.crew n p.l) (w p.a 0)
          c.setThread p.l (if n = 0x012 then { t with tlsp := v &&& 0xFFFFFFF8#32 } else { t with h := t.h.set (n - 0x180) v })) c) }
    else
      let all := env.parts.foldl (fun a p => a ||| w p.a 0) 0#32
      let v := csrOp op (csrValue s env.key env.crew n 0) (if op = 0 then w ((env.parts.map Part1.a).headD []) 0 else all)
      let core := coreOf env.key
      let k := s.core core
      if (n = 0x110 && !poolOk v k.poolCap) || (n = 0x111 && !poolOk k.poolMin v) then raiseAll env s 0x002
      else if n = 0x001 then { s := s.setCrews (s.crews.modify env.key fun c => { c with fflags := v.setWidth 5 }) }
      else if n = 0x002 then { s := s.setCrews (s.crews.modify env.key fun c => { c with stallchk := v.getLsbD 0 }) }
      else if n = 0x110 then { s := s.setCore core { s.core core with poolMin := v } }
      else { s := s.setCore core { s.core core with poolCap := v } }

/-! ## Steps that end instructions -/

/-- RESULT_WRITE (05 R67, R68; 13 R163): a result whose write clock has come, or a scoreboarded one that is no memory
reply. -/
def execResultWrite (crew seq : Nat) (s : State) : Out :=
  match s.crews.get crew with
  | some c =>
    match c.pend.find? fun p => p.seq = seq && !p.memory && (match p.due with | some d => d ≤ s.clock | none => true) with
    | some p => .next (s.setCrew crew (c.writeBack p))
    | none => .refused (.notEnabled "RESULT_WRITE")
  | none => .refused (.notEnabled "RESULT_WRITE")

/-- MEMORY_REPLY (19 R219): a load's or atomic's reply, once its requests have left Sluice. -/
def execMemoryReply (crew seq : Nat) (s : State) : Out :=
  match s.crews.get crew with
  | some c =>
    match c.pend.find? fun p => p.seq = seq && p.memory && p.lines.isEmpty with
    | some p => .next (s.setCrew crew (c.writeBack p))
    | none => .refused (.notEnabled "MEMORY_REPLY")
  | none => .refused (.notEnabled "MEMORY_REPLY")

/-- SLUICE_SEND (11 R142): an entry whose sectors are all requested, or that is 64 clocks old, or that Sluice needs. -/
def execSluiceSend (core line : Nat) (s : State) : Out :=
  let mine := s.mem.sluice.filter fun e => e.core = core
  match mine.find? fun e => e.line = line with
  | some e =>
    if e.sectors = 0xFF#8 || e.born + 64 ≤ s.clock || 256 ≤ mine.length then
      .next (sendEntries s core fun x => x.line = line)
    else .refused (.notEnabled "SLUICE_SEND")
  | none => .refused (.notEnabled "SLUICE_SEND")

/-- SLEEP_EXPIRE (17 R215): the threads of the first crew with an expired sleep wake past their SLEEP. -/
def execSleepExpire (s : State) : Out :=
  let overNow (t : Thread) : Bool := match t.wait with | .sleep till => till ≤ s.clock | _ => false
  match s.crews.find? fun e => e.2.liveLanes.any fun l => overNow (e.2.thread l) with
  | some (k, c) => .next (wakeLanes s k (c.liveLanes.filter fun l => overNow (c.thread l)) fun _ t => t.pc + 4)
  | none => .refused (.notEnabled "SLEEP_EXPIRE")

end Sys2Proof.Machine
end

