-- ==== Sys2Proof/Machine/Control.lean ====
section
/-! DEFINITION. Control flow and convergence instructions (chapter 17), the return stack (05 R76), REP (07 R92, R93) and
the fate of unassigned encodings (07 R94). -/

namespace Sys2Proof.Machine

/-! ## Branches (17 R203, R204) -/

/-- Every participant jumps. -/
def jumpAll (env : Env) (s : State) (pc : Addr) : Eff := { s := s, jumps := env.parts.map fun p => (p.l, pc) }

/-- The participants that satisfy a test jump; the others move on. -/
def jumpIf (env : Env) (s : State) (pc : Addr) (t : Part1 → Bool) : Eff :=
  { s := s, jumps := (env.parts.filter t).map fun p => (p.l, pc) }

/-- BRA (17 R203). -/
def execBra (f : BR) (s : State) : Out := issue (.bra f) s fun env s => jumpAll env s (target env.is.pc f.d)

/-- BRZ (17 R203). -/
def execBrz (f : BZ) (s : State) : Out :=
  issue (.brz f) s fun env s => jumpIf env s (target env.is.pc f.d) fun p => w p.a 0 = 0#32

/-- BRNZ (17 R203). -/
def execBrnz (f : BZ) (s : State) : Out :=
  issue (.brnz f) s fun env s => jumpIf env s (target env.is.pc f.d) fun p => w p.a 0 ≠ 0#32

/-- The displacement of BCC in halfwords (17 R204). -/
def bccDisp (f : F64) : BitVec 23 := BitVec.ofNat 23 (64 * 64 * (f.mod.toNat / 16) + 64 * f.vc.toNat + f.vd.toNat)

/-- BCC (17 R204). -/
def execBcc (f : F64) (s : State) : Out :=
  issue (.bcc f) s fun env s =>
    let cond (p : Part1) : Bool × Flags := bccCond (f.mod.toNat % 16) (w p.a 0) (w p.b 0)
    { jumpIf env s (target env.is.pc (bccDisp f)) fun p => (cond p).1 with
      flags := env.parts.foldl (fun a p => a ||| (cond p).2) 0#5 }

/-! ## The return stack (05 R76; 17 R205) -/

/-- A 57-bit address as a 64-bit virtual address. -/
def canonical (a : Addr) : Nat := (a.signExtend 64).toNat

/-- What a push or pop of one thread gives. -/
inductive Stacked where
  | done (s : State) (pc : Addr)
  | raise (cause value : Nat)
  | park (s : State) (id ea : Nat)
  deriving DecidableEq, Repr

/-- Changes a thread of a crew. -/
def setThreadOf (s : State) (key l : Nat) (f : Thread → Thread) : State :=
  s.setCrews (s.crews.modify key fun c => c.setThread l (f (c.thread l)))

/-- Pushes a return address for lane l and then jumps to pc (05 R76). -/
def pushReturn (s : State) (key l : Nat) (ret pc : Addr) : Stacked :=
  match s.crews.get key with
  | none => .raise 0x104 0
  | some c =>
    let t := c.thread l
    if t.stack.length < 8 then
      .done (setThreadOf s key l fun t => { t with stack := { addr := ret, poison := false } :: t.stack }) pc
    else
      let size := ((recordOf s c).map LaunchRecord.tlsize).getD 0
      let ea := canonical (t.tlbase + t.tlsp.setWidth 57)
      match t.stack.getLast? with
      | none => .raise 0x104 0
      | some old =>
        if size.toNat < t.tlsp.toNat + 8 then .raise 0x049 ea
        else if old.poison then .raise 0x104 0
        else
          let (s, g) := threadStore s key (ctxOf s c) ea 8 (natBytes 8 old.addr.toNat) true none
          match g with
          | .bytes _ _ _ =>
            .done (setThreadOf s key l fun t =>
              { t with stack := { addr := ret, poison := false } :: t.stack.dropLast, tlsp := t.tlsp + 8 }) pc
          | .raise cause => .raise cause ea
          | .park id => .park s id ea

/-- Pops a return address of lane l (05 R76; 17 R205). -/
def popReturn (s : State) (key l : Nat) : Stacked :=
  match s.crews.get key with
  | none => .raise 0x104 0
  | some c =>
    let t := c.thread l
    match t.stack with
    | e :: rest =>
      if e.poison then .raise 0x104 0
      else if e.addr.getLsbD 0 then .raise 0x005 e.addr.toNat
      else .done (setThreadOf s key l fun t => { t with stack := rest }) e.addr
    | [] =>
      if t.tlsp.toNat < 8 then .raise 0x008 0
      else
        let ea := canonical (t.tlbase + (t.tlsp - 8).setWidth 57)
        let (s, g) := threadLoad s key (ctxOf s c) ea 8 8 false
        match g with
        | .bytes bs _ _ =>
          let a : Addr := BitVec.ofNat 57 (bytesNat bs)
          if a.getLsbD 0 then .raise 0x005 a.toNat
          else .done (setThreadOf s key l fun t => { t with tlsp := t.tlsp - 8 }) a
        | .raise cause => .raise cause ea
        | .park id => .park s id ea

/-- Runs a push or pop for each participant in ascending lane order. -/
def stackLanes (env : Env) (s : State) (f : State → Part1 → Stacked) : Eff :=
  env.parts.foldl (fun (e : Eff) p =>
    match f e.s p with
    | .done s pc => { e with s := s, jumps := e.jumps ++ [(p.l, pc)] }
    | .raise cause value => { e with raised := e.raised ++ [{ lane := p.l, cause, value }] }
    | .park s id ea => { e with s := s, sleeps := e.sleeps ++ [(p.l, .migration id ea)] }) { s := s }

/-- The check of a target in a pair (17 R205). -/
def targetCheck (t : BitVec 64) : Option Nat :=
  if t ≠ (t.setWidth 57).signExtend 64 then some 0x042 else if t.getLsbD 0 then some 0x005 else none

/-- CALL (17 R205). -/
def execCall (f : BR) (s : State) : Out :=
  issue (.call f) s fun env s =>
    stackLanes env s fun s p => pushReturn s env.key p.l (env.is.pc + 4) (target env.is.pc f.d)

/-- CALLR (17 R205): the target is checked before the push. -/
def execCallr (f : V3) (s : State) : Out :=
  issue (.callr f) s fun env s =>
    { stackLanes env s fun s p =>
        match targetCheck (pair64 p.a) with
        | some c => .raise c (pair64 p.a).toNat
        | none => pushReturn s env.key p.l (env.is.pc + 4) ((pair64 p.a).setWidth 57) with
      -- the spill's cause is lower than that of a poisoned target (05 R75)
      overs := overBy ((lanesOf env.is.lanes).map (partAt (Instr.form (.callr f)) env.f env.crew)) fun p =>
        match pushReturn s env.key p.l (env.is.pc + 4) 0 with
        | .raise cause value => some (cause, value)
        | _ => none }

/-- RET (17 R205). -/
def execRet (f : N) (s : State) : Out :=
  issue (.ret f) s fun env s => stackLanes env s fun s p => popReturn s env.key p.l

/-- JMPR (17 R205). -/
def execJmpr (f : V3) (s : State) : Out :=
  issue (.jmpr f) s fun env s =>
    stackLanes env s fun s p =>
      match targetCheck (pair64 p.a) with
      | some c => .raise c (pair64 p.a).toNat
      | none => .done s ((pair64 p.a).setWidth 57)

/-! ## Convergence (17 R206 to R210) -/

def convOf (c : Crew) (n : Nat) : Conv := (c.conv.get n).getD { members := 0, arrived := 0 }

def setConv (s : State) (key n : Nat) (v : Conv) : State :=
  s.setCrews (s.crews.modify key fun c => { c with conv := c.conv.set n v })

/-- CVSET (17 R207). -/
def execCvset (f : CV) (s : State) : Out :=
  issue (.cvset f) s fun env s =>
    handlerBar env s <|
      let n := f.c.toNat
      if env.crew.liveLanes.any fun l => (env.crew.thread l).wait = .conv n then raiseAll env s 0x084
      else { s := setConv s env.key n { members := env.is.lanes, arrived := 0#32 } }

/-- CVWAIT (17 R208): members arrive and sleep, others move on, and the sleepers of every leader among them wake (15
R191); then the release and starvation checks (R210). -/
def execCvwait (f : CV) (s : State) : Out :=
  let key := issueCrew s
  andThen
    (issue (.cvwait f) s fun env s =>
      handlerBar env s <|
        let n := f.c.toNat
        let cv := convOf env.crew n
        let arriving := (partLanes env).filter fun l => inMask cv.members l
        let s := setConv s env.key n { cv with arrived := cv.arrived ||| maskOf arriving }
        { s := wakeElect s env.key (partLanes env), sleeps := arriving.map fun l => (l, .conv n) })
    fun s => starveCheck (releaseCheck s key) key

/-- CVDROP (17 R209); the release check follows. -/
def execCvdrop (f : CV) (s : State) : Out :=
  let key := issueCrew s
  andThen
    (issue (.cvdrop f) s fun env s =>
      let n := f.c.toNat
      let cv := convOf env.crew n
      { s := setConv s env.key n { members := cv.members &&& ~~~env.is.lanes, arrived := cv.arrived &&& ~~~env.is.lanes } })
    fun s => releaseCheck s key

/-! ## Ending, yielding, sleeping and trapping (17 R211, R214 to R216) -/

/-- EXIT (17 R211); in handler mode it ends its threads as HKILL does (27 R316). -/
def execExit (f : N) (s : State) : Out :=
  issue (.exit f) s fun env s => { s := s, ended := partLanes env, killed := env.is.handler }

/-- YIELD (17 R214). The crew stands as having waited also where the ready queue is empty (DESIGN CHOICE, log 15). -/
def execYield (f : N) (s : State) : Out :=
  issue (.yield f) s fun env s =>
    { s := s.setCrews (s.crews.modify env.key fun c => { c with yielded := some s.clock }) }

/-- SLEEP (17 R215). -/
def execSleep (f : I8) (s : State) : Out :=
  issue (.sleep f) s fun env s =>
    { s := s, sleeps := env.parts.map fun p => (p.l, .sleep (s.clock + 16 * (f.imm.toNat + 1))) }

/-- BRK (17 R216). -/
def execBrk (f : I8) (s : State) : Out := issue (.brk f) s fun env s => raiseAll env s 0x180

/-- TRAP (17 R216). -/
def execTrap (f : I8) (s : State) : Out :=
  issue (.trap f) s fun env s => raiseAll env s (0x200 + f.imm.toNat) f.imm.toNat

/-- UNASSIGNED_ENCODING (07 R94): cause 0x001 for every thread of the issue group. -/
def execUnassignedEncoding (long : Bool) (x : BitVec 64) (s : State) : Out :=
  issue (.unassignedEncoding long x) s fun _ s => { s := s }

/-! ## REP (07 R92, R93; 17 R212) -/

/-- The step of a register field in one repetition: 2 for a pair, 4 for a quad run, else 1 (07 R92). -/
def stepOf (u : Use) : Nat :=
  match u with
  | .run 2 2 => 2
  | .run 4 4 => 4
  | _ => 1

/-- Adds k to the n-bit field of a word at bit lo. -/
def addField (x lo n k : Nat) : Nat :=
  let v := x / 2 ^ lo % 2 ^ n
  x - v * 2 ^ lo + (v + k) % 2 ^ n * 2 ^ lo

/-- A G9 target: its v field steps with the vd bit and its group index with the vb bit (07 R92). -/
def isG9 : Instr → Bool
  | .gmov _ | .gset _ => true
  | _ => false

/-- The word of a target, of n bytes, in repetition k (07 R92). -/
def steppedWord (t : Instr) (n x : Nat) (f : RP) (k : Nat) : Nat :=
  let m := t.form
  let fs := t.fields
  if isG9 t then
    let x := if f.d then addField x 11 6 k else x
    if f.b then addField x 17 9 k else x
  else
    let lo (a b : Nat) : Nat := if n = 8 then b else a
    let x := if f.d then addField x (lo 11 13) 6 (k * stepOf m.d) else x
    let x := if f.a then addField x (lo 17 19) 6 (k * stepOf m.a) else x
    if !f.b then x
    else if fs.g then
      let g := fs.gidx + k
      if n = 8 then addField (addField x 25 6 k) 46 3 (g / 64 + 8 - fs.gidx / 64)
      else addField (addField x 23 6 k) 30 1 (g / 64 + 2 - fs.gidx / 64)
    else addField x (lo 23 25) 6 (k * stepOf m.b)

/-- A use names a register, which a step bit may step (07 R92): a mode or displacement in a register field is none. -/
def stepped (u : Use) : Bool :=
  match u with
  | .run _ _ => true
  | _ => false

/-- The vd field names a register: a v register or the seed's group register of a stochastic store (09 R117). -/
def steppedD (m : Form) : Bool := stepped m.d || (m.d = .raw && m.more.isSome)

/-- What a stochastic store's seed has beyond the six bits of its stepped field, in repetition k of a REP (07 R92): t is the
target as its stepped word decodes. -/
def seedUp (f : RP) (t : Instr) (k : Nat) : Nat :=
  if f.d && t.form.d = .raw && t.form.more.isSome && t.fields.vd < k then 64 else 0

/-- A step bit of a REP is set for a field its target does not use (07 R92). -/
def unusedStep (f : RP) (t : Instr) : Bool :=
  let m := t.form
  if isG9 t then f.a
  else (f.d && !steppedD m) || (f.a && !stepped m.a) || (f.b && !t.fields.g && !stepped m.b)

/-- A number that a REP's target names in the last repetition lies beyond its file (07 R92). -/
def pastLast (f : RP) (t : Instr) (nregs : Nat) : Bool :=
  let m := t.form
  let fs := t.fields
  let last := f.n.toNat
  let past (on : Bool) (u : Use) (v : Nat) : Bool :=
    match u with
    | .run n _ => nregs < v + n + (if on then last * stepOf u else 0)
    | .raw => on && 383 < v + last
    | .no => false
  if isG9 t then past f.d Legal.r1 (if m.dst then fs.vd else fs.va) || 383 < fs.gidx + (if f.b then last else 0)
  else past (f.d && steppedD m) m.d fs.vd || past f.a m.a fs.va || past false m.c fs.vc ||
    (if fs.g then m.gmax < fs.gidx + (if f.b then last else 0) + m.grun else past (f.b && stepped m.b) m.b fs.vb)

/-- The cause of a REP unit, the lowest that applies (07 R92 to R94). own: a reserved bit of the REP's own word is 1;
t: what its target's bytes decode to. -/
def repCause (f : RP) (own : Bool) (t : Except DecodeError (Instr × List Byte)) (nregs : Nat) (handler : Bool) :
    Option Nat :=
  let check (t : Instr) (bad : Bool) : Option Nat :=
    let c := t.decodeCause nregs handler
    least [(c = some 0x001, 0x001), (own || f.s ≠ 0 || bad || c = some 0x002 || unusedStep f t, 0x002),
      (c = some 0x003, 0x003), (c = some 0x004 || pastLast f t nregs, 0x004), (!t.repTarget, 0x006)]
  match t with
  | .ok (t, _) => check t false
  | .error (.reservedBits t) => check t true
  | .error (.groupRange t) => check t false
  | .error _ => some 0x002

/-- The target of a REP unit, from its bytes, as it runs in repetition rep, or the unit's cause (07 R92 to R94). -/
def repTargetAt (f : RP) (own : Bool) (bytes : List Byte) (nregs : Nat) (handler : Bool) (rep : Nat) : Except Nat Instr :=
  match repCause f own (decode bytes) nregs handler with
  | some cause => .error cause
  | none =>
    let named (t : Instr) : Except Nat Instr :=
      let k := if rep < f.n.toNat + 1 then rep else 0
      match decode (Decode.leBytes bytes.length (steppedWord t bytes.length (Decode.leNat bytes) f k)) with
      | .ok (t', _) => .ok t'
      | .error e => .error (e.cause nregs handler)
    match decode bytes with
    | .ok (t, _) => named t
    | .error e => named e.named

/-- The fetch of the bytes of an instruction leaves copies of them in the core's instruction cache and sets A (07 R78; 11 R135). The
rest of their line gets no copy, so that a halfword not fetched before is always fetched with its new value (DESIGN CHOICE,
log 14). -/
def noteFetch (s : State) (core ctx : Nat) (pc : Addr) (bs : List (Nat × Byte)) : State :=
  let s := (splitPages 2 (canonical pc) bs.length).foldl (fun s e => noteAccess s core ctx e.1 false) s
  s.setMem { s.mem with icache := bs.foldl (fun m e => m.set (l1Key core e.1) e.2) s.mem.icache }

/-- The first address, from a PC, whose fetch meets a capacity PTE. -/
def fetchPage (s : State) (core ctx : Nat) (pc : Addr) : Nat → Nat
  | 0 => canonical pc
  | n + 1 =>
    match reach s core ctx (canonical pc) .fetch with
    | .capacity _ _ _ => canonical pc
    | _ => fetchPage s core ctx (pc + 1) n

/-- The threads of the issue group park on the migration of the page their instruction lies in (11 R139). -/
def parkFetch (s : State) (is : Issue) (pc : Addr) : State :=
  match s.crews.get is.crew with
  | none => s
  | some c =>
    let core := coreOf is.crew
    let ctx := ctxOf s c
    let ea := fetchPage s core ctx pc 16
    match reach s core ctx ea .fetch with
    | .capacity pte a big =>
      let (s, _) := parkOn s core ctx ea pte a big
      s.setCrews (s.crews.modify is.crew fun c =>
        c.mapThreads (lanesOf is.lanes) fun _ t => { t with wait := .migration (migrationId a big) ea })
    | _ => s

/-- Raises one cause for every thread of the issue group at its PC, before any operand is read (07 R78, R94). -/
def raiseGroup (i : Instr) (is : Issue) (s : State) (cause : Nat) : Out :=
  let value := if 0x040 ≤ cause && cause ≤ 0x04D then canonical is.pc else 0
  .next (finishIssue i is 0 0 .none [] { s := s, raised := (lanesOf is.lanes).map fun l => { lane := l, cause, value } })

/-- Opens a REP unit (07 R92, R93; 17 R212): fetches its target, checks the unit, and arms the target of this repetition
for the step. own: a reserved bit of the REP's own word is 1. A target that cannot be fetched has the words 0 (27 R311;
log 31). -/
def openRep (f : RP) (own : Bool) (is : Issue) (c : Crew) (s : State) : Out :=
  let core := coreOf is.crew
  let ctx := ctxOf s c
  match fetchInstr s core ctx (is.pc + 4) with
  | .error 0 => .next (parkFetch s is (is.pc + 4))
  | .error cause => raiseGroup (.rep f) { is with h5 := 0, h6 := 0 } s cause
  | .ok bs =>
    let bytes := bs.map Prod.snd
    let s := noteFetch s core ctx (is.pc + 4) bs
    let ws := wordsOf bytes
    let is' := { is with count := f.n.toNat + 1, unit := true, next := is.pc + 4 + BitVec.ofNat 57 bytes.length
                         h5 := ws.1, h6 := ws.2 }
    match repTargetAt f own bytes c.nregs is.handler is.rep with
    | .error cause => raiseGroup (.rep f) is' s cause
    | .ok t =>
      let k := if is.rep < f.n.toNat + 1 then is.rep else 0
      .next (s.setCur (some { is' with target := some t, seedUp := seedUp f t k }))

/-- REP (07 R92, R93; 17 R212). -/
def execRep (f : RP) (s : State) : Out :=
  match issuing s with
  | none => .fault .noIssueGroup
  | some (is, c) => openRep f false is c s

end Sys2Proof.Machine
end

