-- ==== Sys2Proof/Machine/Handler.lean ====
section
/-! DEFINITION. Leaving a handler, escalation and its resumption (19 R236; 27 R313 to R319). -/

namespace Sys2Proof.Machine

/-! ## The resume point (27 R313) -/

/-- What the resume point of a thread is found to be. -/
inductive Resume where
  | at' (pc : Addr) (index : Nat)
  /-- the length at p could not be fetched -/
  | fault (cause : Nat)
  | park (ea : Nat)
  deriving DecidableEq, Repr

/-- The count and length of the REP unit at p, one whose own word raises 0x002 too, or 0 and the length of the plain
instruction there. -/
def unitAt (s : State) (core ctx : Nat) (p : Addr) : Except Nat (Nat × Nat) :=
  match fetchInstr s core ctx p with
  | .error c => .error c
  | .ok bs =>
    let unit (f : RP) : Except Nat (Nat × Nat) :=
      match fetchInstr s core ctx (p + 4) with
      | .error c => .error c
      | .ok t => .ok (f.n.toNat + 1, 4 + t.length)
    match decode (bs.map Prod.snd) with
    | .ok (.rep f, _) | .error (.reservedBits (.rep f)) => unit f
    | _ => .ok (0, bs.length)

/-- The resume point of HRET from p and index i (27 R313). -/
def resumePoint (s : State) (core ctx : Nat) (p : Addr) (i : Nat) (skip : Bool) : Resume :=
  match unitAt s core ctx p with
  | .error 0 => .park (fetchPage s core ctx p 16)
  | .error c => .fault c
  | .ok (n, len) =>
    let i := if i < n then i else 0
    if !skip then .at' p i
    else if 0 < n && i + 1 < n then .at' p (i + 1)
    else .at' (p + BitVec.ofNat 57 len) 0

/-- HRET (19 R236; 27 R313 to R315): each thread returns to its resume point, or enters again with the lowest held code;
the release and starvation checks follow. Threads of a crew whose state is lost raise 0x104 again (27 R321). -/
def execHret (f : F64) (s : State) : Out :=
  let key := issueCrew s
  let o := issue (.hret f) s fun env s =>
    let core := coreOf env.key
    let ctx := ctxOf s env.crew
    let cx := s.context ctx
    let skip := f.mod.getLsbD 0
    let rs := (partLanes env).map fun l =>
      let t := env.crew.thread l
      (l, t, resumePoint s core ctx (recordedPc t) (recordedIndex t) skip)
    let parked := rs.filterMap fun (l, _, r) => match r with | .park ea => some (l, ea) | _ => none
    let going := rs.filter fun (_, _, r) => match r with | .park _ => false | _ => true
    -- the resume point of each thread that goes on, with the cause it holds
    let points := going.map fun (l, t, r) =>
      match r with
      | .at' pc i => (l, t, pc, i, if pc.getLsbD 0 then some 0x005 else none)
      | .fault c => (l, t, recordedPc t, recordedIndex t, some c)
      | .park _ => (l, t, recordedPc t, recordedIndex t, none)
    let c := points.foldl (fun (c : Crew) e => match e.2.2.2.2 with | some code => c.hold code env.is.pc | none => c) env.crew
    let s := parked.foldl (fun s e => match reach s core ctx e.2 .fetch with
      | .capacity pte a big => (parkOn s core ctx e.2 pte a big).1
      | _ => s) s
    let id (ea : Nat) : Nat := match reach s core ctx ea .fetch with
      | .capacity _ a big => migrationId a big
      | _ => 0
    let sleeps := parked.map fun (l, ea) => (l, Wait.resuming (id ea) ea)
    if points.isEmpty then { s := s, sleeps := sleeps }
    else
      match c.chain cx.hbase (points.map fun (l, t, pc, i, _) => (l, t, pc, i)) with
      | none =>
        { s := s, sleeps := sleeps
          moves := points.map fun (l, t, pc, i, _) => (l, { t with pc := pc, rep := i, handler := false }) }
      | some (c, moves) => { s := s.setCrew env.key c, sleeps, moves }
  let again (s' : State) : State :=
    match s.crews.get key, s'.crews.get key with
    | some c, some c' =>
      if c'.lost then
        raiseWaiters s' key ((c'.liveLanes.filter fun l => (c.thread l).handler && !(c'.thread l).handler).map fun l =>
          { lane := l, cause := 0x104 })
      else s'
    | _, _ => s'
  andThen o fun s' => starveCheck (releaseCheck (again s') key) key

/-- HESC (19 R236; 27 R317): writes the escalation entry and keeps the threads parked; with a full ring it does not
issue. -/
def execHesc (f : F64) (s : State) : Out :=
  issue (.hesc f) s fun env s =>
    let ctx := ctxOf s env.crew
    match env.parts with
    | [] => { s := s }
    | p :: _ =>
      if evFull (s.context ctx) then { s := s, hold := true }
      else
        let e := sleepOn env s .escalating
        let id := s.serial
        match e.s.sleepers.get id with
        | some sl => { e with s := escalate e.s ctx id sl env.is.pc.toNat (w p.a 0).toNat false }
        | none => e

/-- HKILL (19 R236). -/
def execHkill (f : F64) (s : State) : Out :=
  issue (.hkill f) s fun env s => { s := s, ended := partLanes env, killed := true }

/-! ## Resuming an escalation (27 R319) -/

/-- What the release of a resume carries: a signature of all ones, and no scratchpad write (11 R153; 27 R319). -/
def resumeCarried : Carried := { sig := BitVec.allOnes 512, know := [] }

/-- Resumes or kills the threads of an escalation. Threads that escalated with HEN = 0 leave handler mode at their
instruction, so that a held bitmap with no handler thread left is discarded (27 R316) before a crew whose state is lost raises
0x104 again (27 R321). The woken threads acquire what the write releases, with a signature of all ones (R319; 11 R153). -/
def applyResume (s : State) (id : Nat) (sl : Sleeper) (direct kill : Bool) (val : Word) : State :=
  let ls := sleeperLanes s id sl
  if kill then endThreads (s.setSleepers (s.sleepers.erase id)) sl.crew ls true
  else if direct then
    let s := s.setSleepers (s.sleepers.erase id)
    match s.crews.get sl.crew with
    | none => s
    | some c =>
      let s := s.setCrew sl.crew
        ((retable c (c.mapThreads ls fun _ t => { t with wait := .awake, handler := false })).acquire resumeCarried)
      let s := discardHeld s sl.crew
      if c.lost then raiseWaiters s sl.crew (ls.map fun l => { lane := l, cause := 0x104 }) else s
  else
    let s := s.setCrews (s.crews.modify sl.crew fun c =>
      (c.mapThreads ls fun _ t => { t with h := t.h.set 11 val }).acquire resumeCarried)
    wakeSleeper s id

/-- The context a sleeper's crew belongs to. -/
def sleeperCtx (s : State) (sl : Sleeper) : Option Nat := (s.crews.get sl.crew).map fun c => ctxOf s c

/-- ESCALATION_RESUME (27 R319): a write of CTXRES. -/
def execEscalationResume (ctx : Nat) (v : BitVec 64) (s : State) : Out :=
  let idx : Word := v.setWidth 32
  let kill := v.getLsbD 32
  let cx := { s.context ctx with resIdx := idx, resKill := kill }
  let s := s.setContext ctx cx
  let names (sl : Sleeper) : Option Bool :=
    match sl.what with
    | .escalated n d => if n = idx.toNat then some d else none
    | _ => none
  byHart "ESCALATION_RESUME" s (.next (
    match s.sleepers.find? fun e => sleeperCtx s e.2 = some ctx && (names e.2).isSome with
    | some (id, sl) => applyResume s id sl ((names sl).getD false) kill cx.rval
    | none =>
      if (cx.savedSleepers.any fun e => (names e.2).isSome) && cx.held.length < 64 &&
          !(cx.held.any fun h => h.index = idx.toNat) then
        s.setContext ctx { cx with held := cx.held ++ [{ index := idx.toNat, kill := kill, val := cx.rval }] }
      else s))

/-- ESCALATION_ENTRY_WRITE (27 R317): the oldest waiting escalation of the first context with room writes its entry. -/
def execEscalationEntryWrite (s : State) : Out :=
  match (List.range 16).find? fun n => !(s.context n).waiting.isEmpty && !evFull (s.context n) with
  | some n => .next (drainEscalations s n 1)
  | none => .refused (.notEnabled "ESCALATION_ENTRY_WRITE")

end Sys2Proof.Machine
end

