-- ==== Sys2Proof/Machine/Engine.lean ====
section
/-! DEFINITION. The machinery of engine commands (21 R237 to R245): the command pool, acceptance, tokens, completion words
and publication, and the rings (21 R256 to R259). -/

namespace Sys2Proof.Machine

/-! ## The command pool (21 R239) -/

/-- The entries a queue of a core holds, those of accepted commands whose checks are not over included. -/
def usedBy (c : Core) (q : Nat) : Nat :=
  ((c.commands.filter fun x => x.queue = q).map Command.entries).foldl (· + ·) 0 +
    ((c.waiters.filter fun x => x.queue = q && x.accepted.isSome).map Waiter.entries).foldl (· + ·) 0

/-- A command of e entries can be accepted into queue q (21 R239). -/
def poolFits (c : Core) (q e : Nat) : Bool :=
  let used := (List.range 4).map (usedBy c)
  let total := used.foldl (· + ·) 0
  let owed := ((List.range 4).filter fun p => p ≠ q).foldl (fun n p => n + (8 * poolField c.poolMin p - nth used p)) 0
  nth used q + e ≤ 8 * poolField c.poolCap q && total + e + owed ≤ 2048

def tokenOf (c : Crew) (t : Nat) : Token := (c.tokens.get t).getD .idle

/-- The state of the token a command names, idle where it names none. -/
def tokenState (s : State) (crew : Nat) (t : Option Nat) : TokState :=
  match t, s.crews.get crew with
  | some t, some c => (tokenOf c t).state
  | _, _ => .idle

/-- A token is pending in a crew. -/
def tokenPending (s : State) (crew : Nat) (t : Option Nat) : Bool := tokenState s crew t = .pending

/-- Changes a token of a crew. -/
def changeToken (s : State) (crew t : Nat) (f : Token → Token) : State :=
  s.setCrews (s.crews.modify crew fun c => { c with tokens := c.tokens.set t (f (tokenOf c t)) })

def setToken (s : State) (crew t : Nat) (x : Token) : State := changeToken s crew t fun _ => x

/-- The place of a crew's group at a PC among the waiting commands. -/
def waiterAt (s : State) (crew : Nat) (pc : Addr) : Option Waiter :=
  (s.core (coreOf crew)).waiters.find? fun x => x.crew = crew && x.pc = pc

/-- The oldest command of a queue that waits to be accepted (21 R239). -/
def nextWaiter (k : Core) (q : Nat) : Option Waiter := k.waiters.find? fun y => y.queue = q && y.accepted.isNone

/-- Whether the crew's group at a PC may have its command accepted now: it has been, or no earlier group of the queue
waits, the pool has room and its token is not pending. -/
def mayAccept (s : State) (crew : Nat) (pc : Addr) (q e : Nat) (t : Option Nat) : Bool :=
  let k := s.core (coreOf crew)
  match waiterAt s crew pc with
  | some x => x.accepted.isSome || (nextWaiter k q = some x && poolFits k q e && !tokenPending s crew t)
  | none => (nextWaiter k q).isNone && poolFits k q e && !tokenPending s crew t

/-- Removes a crew's place among the waiting commands. -/
def dropWaiter (s : State) (crew : Nat) (pc : Addr) : State :=
  let core := coreOf crew
  let k := s.core core
  s.setCore core { k with waiters := k.waiters.filter fun x => !(x.crew = crew && x.pc = pc) }

/-- Records or changes a crew's place among the waiting commands. -/
def putWaiter (s : State) (w : Waiter) : State :=
  let core := coreOf w.crew
  let k := s.core core
  if k.waiters.any fun x => x.crew = w.crew && x.pc = w.pc then
    s.setCore core { k with waiters := k.waiters.map fun x => if x.crew = w.crew && x.pc = w.pc then w else x }
  else s.setCore core { k with waiters := k.waiters ++ [w] }

/-- A command is accepted: it takes its place in the order of acceptance, and its token becomes pending (21 R239, R241,
R243). -/
def acceptWaiter (s : State) (x : Waiter) : State :=
  let s' := putWaiter (s.setSerial (s.serial + 1)) { x with accepted := some s.serial, was := tokenState s x.crew x.token }
  match x.token with
  | some t => changeToken s' x.crew t fun k => { k with state := .pending }
  | none => s'

/-- COMMAND_ACCEPT (21 R239): the oldest waiting command of a queue is accepted once the pool and its token allow. -/
def execCommandAccept (core queue : Nat) (s : State) : Out :=
  match nextWaiter (s.core core) queue with
  | some x =>
    if poolFits (s.core core) queue x.entries && !tokenPending s x.crew x.token then .next (acceptWaiter s x)
    else .refused (.notEnabled "COMMAND_ACCEPT")
  | none => .refused (.notEnabled "COMMAND_ACCEPT")

/-- A command accepted before the serial given has not been posted yet (21 R241). -/
def owedFirst (k : Core) (q serial : Nat) : Bool :=
  k.waiters.any fun x => x.queue = q && (match x.accepted with | some n => n < serial | none => false)

/-! ## Tokens (21 R243, R244) -/

/-- Wakes the threads that wait for a token that is no longer pending: an acquire that synchronises with the publication
(11 R154), or the failing command's cause with its fault value (27 R311). -/
def serveToken (s : State) (crew t : Nat) : State :=
  match s.crews.get crew with
  | none => s
  | some c =>
    let tok := tokenOf c t
    if tok.state = .pending then s
    else
      (sleepersWhere s fun sl => sl.crew = crew && (match sl.what with | .token n => n = t | _ => false)).foldl
        (fun s e => if tok.state = .failed then raiseSleeper s e.1 tok.cause tok.ea
          else wakeSleeper (acquireSig s crew tok.carried) e.1) s

/-- TOKWAIT (21 R244). -/
def execTokwait (f : F64) (s : State) : Out :=
  issue (.tokwait f) s fun env s =>
    let tok := tokenOf env.crew (f.mod.toNat % 16)
    if env.parts.isEmpty then { s := s }
    else if tok.state = .pending then sleepOn env s (.token (f.mod.toNat % 16))
    else if tok.state = .failed then raiseAll env s tok.cause tok.ea
    else { s := acquireSig s env.key tok.carried }

/-- The code of a token's state (21 R243). -/
def TokState.code : TokState → Nat
  | .idle => 0
  | .pending => 1
  | .complete => 2
  | .failed => 3

/-- TOKTEST (21 R244). -/
def execToktest (f : F64) (s : State) : Out :=
  issue (.toktest f) s fun env s =>
    let tok := tokenOf env.crew (f.mod.toNat % 16)
    let s := if tok.state = .complete || tok.state = .failed then acquireSig s env.key tok.carried else s
    writeAll env s [BitVec.ofNat 32 (tok.state.code + 256 * tok.status)]

/-! ## Posting a command (21 R237 to R239) -/

/-- What the checks that follow acceptance give. -/
inductive Prepared where
  | work (w : Work)
  | bad (cause value : Nat)
  /-- a read met a capacity PTE and waits for its migration -/
  | page (pte : BitVec 64) (pteAt : Nat) (big : Bool) (ea : Nat)
  deriving DecidableEq, Repr

/-- What identifies a command before its checks: queue, entries, token, completion word, scope and AFTER. -/
structure Present where
  queue : Nat
  entries : Nat
  token : Option Nat
  word : Option WordAt
  scope : Nat
  after : Bool
  /-- the ring it names (21 R249, R254) -/
  ring : Option Nat := none
  deriving DecidableEq, Repr

/-- The ring an engine command names, in its vb field (21 R249, R254). -/
def ringIn (i : Instr) : Option Nat :=
  match i with
  | .tcopy f => if f.mod.getLsbD 14 then some f.vb.toNat else none
  | .bcopy f => if f.mod.getLsbD 11 then some f.vb.toNat else none
  | _ => none

/-- The fields that engine commands share (21 R238). The implicit release of an SJOB is at system scope (11 R154). -/
def presentOf (f : Fields) (p : Part1) (queue entries : Nat) (ring : Option Nat := none) : Present :=
  { queue, entries, token := if modBit f 4 then some (fieldOf f.mod 3 0) else none
    word := if modBit f 5 then some { addr := pair64 p.d, seq := (pair64 p.d 2).setWidth 48 } else none
    scope := if queue = 2 then 6 else fieldOf f.mod 8 6, after := modBit f 12, ring }

/-- The place of a group that presents a command, before its acceptance (21 R239). -/
def presentWaiter (env : Env) (pr : Present) : Waiter :=
  { crew := env.key, pc := env.is.pc, lanes := env.is.lanes, queue := pr.queue, entries := pr.entries, token := pr.token
    accepted := none, was := .idle, page := none, ring := pr.ring }

/-- The group's command waits to be accepted, where it has not been put among the waiting ones before. -/
def awaitAcceptance (s : State) (env : Env) (pr : Present) : State :=
  match waiterAt s env.key env.is.pc with
  | some _ => s
  | none => putWaiter s (presentWaiter env pr)

/-- The acceptance of a command at its issue, unless it has been accepted while it waited. -/
def enterPool (s : State) (env : Env) (pr : Present) : State :=
  match waiterAt s env.key env.is.pc with
  | some x => if x.accepted.isSome then s else acceptWaiter s x
  | none => acceptWaiter s (presentWaiter env pr)

/-- A command enters its queue in the order of acceptance. -/
def insertCommand (c : Command) : List Command → List Command
  | [] => [c]
  | x :: xs => if c.serial < x.serial then c :: x :: xs else x :: insertCommand c xs

/-- Posts an accepted command: it enters its queue. Its reads follow the scratchpad writes that its issuing thread's crew
knows (11 R154). -/
def postCommand (s : State) (env : Env) (lane : Nat) (pr : Present) (w : Work) : State :=
  let core := coreOf env.key
  let serial := ((waiterAt s env.key env.is.pc).bind Waiter.accepted).getD s.serial
  let s := dropWaiter s env.key env.is.pc
  let k := s.core core
  let c : Command :=
    { serial, queue := pr.queue, entries := pr.entries, ctx := ctxOf s env.crew, team := env.crew.team
      crew := env.key, lane, token := pr.token, word := pr.word, scope := pr.scope, after := pr.after, claimed := none
      started := false, plan := none, listed := [], answered := [], asked := [], tags := [], bags := [], rows := [], till := 0, charged := 0
      heads := [], know := (releaseSig s env.key pr.scope [lane]).know, reply := none, result := none, signers := [], work := w }
  s.setCore core { k with commands := insertCommand c k.commands }

/-- A check of an accepted command fails: its entries are free and its token keeps the state it had (21 R252). -/
def refuseCommand (s : State) (env : Env) : State :=
  let s' := forgetUnread (dropWaiter s env.key env.is.pc) (.check env.key env.is.pc.toNat)
  match waiterAt s env.key env.is.pc with
  | some { token := some t, accepted := some _, was, .. } =>
    serveToken (changeToken s' env.key t fun k => { k with state := was }) env.key t
  | _ => s'

/-- Waits for a migration inside an issue (21 R252): the command keeps its acceptance and no thread parks. -/
def holdForPage (s : State) (env : Env) (pte : BitVec 64) (a : Nat) (big : Bool) (ea : Nat) : Eff :=
  let core := coreOf env.key
  let s := startMigration s (faultDie s core) (ctxOf s env.crew) ea pte a big (some (.check env.key env.is.pc.toNat))
  { s := match waiterAt s env.key env.is.pc with
      | some x => putWaiter s { x with page := some (migrationId a big) }
      | none => s
    hold := true }

/-- The issue of an engine command (21 R237 to R239, R252): the checks before acceptance, acceptance or a place among the
waiting commands, the implicit release, the checks after acceptance, and the post. A command that is refused has released
nothing (00 R8). -/
def engineCommand (i : Instr) (s : State) (queue entries : Nat) (pre : Env → State → Part1 → Option (Nat × Nat))
    (make : Env → State → Part1 → Prepared) : Out :=
  issue i s fun env s =>
    match env.parts with
    | [] => { s := s }
    | p :: _ =>
      let pr := presentOf env.f p queue entries (ringIn i)
      let wordBad : Option (Nat × Nat) := match pr.word with
        | some x => if x.addr.toNat % 8 ≠ 0 then some (0x040, x.addr.toNat) else none
        | none => none
      match lower wordBad (pre env s p) with
      | some (cause, value) => raiseAll env (refuseCommand s env) cause value
      | none =>
        if !mayAccept s env.key env.is.pc queue entries pr.token then { s := awaitAcceptance s env pr, hold := true }
        else
          let held := enterPool s env pr
          let s := releaseAt held env.key pr.scope
          match make env s p with
          | .work x => { s := forgetUnread (postCommand s env p.l pr x) (.check env.key env.is.pc.toNat) }
          | .bad cause value => raiseAll env (refuseCommand held env) cause value
          | .page pte a big ea =>
            if unreadFor s (.check env.key env.is.pc.toNat) a big then raiseAll env (refuseCommand held env) 0x042 ea
            else holdForPage held env pte a big ea

/-! ## Rings (21 R256 to R259) -/

def ringOf (s : State) (core team n : Nat) : Option Ring :=
  match (s.core core).rings.get n with
  | some r => if r.team = team then some r else none
  | none => none

def setRing (s : State) (core n : Nat) (r : Ring) : State :=
  let k := s.core core
  s.setCore core { k with rings := k.rings.set n r }

/-- The scratch address of slot j (21 R256). -/
def slotAddr (r : Ring) (j : Word) : Word := r.base + BitVec.ofNat 32 (r.size * (j.toNat % 2 ^ r.log))

/-- Hands filled slots to the sleeping readers of a ring, in the order in which they began to wait; each acquires what the
ring's releases carry (21 R259). -/
def serveRing (s : State) (core n : Nat) : Nat → State
  | 0 => s
  | fuel + 1 =>
    match (s.core core).rings.get n with
    | none => s
    | some r =>
      if r.fill = r.acq then s
      else
        let waiting := sleepersWhere s fun sl => sameTeamCore s r.team core sl &&
          (match sl.what with | .ringAcq m _ => m = n | _ => false)
        match waiting with
        | [] => s
        | (id, sl) :: _ =>
          match sl.what with
          | .ringAcq _ dst =>
            let s := acquireSig (setRing s core n { r with acq := r.acq + 1 }) sl.crew r.carried
            serveRing (finishSleeper s id dst (fun _ => [slotAddr r r.acq]) 1) core n fuel
          | _ => s

/-! ## Completion words and publication (03 R45, R46; 21 R241, R242) -/

/-- A completion word (03 R45). -/
def completionWord (identity status : Nat) (seq : BitVec 48) : Nat := identity * 2 ^ 56 + status * 2 ^ 48 + seq.toNat

/-- Cause 0x141 for a dropped completion or bitmap write, with the job queue concerned (03 R46; 27 R318). -/
def reportDropped (s : State) (ctx team : Nat) : State :=
  let q := ((s.launchOf team).map fun l => l.record.jobq.toNat).getD 0
  contextEvent s ctx 0x141 0 0 q (((s.teams.get team).map Team.index).getD 0)

/-- What the release of an engine's publication carries (11 R154): what happened before its command, and its own
scratchpad writes. Its signature is all ones, as R153 allows. -/
def publishSig (s : State) (core : Nat) (c : Command) : Carried :=
  { sig := BitVec.allOnes 512, know := c.know.set (engineWriter core c.queue) s.free }

/-- Writes a completion word at its virtual address, a release that carries what is given, or drops it and reports so. The
flag says that it was dropped. -/
def writeWord (s : State) (who : Agent) (core ctx team : Nat) (x : WordAt) (identity status : Nat)
    (carried : Carried) : State × Bool :=
  match engineWrite s who core ctx x.addr.toNat (natBytes 8 (completionWord identity status x.seq)) with
  | (s, .bytes _ _ pa) => (carry s carried pa, false)
  | _ => (reportDropped s ctx team, true)

/-- The statuses after which a Millrace token has failed (21 R242). -/
def failedStatus (n : Nat) : Bool := n = 1 || n = 5 || n = 6

/-- Removes a command from its core. -/
def removeCommand (s : State) (core serial : Nat) : State :=
  let k := s.core core
  s.setCore core { k with commands := k.commands.filter fun x => x.serial ≠ serial }

def updateCommand (s : State) (core serial : Nat) (f : Command → Command) : State :=
  let k := s.core core
  s.setCore core { k with commands := k.commands.map fun x => if x.serial = serial then f x else x }

/-- The ring a command fills. -/
def ringOfWork : Work → Option Nat
  | .tcopy _ _ _ _ _ _ (.ring n) => some n
  | .bcopy _ (.ring n) _ => some n
  | _ => none

/-- Publishes a command (21 R241, R242): its word, its token, its ring slot and its entries; then those that waited for
them go on. cause and ea are what a failed token raises. -/
def publish (s : State) (core : Nat) (c : Command) (identity status cause ea : Nat) (failed : Bool) : State :=
  let carried := publishSig s core c
  let (s, dropped) := match c.word with
    | some x => writeWord s (.command c.serial) core c.ctx c.team x identity status carried
    | none => (s, false)
  let s := forgetUnread (removeCommand s core c.serial) (.command c.serial)
  let s := match c.token with
    | some t =>
      serveToken (setToken s c.crew t
        { state := if failed || dropped then .failed else .complete, status
          cause := if failed then cause else 0x0C9, ea := if failed then ea else 0, carried }) c.crew t
    | none => s
  match ringOfWork c.work with
  | some n =>
    match (s.core core).rings.get n with
    | some r =>
      if c.claimed.isSome then
        serveRing (setRing s core n { r with fill := r.fill + 1, carried := r.carried.join carried }) core n 200
      else s
    | none => s
  | none => s

/-- The capacity page, if any, that writing a command's word would meet: its migration must end first (21 R242). -/
def wordPage (s : State) (core : Nat) (c : Command) : Option (Nat × BitVec 64 × Nat × Bool) :=
  match c.word with
  | none => none
  | some x =>
    match (engineMeet s core c.ctx x.addr.toNat 8).of s (.command c.serial) with
    | .park p a b => some (x.addr.toNat, p, a, b)
    | _ => none

/-- A migration of a PTE is outstanding on a die. -/
def migrating (s : State) (die pteAt : Nat) (big : Bool) : Bool :=
  (s.faultUnit die).migrations.any fun m => m.pte = migrationId pteAt big && m.done.isNone

/-- An agent other than a thread already waits for the migration of a PTE on a die. -/
def agentWaits (s : State) (die pteAt : Nat) (big : Bool) (who : Agent) : Bool :=
  (s.faultUnit die).migrations.any fun m => m.pte = migrationId pteAt big && m.done.isNone && m.agents.contains who

/-- The oldest command of a queue of a core, once it has been posted (21 R241). -/
def headCommand (s : State) (core queue : Nat) : Option Command :=
  match (s.core core).commands.find? fun c => c.queue = queue with
  | some c => if owedFirst (s.core core) queue c.serial then none else some c
  | none => none

/-! ## Ring instructions (21 R257, R259) -/

/-- A command that names ring n has been accepted and has not published (21 R239, R257). -/
def ringNamed (s : State) (core n : Nat) : Bool :=
  (s.core core).commands.any (fun c => ringOfWork c.work = some n) ||
    (s.core core).waiters.any fun x => x.accepted.isSome && x.ring = some n

/-- RINGSET (21 R257), with the operands of the lowest participant. -/
def execRingset (f : F64) (s : State) : Out :=
  issue (.ringset f) s fun env s =>
    match env.parts with
    | [] => { s := s }
    | p :: _ =>
      let n := f.mod.toNat % 16
      let log := fieldOf f.mod.toNat 7 4
      let core := coreOf env.key
      let team := env.crew.team
      let base := w p.a 0
      let z := (w p.b 0).toNat
      let inside := (ownPad s team core base.toNat (z * 2 ^ log)).isSome
      let shapeBad := z % 16 ≠ 0 || z < 16 || 2 ^ 19 < z || base.toNat % 16 ≠ 0
      let busy := match (s.core core).rings.get n with
        | none => false
        | some r => if r.team = team then r.claim ≠ r.rel || ringNamed s core n else (s.teams.get r.team).isSome
      match least [(!inside, 0x046), (shapeBad, 0x0C0), (busy, 0x0C7)] with
      | some cause => raiseAll env s cause (if cause = 0x046 then base.toNat else 0)
      | none => { s := setRing s core n { team, base, size := z, log, claim := 0, fill := 0, acq := 0, rel := 0
                                          carried := .none } }

/-- RINGACQ (21 R259). -/
def execRingacq (f : F64) (s : State) : Out :=
  issue (.ringacq f) s fun env s =>
    let n := f.mod.toNat % 16
    let core := coreOf env.key
    if env.parts.isEmpty then { s := s }
    else
      match ringOf s core env.crew.team n with
      | none => raiseAll env s 0x0C7
      | some r =>
        if r.fill ≠ r.acq then
          writeAll env (acquireSig (setRing s core n { r with acq := r.acq + 1 }) env.key r.carried) [slotAddr r r.acq]
        else if f.mod.getLsbD 4 then writeAll env s [0xFFFFFFFF#32]
        else sleepOn env s (.ringAcq n f.vd.toNat)

/-- RINGREL (21 R259). -/
def execRingrel (f : F64) (s : State) : Out :=
  issue (.ringrel f) s fun env s =>
    let n := f.mod.toNat % 16
    let core := coreOf env.key
    if env.parts.isEmpty then { s := s }
    else
      match ringOf s core env.crew.team n with
      | none => raiseAll env s 0x0C7
      | some r =>
        if r.acq = r.rel then raiseAll env s 0x0C7
        else
          { s := setRing (releaseAt s env.key 2) core n
              { r with rel := r.rel + 1, carried := r.carried.join (releaseSig s env.key 2 env.lanes) } }

/-- The first copy command of a core that waits for a slot of a ring, if it may start and the ring has one (21 R241,
R258): the commands before it in queue COPY have claimed theirs, and an AFTER command starts at the head of the queue. -/
def claimable (s : State) (core : Nat) : Option (Command × Nat × Ring) :=
  let copies := (s.core core).commands.filter fun c => c.queue = 0
  let waits (c : Command) : Bool := (ringOfWork c.work).isSome && c.claimed.isNone
  match copies.find? waits with
  | none => none
  | some c =>
    if owedFirst (s.core core) 0 c.serial || copies.tail.any fun x => x.serial ≤ c.serial && x.after then none
    else
      match ringOfWork c.work with
      | none => none
      | some n =>
        match (s.core core).rings.get n with
        | some r => if r.claim - r.rel = BitVec.ofNat 32 (2 ^ r.log) then none else some (c, n, r)
        | none => none

/-- RING_SLOT_CLAIM (21 R258): the first ring copy that waits claims a free slot. -/
def execRingSlotClaim (s : State) : Out :=
  match s.cores.findSome? fun e => (claimable s e.1).map fun x => (e.1, x) with
  | some (core, c, n, r) =>
    .next (updateCommand (setRing s core n { r with claim := r.claim + 1 }) core c.serial fun x =>
      { x with claimed := some r.claim, know := joinKnow x.know r.carried.know })
  | none => .refused (.notEnabled "RING_SLOT_CLAIM")

end Sys2Proof.Machine
end

