-- ==== Sys2Proof/Machine/Layout.lean ====
section
/-! DEFINITION. Layout records, tile forms (21 R246 to R251; 09 R125 to R127) and the byte plans by which the copies of
Millrace are performed. -/

namespace Sys2Proof.Machine

/-! ## Layout records (21 R246 to R248) -/

/-- n bytes at an offset of a record, as a number. -/
def recAt (bs : List Byte) (o n : Nat) : Nat := bytesNat ((bs.drop o).take n)

/-- The fields of a layout record. -/
def Layout.parse (bs : List Byte) : Layout :=
  { fmt := recAt bs 0 1 % 16, scl := recAt bs 0 1 / 16 % 4, ndim := recAt bs 1 1 % 8, swz := recAt bs 2 1 % 4
    pair := recAt bs 3 1 % 2 = 1, tile0 := recAt bs 4 2, tile1 := recAt bs 6 2
    base := BitVec.ofNat 64 (recAt bs 8 8), sbase := BitVec.ofNat 64 (recAt bs 0x10 8)
    size := (List.range 5).map fun d => recAt bs (0x18 + 4 * d) 4
    stride := 0 :: (List.range 4).map fun d => recAt bs (0x2C + 4 * d) 4, sstride := recAt bs 0x3C 4 }

/-- Bytes of an element: 0 stands for the half byte of H4 (21 R246). -/
def elemSize (fmt : Nat) : Nat := if fmt = 11 then 0 else fmtBits fmt / 8

/-- A layout record breaks R248. A nonzero SBASE where R246 has it 0 makes it invalid (DESIGN CHOICE, log 101). -/
def layoutBad (bs : List Byte) : Bool :=
  let l := Layout.parse bs
  let z := elemSize l.fmt
  (recAt bs 0 1) / 64 ≠ 0 || (recAt bs 1 1) / 8 ≠ 0 || (recAt bs 2 1) / 4 ≠ 0 || (recAt bs 3 1) / 2 ≠ 0 ||
    l.base.toNat / 2 ^ 57 ≠ 0 || l.sbase.toNat / 2 ^ 57 ≠ 0 || 13 ≤ l.fmt || l.scl = 3 || 2 ≤ l.swz ||
    ((l.scl = 0) = isScaled l.fmt) || (l.scl = 1 && 2 < l.ndim) || l.ndim = 0 || 5 < l.ndim || l.tile0 = 0 || l.tile1 = 0 ||
    ((List.range 5).any fun d => if d < l.ndim then nth l.size d = 0 else nth l.size d ≠ 0 || nth l.stride d ≠ 0) ||
    (l.pair && (l.fmt ≠ 9 || l.scl ≠ 0 || l.sbase.toNat % 8 ≠ 0)) ||
    (!l.pair && l.scl ≠ 1 && l.sbase ≠ 0) || (if l.scl = 2 then l.base.toNat % 2 ≠ 0 else z ≠ 0 && l.base.toNat % z ≠ 0)

/-- The extent of a dimension, 1 for one the tensor does not have (log 20). -/
def Layout.extent (l : Layout) (d : Nat) : Nat := if d < l.ndim then nth l.size d else 1

/-- A 57-bit address from an exact sum. -/
def va57 (a : Nat) : Nat := canonical (BitVec.ofNat 57 a)

/-- The address of the row of an element (21 R247). -/
def Layout.row (l : Layout) (ix : List Nat) : Nat :=
  l.base.toNat + 16 * ((List.range 4).foldl (fun n d => n + nth ix (d + 1) * nth l.stride (d + 1)) 0)

/-- The byte that holds the code of element i0 of a row, and whether its high half does (21 R247). -/
def Layout.codeByte (l : Layout) (ix : List Nat) : Nat × Bool :=
  let i0 := nth ix 0
  if l.scl = 2 then
    let s := recordSize l.fmt
    (l.row ix + i0 / 32 * s + codeAt l.fmt (i0 % 32), l.fmt = 11 && i0 % 2 = 1)
  else if l.fmt = 11 then (l.row ix + i0 / 2, i0 % 2 = 1)
  else (l.row ix + i0 * elemSize l.fmt, false)

/-- The byte that holds the E8 of an element's block (21 R247). -/
def Layout.scaleByte (l : Layout) (ix : List Nat) : Nat :=
  let i0 := nth ix 0
  if l.scl = 1 then l.sbase.toNat + 16 * nth ix 1 * l.sstride + i0 / 16
  else l.row ix + i0 / 32 * recordSize l.fmt + scaleAt l.fmt + i0 % 32 / 16

/-! ## Bytes read by an engine -/

/-- Why a plan stops. -/
inductive Stop where
  /-- an access fails: the cause and the address (27 R311) -/
  | cause (c ea : Nat)
  | page (ea : Nat) (pte : BitVec 64) (pteAt : Nat) (big : Bool)
  deriving DecidableEq, Repr

/-- A capacity PTE whose migration ended UNREADABLE for the agent is a failed translation (11 R140; 21 R242). -/
def Stop.of (s : State) (who : Agent) : Stop → Stop
  | .page ea p a b => if unreadFor s who a b then .cause 0x042 ea else .page ea p a b
  | e => e

/-- A byte an engine reads at a virtual address, with its poison. -/
def virtByte (s : State) (core ctx a : Nat) : Except Stop (Byte × Bool) :=
  let ea := va57 a
  match reach s core ctx ea .load with
  | .bad c => .error (.cause c ea)
  | .capacity p at' b => .error (.page ea p at' b)
  | .ok m => .ok ((readMapped s core m 1).headD 0, s.mem.poisonAt m.pa)

/-- A byte of scratchpad by key as a command of a team reads it, free where a Millstone command owns it (23 R279), with its
poison. -/
def padByte (s : State) (team k : Nat) : Byte × Bool :=
  ((scratchSeen s team k 1).headD 0, s.mem.scratchPoisoned k 1)

/-- A code of a tensor element with its poison (21 R247); z bytes for a plain format. -/
def codeOf (s : State) (core ctx : Nat) (l : Layout) (ix : List Nat) : Except Stop (Nat × Bool) :=
  let (a, hi) := l.codeByte ix
  match virtByte s core ctx a with
  | .error e => .error e
  | .ok (b, p) => .ok (if l.fmt = 11 then (if hi then b.toNat / 16 else b.toNat % 16) else b.toNat, p)

/-- The E8 of an element's block with its poison. -/
def scaleOf (s : State) (core ctx : Nat) (l : Layout) (ix : List Nat) : Except Stop (Nat × Bool) :=
  match virtByte s core ctx (l.scaleByte ix) with
  | .error e => .error e
  | .ok (b, p) => .ok (b.toNat, p)

/-- Gathers results, the first failure first. -/
def allOk {α : Type} : List (Except Stop α) → Except Stop (List α)
  | [] => .ok []
  | .error e :: _ => .error e
  | .ok a :: rest =>
    match allOk rest with
    | .error e => .error e
    | .ok as => .ok (a :: as)

/-! ## Plans -/

/-- A byte to write: where, its value, and whether its source was poisoned. -/
structure Put where
  at' : Nat
  val : Byte
  bad : Bool
  deriving DecidableEq, Repr

/-- Bytes written together: their first address, their values, and which of them had a poisoned source. -/
structure Run where
  at' : Nat
  vals : List Byte
  bad : List Nat
  deriving DecidableEq, Repr

/-- Joins bytes at consecutive addresses of one 4 KiB page. -/
def runsOf (ps : List Put) : List Run :=
  let fresh (p : Put) : Run := { at' := p.at', vals := [p.val], bad := if p.bad then [p.at'] else [] }
  let go := ps.foldl (fun (acc : List Run) p =>
    match acc with
    | r :: rest =>
      if r.at' + r.vals.length = p.at' && p.at' % 4096 ≠ 0 then
        { r with vals := r.vals ++ [p.val], bad := if p.bad then r.bad ++ [p.at'] else r.bad } :: rest
      else fresh p :: acc
    | [] => [fresh p]) []
  go.reverse

/-- Writes bytes into scratchpad by key for a command of a team in a core's queue COPY; the granules of poisoned sources
become poisoned (21 R242), and a Millstone command's bytes and result unpredictable (23 R279). -/
def putPad (s : State) (core team : Nat) (ps : List Put) : State :=
  (runsOf ps).foldl (fun s r =>
    let s := scratchWrite s [engineWriter core 0] team r.at' r.vals
    if r.bad.isEmpty then s else s.setMem (r.bad.foldl (fun m a => m.poisonScratch (a / 16)) s.mem)) s

/-- The capacity page the writes of a plan would meet. -/
def writePage (s : State) (who : Agent) (core ctx : Nat) (plain : Bool) (ps : List Put) : Option Stop :=
  (runsOf ps).findSome? fun r =>
    match (engineMeet s core ctx (va57 r.at') r.vals.length plain).of s who with
    | .park p a b => some (.page (va57 r.at') p a b)
    | _ => none

/-- Writes bytes at virtual addresses, page by page; the first failing access stops it, with its cause and address, and what
precedes it is written with its poison (21 R242). -/
def putVirt (s : State) (who : Agent) (core ctx : Nat) (plain : Bool) (ps : List Put) : State × Option (Nat × Nat) :=
  (runsOf ps).foldl (fun (x : State × Option (Nat × Nat)) r =>
    match x.2 with
    | some _ => x
    | none =>
      match engineWrite x.1 who core ctx (va57 r.at') r.vals plain with
      | (s, .raise c) => (s, some (c, va57 r.at'))
      | (s, _) => (r.bad.foldl (fun s a => enginePoison s core ctx (va57 a) 1 plain) s, none)) (s, none)

/-- Notes the pages that an engine's reads touch, in the order in which it meets them, up to the first that it cannot read
(11 R135). -/
def noteReads (s : State) (core ctx : Nat) (addrs : List Nat) : State :=
  ((dedup [] (addrs.map fun a => a / 4096)).foldl (fun (x : State × Bool) page =>
    if x.2 then x
    else
      match reach s core ctx (4096 * page) .load with
      | .ok _ => (noteAccess x.1 core ctx (4096 * page) false, false)
      | _ => (x.1, true)) (s, false)).1

/-- How the work of a command ended, with the cause and address of a failing access, or that it waits for a migration. -/
inductive Done where
  | ended (s : State) (status cause ea : Nat)
  | waits (e : Stop)

/-- The status of a failing cause (21 R242). -/
def statusOf (cause : Nat) : Nat := if cause = 0x048 then 5 else 1

/-- A piece of a plan as an agent meets it. -/
def pieceOf (s : State) (who : Agent) : Except Stop (List Put) → Except Stop (List Put)
  | .error e => .error (e.of s who)
  | x => x

/-- Performs a plan piece by piece in order: a piece that fails ends the command, the earlier ones are written. toPad is
the team into whose scratchpad it writes, plain says that a reducing window takes the writes as plain ones (21 R255), and
reads are the addresses it reads, whose pages are noted first (11 R135). -/
def performPlan (s : State) (who : Agent) (core ctx : Nat) (toPad : Option Nat) (plain : Bool) (reads : List Nat)
    (plan : State → List (Except Stop (List Put))) : Done :=
  let s := noteReads s core ctx reads
  let pieces := (plan s).map (pieceOf s who)
  let pageIn (ps : List (Except Stop (List Put))) : Option Stop := ps.findSome? fun x =>
    match x with
    | .error (.page a p t b) => some (Stop.page a p t b)
    | .error (.cause _ _) => none
    | .ok ps => if toPad.isSome then none else writePage s who core ctx plain ps
  let firstBad := pieces.findIdx fun x => match x with | .error _ => true | .ok _ => false
  match pageIn (pieces.take (firstBad + 1)) with
  | some e => .waits e
  | none =>
    let (s, c, bad) := (pieces.take firstBad).foldl (fun (x : State × Option (Nat × Nat) × Bool) piece =>
      match x, piece with
      | (s, none, bad), .ok ps =>
        (match toPad with
         | some team => (putPad s core team ps, none, bad || ps.any Put.bad)
         | none =>
           let (s, c) := putVirt s who core ctx plain ps
           (s, c, bad || ps.any Put.bad))
      | x, _ => x) (s, none, false)
    let c := match c with
      | some c => some c
      | none => pieces.findSome? fun x => match x with | .error (.cause c ea) => some (c, ea) | _ => none
    match c with
    | some (c, ea) => .ended s (statusOf c) c ea
    | none => .ended s (if bad then 2 else 0) 0 0

/-! ## The plain form (21 R250) -/

/-- Bytes of a tile row and its pitch. -/
def rowBytes (l : Layout) : Nat :=
  if l.scl = 0 then l.tile0 * elemSize l.fmt else l.tile0 / 32 * recordSize l.fmt
def pitchOf (l : Layout) : Nat := (rowBytes l + 15) / 16 * 16

/-- The offset of byte o of row r, after the swizzle. -/
def plainAt (l : Layout) (r o : Nat) : Nat :=
  let u := o / 16
  r * pitchOf l + (if l.swz = 1 then (u ^^^ (r % 8)) * 16 + o % 16 else o)

/-- The index of column c of row r. -/
def tileIx (origin : List Nat) (r c : Nat) : List Nat :=
  (nth origin 0 + c) :: (nth origin 1 + r) :: origin.drop 2

/-- A plain row with SCL = 0, read from the tensor. -/
def plainRowIn (s : State) (core ctx : Nat) (l : Layout) (origin : List Nat) (pad r : Nat) : Except Stop (List Put) :=
  let z := elemSize l.fmt
  allOk ((List.range (l.tile0 * z)).map fun o =>
    let c := o / z
    let at' := pad + plainAt l r o
    if nth origin 0 + c < l.extent 0 && nth origin 1 + r < l.extent 1 then
      match virtByte s core ctx ((l.codeByte (tileIx origin r c)).1 + o % z) with
      | .ok (b, p) => .ok { at' := at', val := b, bad := p }
      | .error e => .error e
    else .ok { at' := at', val := 0, bad := false })

/-- A block of 16 elements as codes, E8 and poison: copied, or re-formed from its elements (21 R250, R251). -/
structure Block where
  codes : List Nat
  e8 : Nat
  bad : Bool
  deriving DecidableEq, Repr

/-- The block of the elements with the indices given, those from n on lying outside; copy says that it coincides with a
block of the tensor. -/
def blockIn (s : State) (core ctx : Nat) (l : Layout) (ixs : List (List Nat)) (n : Nat) (copy : Bool) : Except Stop Block :=
  let inside := ixs.take n
  match allOk (inside.map fun ix => codeOf s core ctx l ix), allOk (inside.map fun ix => scaleOf s core ctx l ix) with
  | .error e, _ => .error e
  | _, .error e => .error e
  | .ok cs, .ok es =>
    let bad := cs.any Prod.snd || es.any Prod.snd
    if copy then
      .ok { codes := (List.range 16).map fun k => (cs.getD k (0, false)).1, e8 := (es.headD (0, false)).1, bad }
    else
      let vals := (cs.zip es).map fun (c, e) => num32 (widenScaled l.fmt c.1 e.1)
      let e8 := blockScale l.fmt vals
      .ok { codes := (List.range 16).map fun k =>
              (match vals[k]? with | some v => (blockCode l.fmt e8 (.mode .rne) v).1 | none => 0)
            e8, bad }

/-- A plain row with SCL other than 0, read from the tensor: its records. -/
def scaledRowIn (s : State) (core ctx : Nat) (l : Layout) (origin : List Nat) (pad r : Nat) : Except Stop (List Put) :=
  let rs := recordSize l.fmt
  let outside := l.extent 1 ≤ nth origin 1 + r
  let blocks := (List.range (l.tile0 / 16)).map fun m =>
    let left := if outside then 0 else l.extent 0 - (nth origin 0 + 16 * m)
    let ixs := (List.range 16).map fun k => tileIx origin r (16 * m + k)
    if left = 0 then Except.ok { codes := List.replicate 16 0, e8 := 0, bad := false }
    else if nth origin 0 % 16 = 0 then blockIn s core ctx l ixs (min 16 left) true
    else blockIn s core ctx l ixs (min 16 left) false
  match allOk blocks with
  | .error e => .error e
  | .ok bs =>
    .ok ((List.range (l.tile0 / 32)).flatMap fun q =>
      let b0 := bs.getD (2 * q) { codes := [], e8 := 0, bad := false }
      let b1 := bs.getD (2 * q + 1) { codes := [], e8 := 0, bad := false }
      let code (k : Nat) : Nat := if k < 16 then nth b0.codes k else nth b1.codes (k - 16)
      let put (o v : Nat) (bad : Bool) : Put :=
        { at' := pad + plainAt l r (q * rs + o), val := BitVec.ofNat 8 v, bad }
      let body := if l.fmt = 11 then
          (List.range 16).map fun k => put k (code (2 * k) + 16 * code (2 * k + 1)) (if k < 8 then b0.bad else b1.bad)
        else (List.range 32).map fun k => put k (code k) (if k < 16 then b0.bad else b1.bad)
      body ++ [put (scaleAt l.fmt) b0.e8 b0.bad, put (scaleAt l.fmt + 1) b1.e8 b1.bad])

/-- A plain row written to the tensor: only positions inside it (21 R250). -/
def plainRowOut (s : State) (team : Nat) (l : Layout) (origin : List Nat) (pad r : Nat) : List Put :=
  if l.extent 1 ≤ nth origin 1 + r then []
  else if l.scl = 0 then
    let z := elemSize l.fmt
    (List.range (min l.tile0 (l.extent 0 - nth origin 0) * z)).map fun o =>
      let b := padByte s team (pad + plainAt l r o)
      { at' := (l.codeByte (tileIx origin r (o / z))).1 + o % z, val := b.1, bad := b.2 }
  else
    let rs := recordSize l.fmt
    (List.range (min l.tile0 (l.extent 0 - nth origin 0) / 16)).flatMap fun m =>
      let ix := tileIx origin r (16 * m)
      let from' (o : Nat) : Nat := pad + plainAt l r (m / 2 * rs + o)
      let n := if l.fmt = 11 then 8 else 16
      let put (at' o : Nat) : Put :=
        let b := padByte s team (from' o)
        { at' := at', val := b.1, bad := b.2 }
      ((List.range n).map fun k => put ((l.codeByte ix).1 + k) (m % 2 * n + k)) ++
        [put (l.scaleByte ix) (scaleAt l.fmt + m % 2)]

/-! ## The canonical form (09 R125 to R127; 21 R251) -/

/-- Elements of a K-step. -/
def epe (fmt : Nat) : Nat := if fmt = 9 then 24 else if fmt = 10 then 48 else 96

/-- The shape of a canonical tile: ROWS, KLEN and STEPS. -/
def canonShape (l : Layout) (origin : List Nat) (tr : Bool) : Nat × Nat × Nat :=
  let rd := if tr then 0 else 1
  let kd := if tr then 1 else 0
  let tile (d : Nat) : Nat := if d = 0 then l.tile0 else l.tile1
  let rows := min (tile rd) (l.extent rd - nth origin rd)
  let klen := min (tile kd) (l.extent kd - nth origin kd)
  (rows, klen, (klen + epe l.fmt - 1) / epe l.fmt)

/-- Bytes of a canonical tile. -/
def canonBytes (fmt rows steps : Nat) : Nat := 64 + (if fmt = 9 then 48 else 56) * rows * steps

/-- The header of a canonical tile. -/
def canonHeader (fmt role rows steps klen : Nat) : List Byte :=
  natBytes 1 fmt ++ natBytes 1 role ++ natBytes 2 rows ++ natBytes 2 steps ++ natBytes 2 klen ++ List.replicate 56 0

/-- One step of one row of a canonical tile, with its scales. -/
def canonStep (s : State) (core ctx : Nat) (l : Layout) (origin : List Nat) (tr : Bool) (pad r k : Nat) :
    Except Stop (List Put) :=
  let (rows, klen, steps) := canonShape l origin tr
  let ix (kk : Nat) : List Nat := if tr then tileIx origin kk r else tileIx origin r kk
  let at' := pad + 64 + 48 * (r * steps + k)
  if l.fmt = 9 then
    match allOk ((List.range 48).map fun o =>
        let kk := 24 * k + o / 2
        if kk < klen then virtByte s core ctx ((l.codeByte (ix kk)).1 + o % 2) else .ok (0, false)) with
    | .error e => .error e
    | .ok bs => .ok ((List.range 48).map fun o =>
        { at' := at' + o, val := (bs.getD o (0, false)).1, bad := (bs.getD o (0, false)).2 })
  else
    let nb := epe l.fmt / 16
    let ok := if tr then nth origin 1 else nth origin 0
    let blocks := (List.range nb).map fun b =>
      let first := epe l.fmt * k + 16 * b
      let n := min 16 (klen - first)
      if n = 0 then Except.ok { codes := List.replicate 16 0, e8 := 0, bad := false }
      else blockIn s core ctx l ((List.range 16).map fun j => ix (first + j)) n (!tr && ok % 16 = 0 && n = 16)
    match allOk blocks with
    | .error e => .error e
    | .ok bs =>
      let blk (b : Nat) : Block := bs.getD b { codes := [], e8 := 0, bad := false }
      let body := (List.range 48).map fun o =>
        if l.fmt = 10 then
          ({ at' := at' + o, val := BitVec.ofNat 8 (nth (blk (o / 16)).codes (o % 16)), bad := (blk (o / 16)).bad } : Put)
        else
          let b := blk (o / 8)
          { at' := at' + o, val := BitVec.ofNat 8 (nth b.codes (2 * (o % 8)) + 16 * nth b.codes (2 * (o % 8) + 1)), bad := b.bad }
      let scaleAt' := pad + 64 + 48 * rows * steps + 8 * (r * steps + k)
      let scales := (List.range 8).map fun b =>
        ({ at' := scaleAt' + b, val := BitVec.ofNat 8 (if b < nb then (blk b).e8 else 0), bad := b < nb && (blk b).bad } : Put)
      .ok (body ++ scales)

/-! ## The pieces of a copy -/

/-- Bytes of scratchpad a tile takes. -/
def footprintOf (l : Layout) (origin : List Nat) (can tr : Bool) : Nat :=
  if can then
    let (rows, _, steps) := canonShape l origin tr
    canonBytes l.fmt rows steps
  else pitchOf l * l.tile1

/-- The addresses a TCOPY IN reads, in order: of each position of the tile inside the tensor its code and its scale. -/
def tcopyReads (l : Layout) (out can tr : Bool) (origin : List Nat) : List Nat :=
  let z := elemSize l.fmt
  let parts (ix : List Nat) (o : Nat) : List Nat :=
    if l.scl = 0 then [va57 ((l.codeByte ix).1 + o)] else [va57 (l.codeByte ix).1, va57 (l.scaleByte ix)]
  let per := if l.scl = 0 then z else 1
  if out then []
  else if can then
    let (rows, klen, _) := canonShape l origin tr
    (List.range rows).flatMap fun r => (List.range (klen * per)).flatMap fun o =>
      parts (if tr then tileIx origin (o / per) r else tileIx origin r (o / per)) (o % per)
  else
    (List.range l.tile1).flatMap fun r => (List.range (l.tile0 * per)).flatMap fun o =>
      if nth origin 0 + o / per < l.extent 0 && nth origin 1 + r < l.extent 1 then
        parts (tileIx origin r (o / per)) (o % per)
      else []

/-- The pieces of a TCOPY whose tile lies at a scratchpad byte key. -/
def tcopyPieces (s : State) (core ctx team : Nat) (l : Layout) (out can : Bool) (role : Nat) (tr : Bool) (origin : List Nat)
    (pad : Nat) : List (Except Stop (List Put)) :=
  if out then (List.range l.tile1).map fun r => .ok (plainRowOut s team l origin pad r)
  else if can then
    let (rows, klen, steps) := canonShape l origin tr
    let header := (canonHeader l.fmt role rows steps klen)
    (.ok ((List.range 64).map fun o => { at' := pad + o, val := header.getD o 0, bad := false })) ::
      ((List.range rows).flatMap fun r => (List.range steps).map fun k => canonStep s core ctx l origin tr pad r k)
  else (List.range l.tile1).map fun r =>
    if l.scl = 0 then plainRowIn s core ctx l origin pad r else scaledRowIn s core ctx l origin pad r

end Sys2Proof.Machine
end

