-- ==== Sys2Proof/Machine/Millrace.lean ====
section
/-! DEFINITION. Millrace, pooling and reduction instructions (chapter 21): the issue of each engine command and the work
of copies and folds when they publish. -/

namespace Sys2Proof.Machine

/-! ## TCOPY (21 R249 to R253) -/

/-- The destination or source tile of a copy: a ring, or a scratch address. -/
def tileScratch (s : State) (core team : Nat) (ring : Option Nat) (addr : Word) : Option Ring × Word :=
  match ring with
  | some n => (ringOf s core team n, 0)
  | none => (none, addr)

/-- The causes of a TCOPY once its record has been read (21 R252): the lowest that applies. Beyond an origin outside the
tensor its tile has no rows or steps (DEDUCED, log 77). -/
def tcopyCause (s : State) (core team : Nat) (l : Layout) (origin : List Nat) (out can tr : Bool) (ring : Option Nat)
    (addr : Word) : Option (Nat × Nat) :=
  let (rows, _, steps) := canonShape l origin tr
  let granule := if l.fmt = 9 then 16 else if l.fmt = 10 then 32 else 64
  let originBad := (List.range 5).any fun d => if d < l.ndim then nth l.size d ≤ nth origin d else nth origin d ≠ 0
  let r := (tileScratch s core team ring addr).1
  let foot := footprintOf l origin can tr
  let shape :=
    originBad || (can && (!(l.fmt = 9 || l.fmt = 10 || l.fmt = 11) || out)) || (tr && !can) ||
    (can && (64 < rows || 64 < steps)) ||
    (tr && (l.tile0 % granule ≠ 0 || l.tile1 % granule ≠ 0)) ||
    (!can && l.scl ≠ 0 && l.tile0 % 32 ≠ 0) || (!can && l.swz = 1 && pitchOf l % 128 ≠ 0) ||
    (!can && out && l.scl ≠ 0 && (l.extent 0 % 32 ≠ 0 || nth origin 0 % (if l.scl = 1 then 16 else 32) ≠ 0)) ||
    (match ring, r with
     | none, _ => addr.toNat % (if can then 64 else 16) ≠ 0
     | some _, some r => r.size < foot || (can && (r.base.toNat % 64 ≠ 0 || r.size % 64 ≠ 0))
     | some _, none => false) ||
    (ring.isSome && out)
  let range := ring.isNone && (scratchAt s team addr.toNat foot).isNone
  match least [(range, 0x046), (shape, 0x0C0), (ring.isSome && r.isNone, 0x0C7)] with
  | some c => some (c, if c = 0x046 then addr.toNat else 0)
  | none => none

/-- The generation word of a paired block shows it torn (29 R334). -/
def showsTorn (g : Nat) : Bool := g / 2 ^ 62 % 4 ≠ 0

/-- A read that a thread's load stands for: the bytes, the cause, or the page to wait for (21 R252). -/
def checkedRead (s : State) (core ctx ea n : Nat) : Except Prepared (List Byte) :=
  match engineRead s core ctx ea n with
  | .bad c => .error (.bad c ea)
  | .park p a b => .error (.page p a b ea)
  | .ok bs poison => if poison then .error (.bad 0x047 ea) else .ok bs

/-- TCOPY (21 R249): the record, and the generation word of a paired block, are read after acceptance. -/
def execTcopy (f : F64) (s : State) : Out :=
  let rng := f.mod.getLsbD 14
  engineCommand (.tcopy f) s 0 2
    (fun _ _ p => if (pair64 p.a).toNat % 64 ≠ 0 then some (0x040, (pair64 p.a).toNat) else none)
    fun env s p =>
      let core := coreOf env.key
      let ctx := ctxOf s env.crew
      let out := f.mod.getLsbD 9
      let can := f.mod.getLsbD 10
      let tr := f.mod.getLsbD 13
      let ring := if rng then some f.vb.toNat else none
      let addr := if rng then 0#32 else w p.b 0
      let origin := p.c.map BitVec.toNat
      match checkedRead s core ctx (pair64 p.a).toNat 64 with
      | .error e => e
      | .ok bs =>
        if layoutBad bs then .bad 0x0C1 0
        else
          let l := Layout.parse bs
          let broken := tcopyCause s core env.crew.team l origin out can tr ring addr
          let dst := match ring with | some n => Place.ring n | none => Place.scratch addr
          let work : Prepared := match broken with
            | some (c, v) => .bad c v
            | none => .work (.tcopy l out can (f.mod.getLsbD 11) tr origin dst)
          if !l.pair then work
          else
            match checkedRead s core ctx (canonical (l.sbase.setWidth 57)) 8 with
            | .error (.bad c v) =>
              (match lower broken (some (c, v)) with | some (c, v) => .bad c v | none => work)
            | .error e => e
            | .ok g =>
              if showsTorn (bytesNat g) then
                (match lower broken (some (0x0C4, 0)) with | some (c, v) => .bad c v | none => work)
              else work

/-! ## BCOPY (21 R254, R255) -/

/-- BCOPY (21 R254). -/
def execBcopy (f : F64) (s : State) : Out :=
  let ss := f.mod.getLsbD 9
  let sd := f.mod.getLsbD 10
  let rng := f.mod.getLsbD 11
  engineCommand (.bcopy f) s 0 1
    (fun env s p =>
      let core := coreOf env.key
      let team := env.crew.team
      let len := (w p.c 0).toNat
      let src := if ss then (w p.a 0).toNat else (pair64 p.a).toNat
      let dst := if rng then 0 else if sd then (w p.b 0).toNat else (pair64 p.b).toNat
      let padBad (a : Nat) : Bool := len ≠ 0 && (scratchAt s team a len).isNone
      let r := ringOf s core team f.vb.toNat
      lower (if src % 16 ≠ 0 then some (0x040, src) else if dst % 16 ≠ 0 then some (0x040, dst) else none)
        (lower (if ss && padBad src then some (0x046, src) else if sd && padBad dst then some (0x046, dst) else none)
          (if !rng then none
           else match r with
             | none => some (0x0C7, 0)
             | some r => if r.size < len then some (0x0C0, 0) else none)))
    fun _ _ p =>
      .work (.bcopy (if ss then .scratch (w p.a 0) else .virt (pair64 p.a))
        (if rng then .ring f.vb.toNat else if sd then .scratch (w p.b 0) else .virt (pair64 p.b)) (w p.c 0).toNat)

/-! ## COMBINE (11 R157; 21 R260) -/

/-- COMBINE (21 R260). -/
def execCombine (f : F64) (s : State) : Out :=
  let n := fieldOf f.mod.toNat 10 9
  engineCommand (.combine f) s 1 1
    (fun env s _ =>
      let x := (s.context (ctxOf s env.crew)).window n
      if !x.en || x.op = 3 then some (0x04B, 0) else none)
    fun _ _ _ => .work (.combine n)

/-- One fold of a window's staged slots (11 R157): targets in ascending order, each with its sources in ascending order. A
poisoned target stays poisoned, and the status is then POISON (DEDUCED from 27 R321, log 78). -/
def combineFold (s : State) (core ctx win : Nat) : State × Nat × Nat :=
  let mine := s.mem.staged.filter fun e => e.2.ctx = ctx && e.2.win = win
  let pas := sortAsc (mine.map fun e => e.1 / 256)
  pas.foldl (fun (x : State × Nat × Nat) pa =>
    let (s, st, c) := x
    if st = 1 then x
    else
      let slots := mine.filter fun e => e.1 / 256 = pa
      let op := (slots.head?.map fun e => e.2.op).getD 0
      let n := if op = 1 then 2 else 4
      if s.sys.target pa ≠ .hbm then (s, 1, 0x04A)
      else
        let poisoned := s.mem.poisonIn pa n
        let old : Nat := bytesNat (s.mem.seenBytes core pa n)
        let v0 : Word := if op = 1 then bf16Word old else BitVec.ofNat 32 old
        let v := slots.foldl (fun v e => if op = 2 then v + e.2.val else (fadd v e.2.val).1) v0
        let new := if op = 1 then bf16Rne v else v.toNat
        let m := s.mem.writeHome core pa (natBytes n new)
        let gone := slots.map Prod.fst
        ((noteStore s core pa n).setMem { m with staged := m.staged.filter fun e => !gone.contains e.1 },
          if poisoned then 2 else st, c)) (s, 0, 0)

/-! ## Embedding pools (21 R261 to R264) -/

/-- The fields of a pooling descriptor. -/
def PoolDesc.parse (addr : BitVec 64) (bs : List Byte) : PoolDesc :=
  let d := recAt bs 0xC 4
  { addr, tbase := BitVec.ofNat 64 (recAt bs 0 8), nrows := recAt bs 8 4, rowlen := d % 2 ^ 11, fmt := d / 2 ^ 16 % 16
    presort := d / 2 ^ 20 % 2 = 1, weighted := d / 2 ^ 21 % 2 = 1, rstride := recAt bs 0x10 4
    idx := BitVec.ofNat 64 (recAt bs 0x18 8), offs := BitVec.ofNat 64 (recAt bs 0x20 8)
    wts := BitVec.ofNat 64 (recAt bs 0x28 8), out := BitVec.ofNat 64 (recAt bs 0x30 8), nbags := recAt bs 0x38 2 }

/-- Bytes of a table row. -/
def poolRowBytes (d : PoolDesc) : Nat := if d.fmt = 8 then 4 * d.rowlen else if d.fmt = 9 then 2 * d.rowlen else d.rowlen / 32 * 34

/-- A descriptor breaks the table of R261. -/
def poolBad (bs : List Byte) : Bool :=
  let d := PoolDesc.parse 0 bs
  let x := recAt bs 0xC 4
  let addrBad (a : BitVec 64) (k : Nat) : Bool := a.toNat / 2 ^ 57 ≠ 0 || a.toNat % k ≠ 0
  addrBad d.tbase 64 || d.nrows = 0 || d.rowlen = 0 || 1024 < d.rowlen || x / 2 ^ 11 % 2 ^ 5 ≠ 0 || x / 2 ^ 22 ≠ 0 ||
    !(d.fmt = 8 || d.fmt = 9 || d.fmt = 10) || (d.fmt = 10 && d.rowlen % 32 ≠ 0) || d.rstride % 64 ≠ 0 ||
    d.rstride < poolRowBytes d || recAt bs 0x14 4 ≠ 0 || addrBad d.idx 4 || addrBad d.offs 4 ||
    (d.weighted && addrBad d.wts 4) || addrBad d.out 16 || d.nbags = 0 || 4096 < d.nbags || recAt bs 0x3A 2 ≠ 0

/-- The descriptor's checks after acceptance (21 R261). -/
def poolPrepare (env : Env) (s : State) (p : Part1) (work : PoolDesc → Work) : Prepared :=
  match checkedRead s (coreOf env.key) (ctxOf s env.crew) (pair64 p.a).toNat 64 with
  | .error e => e
  | .ok bs => if poolBad bs then .bad 0x0C8 0 else .work (work (PoolDesc.parse (pair64 p.a) bs))

/-- EMBG (21 R262). -/
def execEmbg (f : F64) (s : State) : Out :=
  engineCommand (.embg f) s 1 4
    (fun _ _ p => if (pair64 p.a).toNat % 64 ≠ 0 then some (0x040, (pair64 p.a).toNat) else none)
    fun env s p => poolPrepare env s p .embg

/-- EMBW (21 R264). -/
def execEmbw (f : F64) (s : State) : Out :=
  engineCommand (.embw f) s 1 2
    (fun _ _ p =>
      if (pair64 p.a).toNat % 64 ≠ 0 then some (0x040, (pair64 p.a).toNat)
      else if (w p.c 0).toNat % 16 ≠ 0 then some (0x040, (w p.c 0).toNat) else none)
    fun env s p =>
      match poolPrepare env s p fun d => .embw d (w p.b 0).toNat (w p.c 0) with
      | .work (.embw d row src) =>
        if (scratchAt s env.crew.team src.toNat (poolRowBytes d)).isNone then .bad 0x046 src.toNat
        else .work (.embw d row src)
      | x => x

/-! ## SJOB (21 R265) -/

/-- The engine of a stack that takes a card, if one has room (21 R265). -/
def chooseEngine (s : State) (stack : Nat) (engine : Option Nat) : Option Nat :=
  let es := match engine with
    | some e => [4 * stack + e]
    | none => (List.range 4).map fun e => 4 * stack + e
  let room := es.filter fun e => (s.engine e).queue.length < 8
  match room.find? fun e => (s.engine e).running.isNone && (s.engine e).queue.isEmpty with
  | some e => some e
  | none =>
    room.foldl (fun (b : Option Nat) e =>
      match b with
      | none => some e
      | some x => if (s.engine e).queue.length < (s.engine x).queue.length then some e else some x) none

/-- The oldest job of a core's queue STACK that has not been handed over, and the engine that takes it (21 R265). -/
def nextJob (s : State) (core : Nat) : Option (Command × Nat × Nat) :=
  match (s.core core).commands.find? fun c => c.queue = 2 && !c.started && c.result.isNone with
  | none => none
  | some c =>
    if owedFirst (s.core core) 2 c.serial then none
    else
      match c.work with
      | .sjob stack engine card => (chooseEngine s stack engine).map fun e => (c, e, (card.headD 0).toNat)
      | _ => none

/-- One step of handing over the oldest job: its card, read with acquire, goes to the engine, or its read fails, or its
migration starts or is joined; none while nothing can be done (21 R265; 11 R139). -/
def handJob (s : State) (core : Nat) : Option State :=
  match nextJob s core with
  | none => none
  | some (c, e, ea) =>
    let overs (st cause : Nat) : State := updateCommand s core c.serial fun x => { x with result := some (st, cause, ea) }
    match (engineRead s core c.ctx ea 64).of s (.command c.serial) with
    | .park p a b =>
      let die := faultDie s core
      if agentWaits s die a b (.command c.serial) then none
      else some (startMigration s die c.ctx ea p a b (some (.command c.serial)))
    | .bad cause => some (overs 1 cause)
    | .ok _ true => some (overs 2 0x047)
    | .ok bs false =>
      let ds := (List.range 8).map fun k => BitVec.ofNat 64 (recAt bs (8 * k) 8)
      let job : Job := { card := ds, serial := c.serial, core, ctx := c.ctx, ended := none, begun := false, sequence := none, block := none }
      let en := s.engine e
      let know := match meet s core c.ctx ea 64 .load with
        | .ok ((m, _) :: _) => joinKnow c.know (carriedAt s m.pa).know
        | _ => c.know
      some (updateCommand (noteRange (s.setEngine e { en with queue := en.queue ++ [job] }) core c.ctx ea 64 false)
        core c.serial fun x => { x with started := true, know := know })

/-- Hands the waiting job cards of a core's queue STACK to their engines, in acceptance order, while they have room. -/
def handJobs (s : State) (core : Nat) : Nat → State
  | 0 => s
  | fuel + 1 =>
    match handJob s core with
    | none => s
    | some s => handJobs s core fuel

/-- SJOB (21 R265), with its implicit release at system scope (11 R154), and the cards that can be handed over then. -/
def execSjob (f : F64) (s : State) : Out :=
  let key := issueCrew s
  andThen
    (engineCommand (.sjob f) s 2 2
      (fun _ s p =>
        let v := (w p.b 0).toNat
        lower (if (pair64 p.a).toNat % 64 ≠ 0 then some (0x040, (pair64 p.a).toNat) else none)
          (if 128 ≤ v || s.sys.stacks ≤ v % 16 then some (0x0C8, 0) else none))
      fun _ _ p =>
        let v := (w p.b 0).toNat
        .work (.sjob (v % 16) (if v / 64 % 2 = 1 then none else some (v / 16 % 4)) [pair64 p.a]))
    fun s => handJobs s (coreOf key) 1024

/-! ## The work of a copy -/

/-- The scratchpad byte key of a copy's place. -/
def padOf (s : State) (core team : Nat) (claimed : Option Word) : Place → Nat → Option Nat
  | .scratch a, n => scratchAt s team a.toNat n
  | .ring r, n =>
    match ringOf s core team r, claimed with
    | some x, some j => scratchAt s team (slotAddr x j).toNat n
    | _, _ => none
  | .virt _, _ => none

/-- The scratch address of a copy's place (27 R311). -/
def padAddress (s : State) (core team : Nat) (claimed : Option Word) : Place → Nat
  | .scratch a => a.toNat
  | .ring r =>
    match ringOf s core team r, claimed with
    | some x, some j => (slotAddr x j).toNat
    | _, _ => 0
  | .virt a => a.toNat

/-- The physical bytes, or scratchpad keys, that n bytes of a place take, page by page, for the overlap of R255. -/
def placePieces (s : State) (core ctx : Nat) (pad : Option Nat) (p : Place) (n : Nat) : List (Bool × Nat × Nat) :=
  match p, pad with
  | .virt a, _ => (splitPages (n / 4096 + 2) a.toNat n).filterMap fun e =>
      match reach s core ctx (e.1 % 2 ^ 64) .load with
      | .ok m => some (false, m.pa, e.2)
      | _ => none
  | _, some k => [(true, k, n)]
  | _, none => []

/-- A byte lies in one of the pieces. -/
def inPieces (ps : List (Bool × Nat × Nat)) (pad : Bool) (a : Nat) : Bool :=
  ps.any fun e => e.1 = pad && e.2.1 ≤ a && a < e.2.1 + e.2.2

/-- The physical address or key of a destination byte. -/
def placeByte (s : State) (core ctx : Nat) (pad : Option Nat) (p : Place) (o : Nat) : Bool × Nat :=
  match p, pad with
  | .virt a, _ =>
    (match reach s core ctx ((a.toNat + o) % 2 ^ 64) .store with
     | .ok m => (false, m.pa)
     | _ => (false, 2 ^ 60))
  | _, some k => (true, k + o)
  | _, none => (true, 2 ^ 60)

/-- The addresses a BCOPY reads, in order. -/
def bcopyReads (src : Place) (len : Nat) : List Nat :=
  match src with
  | .virt a => (List.range len).map fun o => (a.toNat + o) % 2 ^ 64
  | _ => []

/-- The pieces of a BCOPY: 16-byte granules in ascending order; overlapped destination bytes are free (21 R255, log 1), and
a destination address that is not canonical is not translated (11 R128). -/
def bcopyPieces (s : State) (core ctx team : Nat) (src dst : Place) (len : Nat) (srcPad dstPad : Option Nat) (srcAt : Nat) :
    List (Except Stop (List Put)) :=
  let taken := placePieces s core ctx srcPad src len
  (List.range ((len + 15) / 16)).map fun g =>
    let n := min 16 (len - 16 * g)
    allOk ((List.range n).map fun j =>
      let o := 16 * g + j
      let read : Except Stop (Byte × Bool) := match src, srcPad with
        | .virt a, _ =>
          (match reach s core ctx ((a.toNat + o) % 2 ^ 64) .load with
           | .bad c => .error (.cause c ((a.toNat + o) % 2 ^ 64))
           | .capacity p t b => .error (.page ((a.toNat + o) % 2 ^ 64) p t b)
           | .ok m => .ok ((readMapped s core m 1).headD 0, s.mem.poisonAt m.pa))
        | _, some k => .ok (padByte s team (k + o))
        | _, none => .error (.cause 0x046 srcAt)
      match read with
      | .error e => .error e
      | .ok (b, p) =>
        let d := placeByte s core ctx dstPad dst o
        let val := if inPieces taken d.1 d.2 then Config.freeByte (s.free * 2 ^ 32 + o) else b
        match dst, dstPad with
        | .virt a, _ =>
          let to' := (a.toNat + o) % 2 ^ 64
          if to' ≠ va57 to' then .error (.cause 0x042 to') else .ok { at' := to' % 2 ^ 57, val, bad := p }
        | _, some k => .ok { at' := k + o, val, bad := p }
        | _, none => .ok { at' := 0, val, bad := p })

/-- Performs the work of a copy or fold, whole, when it publishes. -/
def performWork (s : State) (core : Nat) (c : Command) : Done :=
  let who : Agent := .command c.serial
  match c.work with
  | .tcopy l out can role tr origin dst =>
    (match padOf s core c.team c.claimed dst (footprintOf l origin can tr) with
     | none => .ended s 1 0x046 (padAddress s core c.team c.claimed dst)
     | some k =>
       performPlan s who core c.ctx (if out then none else some c.team) false (tcopyReads l out can tr origin) fun s =>
         tcopyPieces s core c.ctx c.team l out can (if role then 1 else 0) tr origin k)
  | .bcopy src dst len =>
    if len = 0 then .ended s 0 0 0
    else
      let sp := padOf s core c.team c.claimed src len
      let dp := padOf s core c.team c.claimed dst len
      let toPad := match dst with | .virt _ => none | _ => some c.team
      if toPad.isSome && dp.isNone then .ended s 1 0x046 (padAddress s core c.team c.claimed dst)
      else performPlan s who core c.ctx toPad true (bcopyReads src len) fun s =>
        bcopyPieces s core c.ctx c.team src dst len sp dp (padAddress s core c.team c.claimed src)
  | .combine win =>
    let (s, st, cause) := combineFold s core c.ctx win
    .ended s st cause 0
  | _ => .ended s 0 0 0

/-- Starts or joins the migration that an agent's work waits for (11 R139). -/
def awaitPage (s : State) (who : Agent) (core ctx : Nat) (e : Stop) : Option State :=
  match e with
  | .page ea p a b =>
    let die := faultDie s core
    if agentWaits s die a b who then none else some (startMigration s die ctx ea p a b (some who))
  | .cause _ _ => none

/-- Completes the tokens of finished jobs at the head of a core's queue STACK, in acceptance order (21 R241; 29 R330). -/
def publishStack (s : State) (core : Nat) : Nat → State
  | 0 => s
  | fuel + 1 =>
    match headCommand s core 2 with
    | none => s
    | some c =>
      match c.result with
      | some (st, cause, ea) =>
        publishStack (publish s core { c with word := none } 0x20 st cause ea (cause ≠ 0)) core fuel
      | none => s

end Sys2Proof.Machine
end

