-- ==== Sys2Proof/Machine/Matrix.lean ====
section
/-! DEFINITION. The arithmetic of Millstone: canonical tile headers and elements (09 R125, R126), the K-step (09 R122,
R123), norms (23 R287), the alternatives table (23 R289) and sampled products (09 R124; 23 R288). -/

namespace Sys2Proof.Machine

/-! ## Tiles -/

/-- A canonical tile's header. -/
structure TileHead where
  fmt : Nat
  role : Nat
  rows : Nat
  steps : Nat
  klen : Nat
  deriving DecidableEq, Repr

def TileHead.parse (bs : List Byte) : TileHead :=
  { fmt := recAt bs 0 1 % 16, role := recAt bs 1 1 % 2, rows := recAt bs 2 2, steps := recAt bs 4 2, klen := recAt bs 6 2 }

/-- A header breaks R125. -/
def headBad (bs : List Byte) : Bool :=
  let h := TileHead.parse bs
  !(h.fmt = 9 || h.fmt = 10 || h.fmt = 11) || recAt bs 0 1 / 16 ≠ 0 || recAt bs 1 1 / 2 ≠ 0 || h.rows = 0 || 64 < h.rows ||
    h.steps = 0 || 64 < h.steps || h.klen ≤ (h.steps - 1) * epe h.fmt || h.steps * epe h.fmt < h.klen ||
    (bs.drop 8).any fun b => b ≠ 0

/-- Bytes of a tile with a header. -/
def TileHead.bytes (h : TileHead) : Nat := canonBytes h.fmt h.rows h.steps

/-- Element (r, k) of a canonical tile's bytes, exact with its scale (09 R112, R122, R126). -/
def tileElem (h : TileHead) (bs : List Byte) (r k : Nat) : FNum :=
  let e := epe h.fmt
  let step := 64 + 48 * (r * h.steps + k / e)
  let q := k % e
  if h.fmt = 9 then num32 (bf16Word (recAt bs (step + 2 * q) 2))
  else
    let scale := recAt bs (64 + 48 * h.rows * h.steps + 8 * (r * h.steps + k / e) + q / 16) 1
    if h.fmt = 10 then scaledVal 10 (recAt bs (step + q) 1) scale
    else
      let b := recAt bs (step + q / 2) 1
      scaledVal 11 (if q % 2 = 0 then b % 16 else b / 16) scale

/-! ## The K-step (09 R122, R123) -/

/-- The rounded sum of a step's exact products. -/
def stepSum (ps : List FNum) : Word :=
  let inf (n : Bool) : Bool := ps.any fun p => p.isInf && p.isNeg = n
  if ps.any FNum.isNan || (inf true && inf false) then canonicalNan
  else if inf true then infWord true
  else if inf false then infWord false
  else if ps.all FNum.isZero then zeroWord (ps.all FNum.isNeg)
  else
    let mags := (ps.filter fun p => !p.isZero).map fun p => p.val.abs
    let emax := mags.foldl (fun (m : Option Int) q => match m with | none => some q.log2 | some x => some (max x q.log2)) none
    let e := emax.getD 0 - 55
    let sum := ps.foldl (fun (n : Int) p =>
      let t := (p.val.abs.mul (Q.pow2 (-e))).floor
      if p.isNeg then n - t else n + t) 0
    rne32 (.ofQ (Q.scaled sum e))

/-- One K-step of an output element (09 R122); zs is zero-skip (09 R123). -/
def kstep (pairs : List (FNum × FNum)) (zs : Bool) (acc : Word) : Word :=
  let plusZero (x : FNum) : Bool := x.isZero && !x.isNeg
  let ps := (pairs.filter fun p => !(zs && (plusZero p.1 || plusZero p.2))).map fun p => p.1.mul p.2
  if ps.isEmpty then acc else (fadd acc (stepSum ps)).1

/-- All the steps of an output element. -/
def dotSteps (h : TileHead) (a b : Nat → FNum) (zs : Bool) (acc : Word) : Word :=
  (List.range h.steps).foldl (fun acc k =>
    let n := min (epe h.fmt) (h.klen - epe h.fmt * k)
    kstep ((List.range n).map fun q => (a (epe h.fmt * k + q), b (epe h.fmt * k + q))) zs acc) acc

/-- One word of a norm vector (23 R287). -/
def normWord (h : TileHead) (bs : List Byte) (k : Nat) : Word :=
  let sq := (List.range h.rows).map fun r => (tileElem h bs r k).mul (tileElem h bs r k)
  (fsqrt (rne32 (FNum.sum sq))).1

/-! ## The alternatives table (23 R289) -/

/-- The state of the construction: Q by index, thr and the other index by index, and the two lists. -/
structure Alias where
  q : List Nat
  thr : List Nat
  other : List Nat
  small : List Nat
  large : List Nat
  deriving Repr

def aliasGo (a : Alias) : Nat → Alias
  | 0 => a
  | fuel + 1 =>
    match a.small, a.large with
    | sm :: ss, lg :: ls =>
      let ql := nth a.q lg - (2 ^ 32 - nth a.q sm)
      let a := { a with q := a.q.set lg ql, thr := a.thr.set sm (nth a.q sm), other := a.other.set sm lg, small := ss }
      if ql < 2 ^ 32 then aliasGo { a with small := ss ++ [lg], large := ls } fuel else aliasGo a fuel
    | _, _ => a

/-- thr and the other index of the weights, whose sum T is not 0. -/
def aliasTable (wgt : List Q) (t : Q) : List Nat × List Nat :=
  let k := wgt.length
  let q0 := wgt.map fun w => ((w.mul (Q.scaled k 32)).div t).floor.toNat
  let d := k * 2 ^ 32 - q0.foldl (· + ·) 0
  let positive := (List.range k).filter fun i => !((wgt.getD i ⟨0, 1⟩).isZero)
  let bump := positive.take d
  let q := (List.range k).map fun i => nth q0 i + (if bump.contains i then 1 else 0)
  let a := aliasGo { q, thr := List.replicate k (2 ^ 32), other := List.range k
                     small := (List.range k).filter fun i => nth q i < 2 ^ 32
                     large := (List.range k).filter fun i => 2 ^ 32 ≤ nth q i } (2 * k + 1)
  (a.thr, a.other)

/-! ## Sampled products (09 R124; 23 R288) -/

/-- A finite number divided by a positive integer and rounded, infinities and NaNs as they are. -/
def divWord (w : Word) (n : Nat) : Word :=
  match num32 w with
  | .fin s q => rne32 (.fin s (q.div (Q.int n)))
  | x => rne32 x

/-- The running state of a sampled product. -/
structure Sampling where
  tile : List Word
  s : Nat
  mean : Word
  m2 : Word
  deriving DecidableEq, Repr

/-- What the draws need. -/
structure Draws where
  rows : Nat
  cols : Nat
  klen : Nat
  a : Nat → Nat → FNum
  b : Nat → Nat → FNum
  inv : List Word
  thr : List Nat
  other : List Nat
  seed : Word
  cap : Nat
  tau : Word

/-- One sample. -/
def drawOne (d : Draws) (x : Sampling) : Sampling :=
  let u1 := (mix32 (BitVec.ofNat 32 (2 * x.s)) d.seed).toNat
  let u2 := (mix32 (BitVec.ofNat 32 (2 * x.s + 1)) d.seed).toNat
  let c := d.klen * u1 / 2 ^ 32
  let k := if u2 < nth d.thr c then c else nth d.other c
  let inv := num32 (d.inv.getD k 0#32)
  let tile := (List.range (d.rows * d.cols)).map fun n =>
    let term := rne32 (((d.a (n / d.cols) k).mul (d.b (n % d.cols) k)).mul inv)
    (fadd (x.tile.getD n 0#32) term).1
  let e := rne32 ((inv.mul (FNum.sum ((List.range d.rows).map fun i => d.a i k))).mul
    (FNum.sum ((List.range d.cols).map fun j => d.b j k)))
  let neg (v : Word) : Word := v ^^^ 0x80000000#32
  let n := x.s + 1
  let d1 := (fadd e (neg x.mean)).1
  let mean := (fadd x.mean (divWord d1 n)).1
  let d2 := (fadd e (neg mean)).1
  { tile, s := n, mean, m2 := (fadd x.m2 (fmul d1 d2).1).1 }

/-- var of the variance register (23 R288, R290). -/
def varWord (s : Nat) (m2 : Word) : Word := if 2 ≤ s then divWord m2 (s - 1) else 0#32

/-- The stop test of sampled mode. -/
def tolMet (var mean tau : Word) (s : Nat) : Bool :=
  let v := num32 var
  let m := num32 mean
  let t := num32 tau
  v.isFin && m.isFin && t.isFin && !(t.val.isNeg) &&
    v.val.le ((Q.int s).mul ((t.val.mul t.val).mul (m.val.mul m.val)))

/-- Batches of up to six samples until the tolerance or the cap: the state, the reason, and the batches drawn. -/
def drawBatches (d : Draws) : Nat → Sampling → Nat → Sampling × Nat × Nat
  | 0, x, n => (x, 2, n)
  | fuel + 1, x, n =>
    let last := min (x.s + 6) d.cap
    let x := (List.range (last - x.s)).foldl (fun y _ => drawOne d y) x
    if 6 ≤ x.s && tolMet (varWord x.s x.m2) x.mean d.tau x.s then (x, 1, n + 1)
    else if x.s = d.cap then (x, 2, n + 1)
    else drawBatches d fuel x (n + 1)

/-- The result of a sampled product: words of the rows × cols corner, the variance register and the batches drawn. -/
structure Sampled where
  tile : List Word
  variance : Variance
  batches : Nat
  deriving DecidableEq, Repr

/-- A sampled product of tiles with norm vectors na and nb (23 R288). -/
def sampledProduct (ha hb : TileHead) (ta tb : List Byte) (na nb : List Word) (cap : Nat) (seed tau : Word) : Sampled :=
  let n := ha.rows * hb.rows
  let k := ha.klen
  let bad (w : Word) : Bool :=
    match num32 w with
    | .fin s q => s && !q.isZero
    | _ => true
  if (na.take k).any bad || (nb.take k).any bad then
    { tile := List.replicate n canonicalNan, variance := { s := 0, mean := 0, m2 := 0, reason := 4 }, batches := 0 }
  else
    let wgt := (List.range k).map fun i => (num32 (na.getD i 0#32)).val.abs.mul (num32 (nb.getD i 0#32)).val.abs
    let t := wgt.foldl Q.add ⟨0, 1⟩
    if t.isZero then
      { tile := List.replicate n 0#32, variance := { s := 0, mean := 0, m2 := 0, reason := 3 }, batches := 0 }
    else
      let (thr, al) := aliasTable wgt t
      let inv := wgt.map fun w => if w.isZero then 0#32 else rne32 (.ofQ (t.div w))
      let d : Draws :=
        { rows := ha.rows, cols := hb.rows, klen := k, a := tileElem ha ta, b := tileElem hb tb, inv, thr, other := al
          seed, cap, tau }
      let (x, reason, batches) := drawBatches d (cap / 6 + 1) { tile := List.replicate n 0#32, s := 0, mean := 0, m2 := 0 } 0
      { tile := x.tile.map fun w => divWord w x.s
        variance := { s := x.s, mean := x.mean, m2 := x.m2, reason := reason }, batches }

end Sys2Proof.Machine
end

