-- ==== Sys2Proof/Machine/Millstone.lean ====
section
/-! DEFINITION. Millstone matrix instructions (chapter 23): reservation, tiles, joint issue, the commands of queue MATRIX
and their publication. -/

namespace Sys2Proof.Machine

/-! ## Places -/

/-- The cause of a Millstone scratch operand (23 R269). -/
def padCause (s : State) (team core addr n align : Nat) : Option (Nat × Nat) :=
  if addr % align ≠ 0 then some (0x040, addr)
  else if (ownPad s team core addr n).isNone then some (0x046, addr) else none

/-- The team holds a tile on the core. -/
def holdsTile (s : State) (team core t : Nat) : Bool := (s.core core).tiles.get t = some team

/-- The lowest of several causes. -/
def lowest (cs : List (Option (Nat × Nat))) : Option (Nat × Nat) := cs.foldl lower none

/-! ## Footprints, reports and the waits (23 R278 to R280) -/

/-- Adds the footprint of a range of a command; touched: its result is already unpredictable (23 R277, R279). -/
def addFootprint (s : State) (core team serial : Nat) (dest : MillDest) (touched : Bool) (k n : Nat) : State :=
  let c := s.core core
  s.setCore core { c with footprints := c.footprints ++
    [{ team, serial, first := k / 16, count := (k + n + 15) / 16 - k / 16, dest, touched }] }

/-- The Millstone commands a team has posted on a core that have not published, by serial. -/
def millSerials (s : State) (core team : Nat) : List Nat :=
  ((s.core core).commands.filter fun c => c.queue = 3 && c.team = team).map Command.serial

/-- The commands that a team has posted on a core and no MWAIT has covered, by serial, with those given: what an MWAIT that
issues now covers (23 R278). -/
def coveredNow (s : State) (core team : Nat) (also : List Nat) : List Nat :=
  sortAsc (((s.core core).footprints.filter fun f => f.team = team).map Footprint.serial ++ also)

/-- A footprint that an MWAIT of a team covers: of a command named (23 R278). -/
def Footprint.coveredBy (f : Footprint) (team : Nat) (named : List Nat) : Bool := f.team = team && named.contains f.serial

/-- The error reports that an MWAIT covers, the lowest first (23 R280). -/
def coveredReport (s : State) (core team : Nat) (named : List Nat) : Option Nat :=
  let c := s.core core
  let mine := (c.footprints.filter fun f => f.coveredBy team named).map Footprint.serial
  least ((c.reports.filter fun e => mine.contains e.1).map fun e => (true, e.2))

/-- An MWAIT of a crew ends: the footprints and reports it covers are gone, and it acquires what the publications carried
(23 R278). -/
def coverAll (s : State) (key team : Nat) (named : List Nat) : State :=
  let core := coreOf key
  let c := s.core core
  let gone := (c.footprints.filter fun f => f.coveredBy team named).map Footprint.serial
  acquireSig (s.setCore core { c with
    footprints := c.footprints.filter fun f => !f.coveredBy team named
    reports := c.reports.filter fun e => !gone.contains e.1 }) key c.milled

/-- The words of MVAR (23 R290). -/
def varianceWords (v : Variance) : List Word :=
  [BitVec.ofNat 32 v.s, v.mean, varWord v.s v.m2, BitVec.ofNat 32 v.reason]

/-- Tiles of a mask become free. -/
def freeTiles (s : State) (core team : Nat) (mask : BitVec 64) : State :=
  let c := s.core core
  s.setCore core { c with tiles := c.tiles.filter fun e => !(e.2 = team && mask.getLsbD e.1) }

def freeTileNumbers (c : Core) : List Nat := (List.range 64).filter fun t => (c.tiles.get t).isNone
def tilesHeld (c : Core) (team : Nat) : Nat := (c.tiles.filter fun e => e.2 = team).length

def teamAge (s : State) (team : Nat) : Nat := ((s.teams.get team).map Team.age).getD 0

/-- Grants the lowest-numbered free tiles: the mask. -/
def grantTiles (s : State) (core team n : Nat) : State × BitVec 64 :=
  let c := s.core core
  let ts := (freeTileNumbers c).take n
  (s.setCore core { c with tiles := ts.foldl (fun m t => m.set t team) c.tiles }
   , ts.foldl (fun m t => m ||| (1#64 <<< t)) 0#64)

/-- The waiting requests for tiles on a core, in order of arrival, with their teams. -/
def allocWaits (s : State) (core : Nat) : List (Nat × Nat × Nat × Nat) :=
  (sleepersWhere s fun sl => coreOf sl.crew = core && (match sl.what with | .alloc _ _ => true | _ => false)).filterMap
    fun e => match e.2.what, s.crews.get e.2.crew with
      | .alloc n dst, some c => some (e.1, c.team, n, dst)
      | _, _ => none

/-- The most tiles a team may hold on a core (03 R30; 23 R272). -/
def tileLimit (s : State) (team : Nat) : Nat := ((s.launchOf team).map fun l => l.record.acc.toNat).getD 0

/-- The age rule of waiting requests (23 R274). A request that would take its team beyond ACC, since another of the team's
has been granted meanwhile, does not fit (DEDUCED from R272, log 80). -/
def serveAlloc (s : State) (core : Nat) : Nat → State
  | 0 => s
  | fuel + 1 =>
    let ws := allocWaits s core
    let oldest := ws.foldl (fun (b : Option (Nat × Nat × Nat × Nat)) x =>
      match b with
      | none => some x
      | some y => if teamAge s x.2.1 < teamAge s y.2.1 then some x else b) none
    match oldest with
    | none => s
    | some (id, team, n, dst) =>
      if n ≤ (freeTileNumbers (s.core core)).length && n + tilesHeld (s.core core) team ≤ tileLimit s team then
        let (s, mask) := grantTiles s core team n
        serveAlloc (finishSleeper s id dst (fun _ => split64 mask ++ [0#32]) 3) core fuel
      else
        (ws.filter fun x => teamAge s team < teamAge s x.2.1 && 0 < tilesHeld (s.core core) x.2.1).foldl
          (fun s x => finishSleeper s x.1 x.2.2.2 (fun _ => [0#32, 0#32, 2#32]) 3) s

/-- Ends the wait of a sleeper whose Millstone commands have all published. -/
def finishMill (s : State) (core id : Nat) (sl : Sleeper) : State :=
  match s.crews.get sl.crew with
  | none => s.setSleepers (s.sleepers.erase id)
  | some c =>
    match sl.what with
    | .mill _ covered dst =>
      let report := coveredReport s core c.team covered
      let s := coverAll s sl.crew c.team covered
      (match report, dst with
       | some cause, _ => raiseSleeper s id cause
       | none, some d => finishSleeper s id d (fun _ => varianceWords (s.core core).variance) 4
       | none, none => wakeSleeper s id)
    | .release _ =>
      let k := s.core core
      let s := if k.mill = some c.team then s.setCore core { k with mill := none } else s
      wakeSleeper s id
    | .free _ mask => wakeSleeper (freeTiles s core c.team mask) id
    | _ => s

/-- The tile a command's work names. -/
def tileOf : Work → Option Nat
  | .mma t _ _ _ _ _ | .mmas t _ _ _ _ _ _ _ | .accwr t _ _ _ | .acczero t => some t
  | .accrd _ t _ _ => some t
  | _ => none

/-- The commands of a team that name one of the tiles of a mask and have not published, by serial (23 R275). -/
def tileSerials (s : State) (core team : Nat) (mask : BitVec 64) : List Nat :=
  ((s.core core).commands.filter fun c =>
    c.team = team && (match tileOf c.work with | some t => t < 64 && mask.getLsbD t | none => false)).map Command.serial

/-- A serial, or a signature's sleeper, is no longer waited for; waits with nothing left end. An MREL and an ACCFREE wait for
every command that stands when one publishes, those posted since among them (23 R271, R275). -/
def serveMill (s : State) (core gone : Nat) : State :=
  let drop (l : List Nat) : List Nat := l.filter fun x => x ≠ gone
  let less (sl : Sleeper) : Awaits :=
    let team := ((s.crews.get sl.crew).map Crew.team).getD 0
    match sl.what with
    | .mill l all d => .mill (drop l) all d
    | .release _ => .release (millSerials s core team)
    | .free _ m => .free (tileSerials s core team m) m
    | x => x
  let s := s.setSleepers (s.sleepers.map fun e => if coreOf e.2.crew = core then (e.1, { e.2 with what := less e.2 }) else e)
  let overNow (w : Awaits) : Bool :=
    match w with
    | .mill l _ _ | .release l | .free l _ => l.isEmpty
    | _ => false
  (sleepersWhere s fun sl => coreOf sl.crew = core && overNow sl.what).foldl (fun s e =>
    match s.sleepers.get e.1 with
    | some sl => finishMill s core e.1 sl
    | none => s) s

/-- A joint operation has been posted: the waits for its signatures become waits for its serial. -/
def replaceSigned (s : State) (core old new : Nat) : State :=
  let sub (l : List Nat) : List Nat := l.map fun x => if x = old then new else x
  let s := s.setCrews (s.crews.map fun e => if coreOf e.1 = core then (e.1, { e.2 with signed := sub e.2.signed }) else e)
  s.setSleepers (s.sleepers.map fun e =>
    if coreOf e.2.crew = core then
      (e.1, { e.2 with what := match e.2.what with | .mill l all d => .mill (sub l) (sub all) d | x => x })
    else e)

/-- A signed operation is over for its signers. -/
def dropSigned (s : State) (core gone : Nat) : State :=
  let s := s.setCrews (s.crews.map fun e =>
    if coreOf e.1 = core then (e.1, { e.2 with signed := e.2.signed.filter fun x => x ≠ gone }) else e)
  serveMill s core gone

/-! ## Immediate instructions -/

/-- MRES (23 R270). -/
def execMres (f : F64) (s : State) : Out :=
  issue (.mres f) s fun env s =>
    let core := coreOf env.key
    let k := s.core core
    let team := env.crew.team
    if env.parts.isEmpty then { s := s }
    else
      match k.mill with
      | some t => writeAll env s [boolWord (t = team)]
      | none => writeAll env (s.setCore core { k with mill := some team, variance := .reset }) [1#32]

/-- MREL (23 R271). -/
def execMrel (f : F64) (s : State) : Out :=
  issue (.mrel f) s fun env s =>
    let core := coreOf env.key
    let k := s.core core
    if k.mill ≠ some env.crew.team then { s := s }
    else
      match millSerials s core env.crew.team with
      | [] => { s := s.setCore core { k with mill := none } }
      | l => sleepOn env s (.release l)

/-- ACCALLOC (23 R273, R274): a waiting request joins those that the end of the clock serves. -/
def execAccalloc (f : F64) (s : State) : Out :=
  issue (.accalloc f) s fun env s =>
    let core := coreOf env.key
    let k := s.core core
    let team := env.crew.team
    let n := f.imm.toNat
    let most := tileLimit s team
    if env.parts.isEmpty then { s := s }
    else if most < n + tilesHeld k team then raiseAll env s 0x0C6
    else if f.mod.getLsbD 0 then sleepOn env s (.alloc n f.vd.toNat)
    else if n ≤ (freeTileNumbers k).length && (allocWaits s core).isEmpty then
      let (s, mask) := grantTiles s core team n
      writeAll env s (split64 mask ++ [0#32])
    else writeAll env s [0#32, 0#32, 1#32]

/-- ACCFREE (23 R275). -/
def execAccfree (f : F64) (s : State) : Out :=
  issue (.accfree f) s fun env s =>
    match env.parts with
    | [] => { s := s }
    | p :: _ =>
      let core := coreOf env.key
      let team := env.crew.team
      let mask := pair64 p.a
      let named := (List.range 64).filter fun t => mask.getLsbD t
      if named.any fun t => !holdsTile s team core t then raiseAll env s 0x0C3
      else
        let busy := tileSerials s core team mask
        if busy.isEmpty then { s := freeTiles s core team mask } else sleepOn env s (.free busy mask)

/-- JSET (23 R281). -/
def execJset (f : F64) (s : State) : Out :=
  issue (.jset f) s fun env s =>
    let core := coreOf env.key
    let team := env.crew.team
    let n := f.mod.toNat % 8
    let k := f.imm.toNat
    match s.tctxs.get (tctxKey team core), recordOf s env.crew with
    | some t, some r =>
      let j := (t.joints.get n).getD .empty
      let share := (r.crews.toNat + 1) / (r.cores.toNat + 1)
      let here := ((crewsOf s team).filter fun e => coreOf e.1 = core).length
      if j.bad then raiseAll env s 0x104
      else if !j.sigs.isEmpty || (share < k && here < k) then raiseAll env s 0x082
      else { s := s.setTctx team core { t with joints := t.joints.set n { j with need := some k } } }
    | _, _ => { s := s }

/-- MOPR (23 R277): a release at core scope by the threads that issue it; the scratchpad writes that happen before it are
ordered before the reads of the crew's later commands. -/
def execMopr (f : F64) (s : State) : Out :=
  issue (.mopr f) s fun env s =>
    let x := releaseSig s env.key 2 env.lanes
    let s := releaseAt s env.key 2
    { s := s.setCrews (s.crews.modify env.key fun c => { c with mopr := x.know }) }

/-- The wait of MWAIT and MVAR (23 R278, R290): at once when nothing is outstanding, else asleep. -/
def millWait (env : Env) (s : State) (dst : Option Nat) : Eff :=
  let core := coreOf env.key
  let team := env.crew.team
  let l := sortAsc (millSerials s core team ++ env.crew.signed)
  if env.parts.isEmpty then { s := s }
  else if !l.isEmpty then sleepOn env s (.mill l (coveredNow s core team l) dst)
  else
    let named := coveredNow s core team []
    let report := coveredReport s core team named
    let s := coverAll s env.key team named
    match report, dst with
    | some cause, _ => raiseAll env s cause
    | none, some _ => writeAll env s (varianceWords (s.core core).variance)
    | none, none => { s := s }

/-- MWAIT (23 R278). -/
def execMwait (f : F64) (s : State) : Out := issue (.mwait f) s fun env s => millWait env s none

/-- MVAR (23 R290). -/
def execMvar (f : F64) (s : State) : Out :=
  issue (.mvar f) s fun env s =>
    if (s.core (coreOf env.key)).mill ≠ some env.crew.team then raiseAll env s 0x0C2
    else millWait env s (some f.vd.toNat)

/-! ## Posting commands to queue MATRIX -/

/-- What trying to post a command gives. -/
inductive Posted where
  | hold (s : State)
  | raise (s : State) (cause value : Nat)
  | posted (s : State) (serial : Nat)

/-- What the checks of a command give (23 R279, R285): its work, the scratchpad ranges of its operands and its destination by
key and length, the headers of its tiles by key, and where its result goes. -/
structure Milling where
  work : Work
  ranges : List (Nat × Nat) := []
  heads : List (Nat × List Byte) := []
  dest : MillDest := .pad 0 0

/-- A header is read before a write of it is ordered: the command's result is then unpredictable, though the checks take
the header's bytes as they stand (23 R277; log 79). -/
def headsLoose (s : State) (know : Map Nat) (hs : List (Nat × List Byte)) : Bool :=
  hs.any fun h => (List.range 4).any fun g => !s.mem.orderedFor know (h.1 / 16 + g)

/-- What a core's queue MATRIX knows of scratchpad writes at performance: what its command knew, and every earlier command's
writes (23 R268, R277). -/
def millKnow (s : State) (core : Nat) (know : Map Nat) : Map Nat := know.set (engineWriter core 3) s.free

/-- Tries to post: the checks of issue, acceptance, the checks after acceptance (23 R267, R285). know: the scratchpad writes
ordered before the command's reads (R277). -/
def millPost (env : Env) (s : State) (p : Part1) (entries : Nat) (word : Option WordAt) (scope : Nat) (know : Map Nat)
    (pre : Option (Nat × Nat)) (make : Except (Nat × Nat) Milling) (later : Bool := false) : Posted :=
  let core := coreOf env.key
  let pr : Present := { queue := 3, entries, token := none, word, scope, after := false }
  match pre with
  | some (c, v) => .raise (refuseCommand s env) c v
  | none =>
    if !mayAccept s env.key env.is.pc 3 entries none then .hold (awaitAcceptance s env pr)
    else
      let s := enterPool s env pr
      if later then .hold s
      else
      match make with
      | .error (c, v) => .raise (refuseCommand s env) c v
      | .ok m =>
        let serial := ((waiterAt s env.key env.is.pc).bind Waiter.accepted).getD s.serial
        let loose := headsLoose s (millKnow s core know) m.heads
        let s := postCommand s env p.l pr m.work
        let s := updateCommand s core serial fun c => { c with till := s.clock, heads := m.heads.map Prod.snd, know }
        .posted (m.ranges.foldl (fun s r => addFootprint s core env.crew.team serial m.dest loose r.1 r.2) s) serial

/-- A command of the lowest participant, without joint issue. -/
def millCommand (i : Instr) (s : State) (entries : Nat) (word : Part1 → Option WordAt) (scope : Nat)
    (pre : Env → State → Part1 → Option (Nat × Nat)) (make : Env → State → Part1 → Except (Nat × Nat) Milling) : Out :=
  issue i s fun env s =>
    match env.parts with
    | [] => { s := s }
    | p :: _ =>
      let wd := word p
      let wordBad := match wd with
        | some x => if x.addr.toNat % 8 ≠ 0 then some (0x040, x.addr.toNat) else none
        | none => none
      match millPost env s p entries wd scope env.crew.mopr (lower wordBad (pre env s p)) (make env s p) with
      | .hold s => { s := s, hold := true }
      | .raise s c v => raiseAll env s c v
      | .posted s _ => { s := s }

/-- The team does not hold the reservation. -/
def reserveCause (s : State) (team core : Nat) : Option (Nat × Nat) :=
  if (s.core core).mill = some team then none else some (0x0C2, 0)

def tileCause (s : State) (team core t : Nat) : Option (Nat × Nat) :=
  if t < 64 && holdsTile s team core t then none else some (0x0C3, 0)

/-- MIDX (23 R284): the values of every participant. -/
def execMidx (f : F64) (s : State) : Out :=
  millCommand (.midx f) s 1 (fun _ => none) 2
    (fun env s _ => reserveCause s env.crew.team (coreOf env.key))
    fun env _ _ =>
      let lane (h : Part1 → Word) (l : Nat) : Word := match env.parts.find? fun p => p.l = l with | some p => h p | none => 0xFFFFFFFF#32
      .ok { work := .midx ((List.range 32).map (lane fun p => w p.a 0) ++ (List.range 32).map (lane fun p => w p.b 0)) }

/-- Rows of a tile and the bytes at a scratch address (23 R276). -/
def rowsCause (env : Env) (s : State) (f : F64) (p : Part1) : Option (Nat × Nat) :=
  let core := coreOf env.key
  let team := env.crew.team
  let first := f.imm.toNat % 64
  let count := f.mod.toNat % 64 + 1
  lowest [padCause s team core (w p.b 0).toNat (256 * count) 16, tileCause s team core (w p.c 0).toNat
    , if 64 < first + count then some (0x0C6, 0) else none]

/-- The scratchpad key and length of transferred rows. -/
def rowsRange (env : Env) (s : State) (f : F64) (p : Part1) : Nat × Nat :=
  let n := 256 * (f.mod.toNat % 64 + 1)
  ((ownPad s env.crew.team (coreOf env.key) (w p.b 0).toNat n).getD 0, n)

/-- ACCRD (23 R276). -/
def execAccrd (f : F64) (s : State) : Out :=
  millCommand (.accrd f) s 1
    (fun p => if f.mod.getLsbD 6 then some { addr := pair64 p.d, seq := (pair64 p.d 2).setWidth 48 } else none)
    (fieldOf f.mod.toNat 9 7) (fun env s p => rowsCause env s f p)
    fun env s p =>
      let r := rowsRange env s f p
      .ok { work := .accrd (w p.b 0) (w p.c 0).toNat (f.imm.toNat % 64) (f.mod.toNat % 64 + 1), ranges := [r]
            dest := .pad r.1 r.2 }

/-- ACCWR (23 R276). -/
def execAccwr (f : F64) (s : State) : Out :=
  millCommand (.accwr f) s 1 (fun _ => none) 2 (fun env s p => rowsCause env s f p)
    fun env s p =>
      let first := f.imm.toNat % 64
      let count := f.mod.toNat % 64 + 1
      .ok { work := .accwr (w p.c 0).toNat (w p.b 0) first count, ranges := [rowsRange env s f p]
            dest := .tile (w p.c 0).toNat first count 64 false }

/-- ACCZERO (23 R276). -/
def execAcczero (f : F64) (s : State) : Out :=
  millCommand (.acczero f) s 1 (fun _ => none) 2 (fun env s p => tileCause s env.crew.team (coreOf env.key) (w p.c 0).toNat)
    fun _ _ p => .ok { work := .acczero (w p.c 0).toNat }

/-! ## Canonical operands -/

/-- A tile operand that the checks accept: its header and key. -/
structure Operand where
  head : TileHead
  key : Nat
  bytes : List Byte
  deriving DecidableEq, Repr

/-- A tile operand, or the cause of its address or its header (23 R269, R285; 09 R125). -/
def tileOperand (s : State) (team core addr : Nat) : Except (Nat × Nat) Operand :=
  match ownPad s team core addr 64 with
  | none => .error (0x046, addr)
  | some k =>
    if s.mem.scratchPoisoned k 64 then .error (0x101, 0)
    else
      let bs := s.mem.scratchBytes k 64
      if headBad bs then .error (0x0C6, 0)
      else
        let h := TileHead.parse bs
        if (ownPad s team core addr h.bytes).isNone then .error (0x046, addr) else .ok { head := h, key := k, bytes := bs }

/-- The cause of an operand's checks, if any. -/
def failure {α : Type} : Except (Nat × Nat) α → Option (Nat × Nat)
  | .error e => some e
  | .ok _ => none

/-- The scratchpad range of a tile operand, and its header by key. -/
def Operand.range (o : Operand) : Nat × Nat := (o.key, o.head.bytes)
def Operand.headAt (o : Operand) : Nat × List Byte := (o.key, o.bytes)

/-- The pairing rules of R285. -/
def pairBad (a b : TileHead) : Bool := a.role ≠ 0 || b.role ≠ 1 || a.fmt ≠ b.fmt || a.steps ≠ b.steps || a.klen ≠ b.klen

/-- The number a group's command of queue MATRIX has or takes at its acceptance (21 R239, R241). -/
def serialOf (env : Env) (s : State) : Nat := ((waiterAt s env.key env.is.pc).bind Waiter.accepted).getD s.serial

/-- The index vector in force for a team's command of a number: the last MIDX queued before it, else the one set (23 R284). -/
def indexInForce (s : State) (core team serial : Nat) : Option (List Word) :=
  let queued := (s.core core).commands.filterMap fun c =>
    if c.team = team && c.serial < serial then (match c.work with | .midx rows => some rows | _ => none) else none
  match queued.getLast? with
  | some rows => some rows
  | none => (s.tctxs.get (tctxKey team core)).bind TeamCtx.index

/-- The checks of MMA after acceptance (23 R285). -/
def mmaMake (env : Env) (s : State) (f : F64) (p : Part1) : Except (Nat × Nat) Milling :=
  let core := coreOf env.key
  let team := env.crew.team
  let t := (w p.c 0).toNat
  let ga := f.mod.getLsbD 5
  match tileOperand s team core (w p.a 0).toNat, tileOperand s team core (w p.b 0).toNat with
  | .ok a, .ok b =>
    let indexBad := ga && (match indexInForce s core team (serialOf env s) with
      | none => true
      | some rows => rows.any fun x => x ≠ 0xFFFFFFFF#32 && a.head.rows ≤ x.toNat)
    if pairBad a.head b.head || indexBad then .error (0x0C6, 0)
    else
      .ok { work := .mma t (w p.a 0) (w p.b 0) (f.mod.getLsbD 4) ga (f.mod.getLsbD 6)
            ranges := [a.range, b.range], heads := [a.headAt, b.headAt]
            dest := .tile t 0 (if ga then 64 else a.head.rows) b.head.rows false }
  | a, b => .error ((lower (failure a) (failure b)).getD (0x0C6, 0))

/-- The checks of MMA and MMAS at issue (23 R285). -/
def mmaPre (env : Env) (s : State) (p : Part1) : Option (Nat × Nat) :=
  let core := coreOf env.key
  let team := env.crew.team
  lowest [padCause s team core (w p.a 0).toNat 64 64, padCause s team core (w p.b 0).toNat 64 64
    , reserveCause s team core, tileCause s team core (w p.c 0).toNat]

/-- The checks of MMAS at issue: those of MMA and the addresses of the norm vectors (23 R269, R288). -/
def mmasPre (env : Env) (s : State) (p : Part1) : Option (Nat × Nat) :=
  let norm (k : Nat) : Option (Nat × Nat) := padCause s env.crew.team (coreOf env.key) (w env.more k).toNat 4 16
  lowest [mmaPre env s p, norm 0, norm 1]

/-- The checks of MMAS after acceptance (23 R288), the lowest cause of all that apply (R269). -/
def mmasMake (env : Env) (s : State) (p : Part1) : Except (Nat × Nat) Milling :=
  let core := coreOf env.key
  let team := env.crew.team
  let t := (w p.c 0).toNat
  let g (k : Nat) : Word := w env.more k
  let capBad : Option (Nat × Nat) := if (g 2).toNat = 0 || 1048576 < (g 2).toNat then some (0x0C6, 0) else none
  match tileOperand s team core (w p.a 0).toNat, tileOperand s team core (w p.b 0).toNat with
  | .ok a, .ok b =>
    let n := 4 * a.head.klen
    let pair : Option (Nat × Nat) := if pairBad a.head b.head then some (0x0C6, 0) else none
    match lowest [padCause s team core (g 0).toNat n 16, padCause s team core (g 1).toNat n 16, pair, capBad] with
    | some e => .error e
    | none =>
      let range (x : Word) : Nat × Nat := ((ownPad s team core x.toNat n).getD 0, n)
      .ok { work := .mmas t (w p.a 0) (w p.b 0) (g 0) (g 1) (g 2) (g 3) (g 4)
            ranges := [a.range, b.range, range (g 0), range (g 1)], heads := [a.headAt, b.headAt]
            dest := .tile t 0 a.head.rows b.head.rows true }
  | a, b => .error ((lowest [failure a, failure b, capBad]).getD (0x0C6, 0))

/-! ## Joint issue (23 R282) -/

/-- Every signer of a joint register moves on, or raises a cause. -/
def endSigners (s : State) (core : Nat) (sigs : List Signature) (raise : Option (Nat × Nat)) (serial : Option Nat) : State :=
  sigs.foldl (fun s g =>
    let s := match serial with
      | some n => replaceSigned s core g.sleeper n
      | none => dropSigned s core g.sleeper
    match raise with
    | some (c, v) => raiseSleeper s g.sleeper c v
    | none => wakeSleeper s g.sleeper) s

/-- An MMA that takes its rows from the index vector waits for the commands accepted before it, a MIDX perhaps among them, to
be posted (23 R285). -/
def indexOwed (i : Instr) (env : Env) (s : State) : Bool :=
  (match i with | .mma f => f.mod.getLsbD 5 | _ => false) && owedFirst (s.core (coreOf env.key)) 3 (serialOf env s)

/-- MMA and MMAS: a plain post, or a signature in a joint register. -/
def matrixIssue (i : Instr) (f : F64) (s : State) (entries : Nat)
    (pre : Env → State → Part1 → Option (Nat × Nat)) (make : Env → State → Part1 → Except (Nat × Nat) Milling) : Out :=
  issue i s fun env s =>
    match env.parts with
    | [] => { s := s }
    | p :: _ =>
      let core := coreOf env.key
      let team := env.crew.team
      let jv := f.mod.getLsbD 3
      if !jv then
        (match millPost env s p entries none 2 env.crew.mopr (pre env s p) (make env s p) (indexOwed i env s) with
         | .hold s => { s := s, hold := true }
         | .raise s c v => raiseAll env s c v
         | .posted s _ => { s := s })
      else if env.is.handler then raiseAll env s 0x085
      else
        let n := f.mod.toNat % 8
        match s.tctxs.get (tctxKey team core) with
        | none => { s := s }
        | some t =>
          let j := (t.joints.get n).getD .empty
          let fields := [w p.a 0, w p.b 0, w p.c 0, BitVec.ofNat 32 f.mod.toNat] ++ env.more
          let differs := match j.sigs with | g :: _ => g.fields ≠ fields | [] => false
          if j.bad then raiseAll env s 0x104
          else
            match j.need with
            | none => raiseAll env s 0x082
            | some k =>
              if differs || j.sigs.any (fun g => g.crew = env.key) then raiseAll env s 0x082
              else if j.sigs.length + 1 < k then
                let e := sleepOn env s (.joint n)
                let id := s.serial
                let sig : Signature := { crew := env.key, sleeper := id, fields, know := env.crew.mopr }
                let t' := { t with joints := t.joints.set n { j with sigs := j.sigs ++ [sig] } }
                let s' := e.s.setTctx team core t'
                { e with s := s'.setCrews (s'.crews.modify env.key fun c => { c with signed := c.signed ++ [id] }) }
              else
                let empty (s : State) : State :=
                  s.setTctxs (s.tctxs.modify (tctxKey team core) fun t => { t with joints := t.joints.set n { j with sigs := [] } })
                let know := j.sigs.foldl (fun m g => joinKnow m g.know) env.crew.mopr
                match millPost env s p entries none 2 know (pre env s p) (make env s p) (indexOwed i env s) with
                | .hold s => { s := s, hold := true }
                | .raise s c v => raiseAll env (endSigners (empty s) core j.sigs (some (c, v)) none) c v
                | .posted s serial =>
                  let s := endSigners (empty s) core j.sigs none (some serial)
                  let s := s.setCrews (s.crews.modify env.key fun c => { c with signed := c.signed ++ [serial] })
                  { s := updateCommand s core serial fun c => { c with signers := j.sigs.map Signature.crew ++ [env.key] } }

/-- MMA (23 R285). -/
def execMma (f : F64) (s : State) : Out := matrixIssue (.mma f) f s 2 mmaPre fun env s p => mmaMake env s f p

/-- MMAS (23 R288). -/
def execMmas (f : F64) (s : State) : Out := matrixIssue (.mmas f) f s 4 mmasPre mmasMake

/-- MNORM (23 R287). -/
def execMnorm (f : F64) (s : State) : Out :=
  millCommand (.mnorm f) s 2 (fun _ => none) 2
    (fun env s p =>
      let core := coreOf env.key
      let team := env.crew.team
      lowest [padCause s team core (w p.a 0).toNat 64 64, padCause s team core (w p.b 0).toNat 4 16
        , reserveCause s team core])
    fun env s p =>
      let core := coreOf env.key
      let team := env.crew.team
      match tileOperand s team core (w p.a 0).toNat with
      | .error e => .error e
      | .ok a =>
        match ownPad s team core (w p.b 0).toNat (4 * a.head.klen) with
        | none => .error (0x046, (w p.b 0).toNat)
        | some d =>
          .ok { work := .mnorm (w p.b 0) (w p.a 0), ranges := [a.range, (d, 4 * a.head.klen)], heads := [a.headAt]
                dest := .pad d (4 * a.head.klen) }

/-! ## The work of the commands (23 R268, R277, R280) -/

/-- The bytes a command reads: free in granules whose writes are not all ordered before it (23 R277, log 1). -/
def operandBytes (s : State) (know : Map Nat) (k n : Nat) : List Byte :=
  (List.range n).map fun j =>
    if s.mem.orderedFor know ((k + j) / 16) then s.mem.scratchByte (k + j) else Config.freeByte (s.free * 2 ^ 32 + k + j)

/-- A command's tile at performance: the header as it was read after acceptance, and the bytes with their poison. -/
def readTile (s : State) (c : Command) (core : Nat) (addr : Word) (n : Nat) : Option (TileHead × List Byte × Bool) :=
  let head := c.heads.getD n []
  let h := TileHead.parse head
  (ownPad s c.team core addr.toNat h.bytes).map fun k =>
    (h, head ++ operandBytes s (millKnow s core c.know) (k + 64) (h.bytes - 64), s.mem.scratchPoisoned k h.bytes)

/-- Words of a norm vector, with their poison. -/
def readWords (s : State) (c : Command) (core : Nat) (addr : Word) (n : Nat) : List Word × Bool :=
  match ownPad s c.team core addr.toNat (4 * n) with
  | some k => (byteWords (operandBytes s (millKnow s core c.know) k (4 * n)), s.mem.scratchPoisoned k (4 * n))
  | none => ([], true)

/-- Writes a command's result into scratchpad by key (23 R276, R287). -/
def putResult (s : State) (core k : Nat) (bs : List Byte) : MemSys :=
  (s.mem.putScratch k bs).noteScratch [engineWriter core 3] s.free k bs.length

/-- Poisons a whole tile, or clears its poison. -/
def poisonTile (m : MemSys) (core t : Nat) (on : Bool) : MemSys :=
  (List.range 1024).foldl (fun m g =>
    let k := accKey core t 0 0 / 4 + g
    { m with accPoison := if on then m.accPoison.set k () else m.accPoison.erase k }) m

/-- Whether a poisoned granule lies in the first columns of some of a tile's rows. -/
def rowsPoisoned (m : MemSys) (core t cols : Nat) (rows : List Nat) : Bool :=
  rows.any fun i => (List.range ((cols + 3) / 4)).any fun g => (m.accPoison.get (accKey core t i (4 * g) / 4)).isSome

/-- Sets every element of a tile to +0. -/
def zeroTile (m : MemSys) (core t : Nat) : MemSys :=
  let lo := accKey core t 0 0
  poisonTile { m with acc := m.acc.filter fun e => !(lo ≤ e.1 && e.1 < lo + 4096) } core t false

/-- What performing a command leaves: the state, its clocks, and an error report. -/
structure Milled where
  s : State
  clocks : Nat
  report : Option Nat := none
  /-- accumulator poison copied into the rows of an ACCRD -/
  poison : Bool := false

/-- MMA's work (23 R285): a poisoned granule that it reads stays poisoned and is reported (R280). -/
def mmaWork (s : State) (core : Nat) (c : Command) (t : Nat) (a b : Word) (zs ga clr : Bool) : Milled :=
  match readTile s c core a 0, readTile s c core b 1 with
  | some (ha, ta, pa), some (hb, tb, pb) =>
    let idx := ((s.tctxs.get (tctxKey c.team core)).bind TeamCtx.index).getD []
    let m0 := if clr then zeroTile s.mem core t else s.mem
    let rows := if ga then 64 else ha.rows
    let m := (List.range rows).foldl (fun m i =>
      let src := if ga then (idx.getD i 0xFFFFFFFF#32).toNat else i
      if ga && src = 0xFFFFFFFF then m
      else (List.range hb.rows).foldl (fun m j =>
        m.putAcc (accKey core t i j) (dotSteps ha (tileElem ha ta src) (tileElem hb tb j) zs (m.accWord (accKey core t i j)))) m) m0
    let operandBad := pa || pb
    let met := (List.range rows).filter fun i => !(ga && (idx.getD i 0xFFFFFFFF#32).toNat = 0xFFFFFFFF)
    let accBad := rowsPoisoned m core t hb.rows met
    let m := if operandBad then poisonTile m core t true else m
    { s := s.setMem m, clocks := 4 * ha.steps + (if ga then ha.steps else 0) + (if clr then 16 else 0)
      report := if operandBad then some 0x101 else if accBad then some 0x102 else none }
  | _, _ => { s := s, clocks := 0 }

/-- MMAS's work (23 R288). -/
def mmasWork (s : State) (core : Nat) (c : Command) (t : Nat) (a b na nb cap seed tau : Word) : Milled :=
  match readTile s c core a 0, readTile s c core b 1 with
  | some (ha, ta, pa), some (hb, tb, pb) =>
    let (va, qa) := readWords s c core na ha.klen
    let (vb, qb) := readWords s c core nb ha.klen
    let r := sampledProduct ha hb ta tb va vb cap.toNat seed tau
    let m := (List.range (ha.rows * hb.rows)).foldl (fun m n =>
      m.putAcc (accKey core t (n / hb.rows) (n % hb.rows)) (r.tile.getD n 0#32)) (zeroTile s.mem core t)
    let bad := pa || pb || qa || qb
    let s := s.setMem (if bad then poisonTile m core t true else m)
    let k := s.core core
    { s := s.setCore core { k with variance := r.variance }
      clocks := 2 * ha.klen + 16 + (if 3 ≤ r.variance.reason then 0 else r.batches + 16)
      report := if bad then some 0x101 else none }
  | _, _ => { s := s, clocks := 0 }

/-- MNORM's work (23 R287). -/
def mnormWork (s : State) (core : Nat) (c : Command) (dst a : Word) : Milled :=
  match readTile s c core a 0 with
  | some (h, t, bad) =>
    (match ownPad s c.team core dst.toNat (4 * h.klen) with
     | some d =>
       let bs := (List.range h.klen).flatMap fun k => natBytes 4 (normWord h t k).toNat
       let m := putResult s core d bs
       let m := if bad then (List.range ((4 * h.klen + 15) / 16)).foldl (fun m g => m.poisonScratch (d / 16 + g)) m else m
       { s := s.setMem m, clocks := h.steps * ((h.rows + 15) / 16), report := if bad then some 0x101 else none }
     | none => { s := s, clocks := 0 })
  | none => { s := s, clocks := 0 }

/-- ACCRD's work (23 R276, R280). -/
def accrdWork (s : State) (core : Nat) (c : Command) (dst : Word) (t first count : Nat) : Milled :=
  match ownPad s c.team core dst.toNat (256 * count) with
  | none => { s := s, clocks := 0 }
  | some d =>
    let k0 := accKey core t first 0
    let bs := (List.range (64 * count)).flatMap fun n => natBytes 4 (s.mem.accWord (k0 + n)).toNat
    let bad := (List.range (16 * count)).filter fun g => (s.mem.accPoison.get (k0 / 4 + g)).isSome
    let m := bad.foldl (fun m g => m.poisonScratch (d / 16 + g)) (putResult s core d bs)
    { s := s.setMem m, clocks := 2 * count, report := if bad.isEmpty then none else some 0x102, poison := !bad.isEmpty }

/-- ACCWR's work (23 R276, R280). -/
def accwrWork (s : State) (core : Nat) (c : Command) (t : Nat) (src : Word) (first count : Nat) : Milled :=
  match ownPad s c.team core src.toNat (256 * count) with
  | none => { s := s, clocks := 0 }
  | some d =>
    let k0 := accKey core t first 0
    let ws := byteWords (operandBytes s (millKnow s core c.know) d (256 * count))
    let bad := s.mem.scratchPoisoned d (256 * count)
    let m := (List.range (64 * count)).foldl (fun m n => m.putAcc (k0 + n) (ws.getD n 0#32)) s.mem
    let m := (List.range (16 * count)).foldl (fun (m : MemSys) g =>
      { m with accPoison := if bad then m.accPoison.set (k0 / 4 + g) () else m.accPoison.erase (k0 / 4 + g) }) m
    { s := s.setMem m, clocks := 2 * count, report := if bad then some 0x101 else none }

/-- The work of a command of queue MATRIX on operands that no crew has touched. -/
def cleanWork (s : State) (core : Nat) (c : Command) : Milled :=
  match c.work with
  | .midx rows =>
    { s := s.setTctxs (s.tctxs.modify (tctxKey c.team core) fun t => { t with index := some rows }), clocks := 1 }
  | .mma t a b zs ga clr => mmaWork s core c t a b zs ga clr
  | .mmas t a b na nb cap seed tau => mmasWork s core c t a b na nb cap seed tau
  | .mnorm dst a => mnormWork s core c dst a
  | .accrd dst t first count => accrdWork s core c dst t first count
  | .accwr t src first count => accwrWork s core c t src first count
  | .acczero t => { s := s.setMem (zeroTile s.mem core t), clocks := 16 }
  | _ => { s := s, clocks := 0 }

/-- The work of a command of queue MATRIX: its result is unpredictable where a crew of the team has written into its
footprint (23 R279). -/
def millWork (s : State) (core : Nat) (c : Command) : Milled :=
  let r := cleanWork s core c
  match (s.core core).footprints.find? fun f => f.serial = c.serial && f.touched with
  | some f => { r with s := spoilResult r.s core c.team f.dest }
  | none => r

/-- Charges a team's queue for clocks of a core's Millstone (03 R38; 23 R291). -/
def chargeMill (s : State) (core team clocks : Nat) : State :=
  match s.launchOf team with
  | some l =>
    let k := s.core core
    let q := l.record.jobq.toNat
    s.setCore core { k with charges := k.charges.set q ((k.charges.get q).getD 0 + clocks) }
  | none => s

/-- Charges the clocks that a core's Millstone has worked so far on the command it is performing (03 R38). -/
def accrueMill (s : State) (core : Nat) : State :=
  match headCommand s core 3 with
  | none => s
  | some c =>
    let worked := min (millWork s core c).clocks (s.clock - c.till)
    let s := chargeMill s core c.team (worked - c.charged)
    updateCommand s core c.serial fun x => { x with charged := max x.charged worked }

/-- MILLSTONE_PUBLISH (23 R268): the oldest command of queue MATRIX, once its clocks have passed, is performed and
publishes; the waits for it end. -/
def execMillstonePublish (core : Nat) (s : State) : Out :=
  match headCommand s core 3 with
  | none => .refused (.notEnabled "MILLSTONE_PUBLISH")
  | some c =>
    match wordPage s core c with
    | some (ea, p, a, b) =>
      (match awaitPage s (.command c.serial) core c.ctx (.page ea p a b) with
       | some s => .next s
       | none => .refused (.notEnabled "MILLSTONE_PUBLISH"))
    | none =>
      let r := millWork s core c
      if s.clock < c.till + r.clocks then .refused (.notEnabled "MILLSTONE_PUBLISH")
      else
        let s := chargeMill r.s core c.team (r.clocks - c.charged)
        let s := match r.report with
          | some cause =>
            let k := s.core core
            s.setCore core { k with reports := k.reports.set c.serial cause }
          | none => s
        let k := s.core core
        let s := s.setCore core { k with milled := k.milled.join (publishSig s core c) }
        let s := publish s core c 0x11 (if r.poison then 2 else 0) 0 0 false
        let s := match headCommand s core 3 with
          | some next => updateCommand s core next.serial fun x => { x with till := s.clock }
          | none => s
        .next (dropSigned s core c.serial)

end Sys2Proof.Machine
end

