-- ==== Sys2Proof/Machine/Trowel.lean ====
section
/-! DEFINITION. Trowel: table bindings, encoding a point and scattering gradients (25 R294 to R299). -/

namespace Sys2Proof.Machine

/-! ## Table descriptions (25 R295, R296) -/

/-- The level entry l of a description. -/
def HashLevel.parse (bs : List Byte) (l : Nat) : HashLevel :=
  let o := 16 + 16 * l
  { n := recAt bs o 2, logT := recAt bs (o + 2) 1 % 32, gv := recAt bs (o + 3) 1 % 2 = 1, feat := recAt bs (o + 4) 4
    grad := recAt bs (o + 8) 8 }

/-- n bytes at an address lie within the cluster window. -/
def inClusterWindow (a n : Nat) : Bool := 0x01000000 ≤ a && a + n ≤ 0x01800000

/-- A level entry is invalid (25 R296). -/
def hashLevelBad (bs : List Byte) (l : Nat) : Bool :=
  let o := 16 + 16 * l
  let v := HashLevel.parse bs l
  32 ≤ recAt bs (o + 2) 1 || 2 ≤ recAt bs (o + 3) 1 || v.n = 0 || v.logT = 0 || 19 < v.logT ||
    v.feat % 4 ≠ 0 || !inClusterWindow v.feat (4 * 2 ^ v.logT) || v.grad % 8 ≠ 0 ||
    (!v.gv && (2 ^ 32 ≤ v.grad || !inClusterWindow v.grad (8 * 2 ^ v.logT)))

/-- Levels of a description. -/
def hashLevels (bs : List Byte) : Nat := recAt bs 0 1 % 16 + 1

/-- A description is invalid (25 R295, R296). -/
def hashBad (bs : List Byte) : Bool :=
  32 ≤ recAt bs 0 1 || (bs.take 16).drop 1 ≠ List.replicate 15 0#8 ||
    (List.range (hashLevels bs)).any fun l => hashLevelBad bs l

def HashTable.parse (bs : List Byte) : HashTable :=
  { dim3 := recAt bs 0 1 / 16 % 2 = 1, levels := (List.range (hashLevels bs)).map fun l => HashLevel.parse bs l }

/-- The binding of a table slot of a team on a core. -/
def boundTable (s : State) (team core n : Nat) : Option HashTable :=
  (s.tctxs.get (tctxKey team core)).bind fun t => t.tables.get n

/-- The load of a description: its header, then the entries of its levels, no others (25 R295). -/
def loadTable (s : State) (key ctx ea : Nat) : State × Got :=
  match threadLoad s key ctx ea 16 16 false with
  | (s, .bytes bs _ _) => threadLoad s key ctx ea (16 + 16 * hashLevels bs) 16 false
  | r => r

/-- HTAB (25 R296). -/
def execHtab (f : F64) (s : State) : Out :=
  issue (.htab f) s fun env s =>
    match env.parts with
    | [] => { s := s }
    | p :: _ =>
      let ea := (pair64 p.a).toNat
      let (s, g) := loadTable s env.key (ctxOf s env.crew) ea
      match g with
      | .raise c => raiseAll env s c ea
      | .park id => { s := s, sleeps := env.parts.map fun p => (p.l, .migration id ea) }
      | .bytes bs _ _ =>
        if hashBad bs then raiseAll env s 0x0CA
        else
          let core := coreOf env.key
          match s.tctxs.get (tctxKey env.crew.team core) with
          | none => { s := s }
          | some t =>
            { s := s.setTctx env.crew.team core { t with tables := t.tables.set (f.mod.toNat % 4) (HashTable.parse bs) } }

/-! ## The corners of a query point (25 R297) -/

/-- FP32 one. -/
def oneF : Word := 0x3F800000#32

/-- A coordinate brought into [0, 1]. -/
def clampUnit (x : Word) : Word :=
  match num32 x with
  | .nan => 0#32
  | .inf n => if n then 0#32 else oneF
  | .fin n m => if n || m.isZero then 0#32 else if (Q.int 1).lt m then oneF else x

/-- The cell and fraction of a coordinate at a resolution. -/
def cellOf (n : Nat) (x : Word) : Nat × Word :=
  let s := (fmul (clampUnit x) (intToF .rne n).1).1
  let cell := min (fcvti .rdn s).1.toNat (n - 1)
  (cell, (fadd s (fneg (intToF .rne cell).1)).1)

/-- The entry of a corner of a level. -/
def hashIndex (l : HashLevel) (d : Nat) (c : List Nat) : Nat :=
  if (l.n + 1) ^ d ≤ 2 ^ l.logT then nth c 0 + nth c 1 * (l.n + 1) + nth c 2 * (l.n + 1) ^ 2
  else (nth c 0 ^^^ (nth c 1 * 0xA3C59AC3 % 2 ^ 32) ^^^ (nth c 2 * 0x5E2D58D9 % 2 ^ 32)) % 2 ^ l.logT

/-- The corners of a point in a level, in corner order: entry and weight. -/
def cornersOf (l : HashLevel) (d : Nat) (xs : List Word) : List (Nat × Word) :=
  let cf := (List.range d).map fun j => cellOf l.n (w xs j)
  (List.range (2 ^ d)).map fun k =>
    let bit (j : Nat) : Nat := k / 2 ^ j % 2
    let c := (List.range d).map fun j => (cf.getD j (0, 0)).1 + bit j
    let wt := (List.range d).foldl (fun a j =>
      let fj := (cf.getD j (0, 0)).2
      (fmul a (if bit j = 1 then fj else (fadd oneF (fneg fj)).1)).1) oneF
    (hashIndex l d c, wt)

/-- Dimensions of a table. -/
def HashTable.dims (t : HashTable) : Nat := if t.dim3 then 3 else 2

/-! ## HENC (25 R297) -/

/-- The two features of an entry, widened exactly, or the cause of an access that fails, with its fault value. -/
def readFeatures (s : State) (team ea : Nat) : Except (Nat × Nat) (Word × Word) :=
  match scratchAt s team ea 4 with
  | none => .error (0x046, ea)
  | some k =>
    if s.mem.scratchPoisoned k 4 then .error (0x101, 0)
    else
      let bs := scratchSeen s team k 4
      .ok (bf16Word (bytesNat (bs.take 2)), bf16Word (bytesNat (bs.drop 2)))

/-- The two sums of a level for a lane, or the lowest cause of the feature accesses that fail, with its fault value. -/
def encodeLevel (s : State) (team : Nat) (l : HashLevel) (d : Nat) (xs : List Word) : Except (Nat × Nat) (Word × Word) :=
  (cornersOf l d xs).foldl (fun acc (idx, wt) =>
    match readFeatures s team (l.feat + 4 * idx), acc with
    | .error e, .error x => .error (if e.1 < x.1 then e else x)
    | .error e, .ok _ => .error e
    | .ok _, .error x => .error x
    | .ok (f0, f1), .ok (o0, o1) => .ok ((ffma wt f0 o0).1, (ffma wt f1 o1).1))
    (.ok (0#32, 0#32))

/-- All levels of a lane, in order: its words, or the lowest cause. -/
def encodeLane (s : State) (team : Nat) (t : HashTable) (xs : List Word) : Except (Nat × Nat) (List Word) :=
  let rs := t.levels.map fun l => encodeLevel s team l t.dims xs
  match lowest (rs.map fun r => match r with | .error e => some e | .ok _ => none) with
  | some e => .error e
  | none => .ok (rs.flatMap fun r => match r with | .ok (a, b) => [a, b] | .error _ => [])

/-- The binding an HENC or HGRAD of the issue in progress names. -/
def issueTable (s : State) (n : Nat) : Option HashTable :=
  match s.crews.get (issueCrew s) with
  | some c => boundTable s c.team (coreOf (issueCrew s)) n
  | none => none

/-- HENC (25 R297): the runs follow the binding; an unbound slot raises 0x0C5. -/
def execHenc (f : F64) (s : State) : Out :=
  let m := Instr.form (.henc f)
  match issueTable s (f.mod.toNat % 4) with
  | none => issueAs (.henc f) { m with a := .raw } s fun env s => raiseAll env s 0x0C5
  | some t =>
    issueAs (.henc f) { m with d := .run (2 * t.levels.length) 1, a := .run t.dims 1 } s fun env s =>
      let rs := env.parts.map fun p => (p.l, encodeLane s env.crew.team t p.a)
      { s := s
        writes := rs.filterMap fun (l, r) => match r with | .ok ws => some (l, ws) | .error _ => none
        raised := rs.filterMap fun (l, r) => match r with
          | .error (c, v) => some { lane := l, cause := c, value := v }
          | .ok _ => none }

/-! ## HGRAD (25 R298, R299) -/

/-- The contributions of a lane in order: the level, the address and the product. -/
def contributions (t : HashTable) (xs gs : List Word) : List (HashLevel × Nat × Word) :=
  (List.range t.levels.length).flatMap fun lev =>
    match t.levels[lev]? with
    | none => []
    | some l => (cornersOf l t.dims xs).flatMap fun (idx, wt) =>
        (List.range 2).map fun k => (l, l.grad + 8 * idx + 4 * k, (fmul wt (w gs (2 * lev + k))).1)

/-- Makes one contribution, or gives the cause that bars it with its fault value. -/
def contribute (s : State) (key lane ctx team : Nat) (c : HashLevel × Nat × Word) : Except (Nat × Nat) State :=
  let (l, ea, p) := c
  if l.gv then
    let (s', g) := threadStore s key ctx ea 4 (natBytes 4 p.toNat) true (some 8)
    match (windowAt s ctx (ea % 2 ^ 57)).map Prod.snd, g with
    | some 0, .bytes _ _ _ => .ok s'
    | _, .raise c => .error (min c 0x04B, ea)
    | _, _ => .error (0x04B, ea)
  else
    match scratchAt s team ea 4 with
    | none => .error (0x046, ea)
    | some k =>
      if s.mem.scratchPoisoned k 4 then .error (0x101, 0)
      else
        let old : Word := BitVec.ofNat 32 (bytesNat (scratchSeen s team k 4))
        .ok (scratchWrite s [threadWriter key lane] team k (natBytes 4 (fadd old p).1.toNat))

/-- A lane's contributions: made in order when none is barred, else the lowest cause. -/
def scatterLane (s : State) (key lane ctx team : Nat) (cs : List (HashLevel × Nat × Word)) : Except (Nat × Nat) State :=
  match lowest (cs.map fun c => match contribute s key lane ctx team c with | .error e => some e | .ok _ => none) with
  | some e => .error e
  | none => .ok (cs.foldl (fun s c => match contribute s key lane ctx team c with | .ok s' => s' | .error _ => s) s)

/-- A launch's saved crews with a live thread that return to a core, those formed by its regroup table among them, by team
index (03 R47, R49, R52). -/
def savedOn (s : State) (launch core : Nat) : List Nat :=
  s.disp.contexts.flatMap fun e => e.2.saved.flatMap fun x =>
    if x.team.launch ≠ launch then []
    else ((x.places.zip x.crews).filterMap fun r =>
        if nth x.team.cores r.1.1 = core && !r.2.liveLanes.isEmpty then some x.team.index else none) ++
      ((x.team.cores.zip x.ranks).filterMap fun r =>
        if r.1 = core && !r.2.formed.isEmpty then some x.team.index else none)

/-- The key of a crew's next HGRAD in the fixed order is the lowest outstanding one on its core (25 R299): crews of
earlier teams of the launch, saved ones too, have ended, and the other crews of its team have made the HGRADs that come
before. A crew that REGROUP formed counts as any other, and so does one that waits for its slot, with no HGRAD made (DEDUCED,
log 44). -/
def hgradTurn (s : State) (key : Nat) (c : Crew) : Bool :=
  let launch := ((s.teams.get c.team).map Team.launch).getD 0
  let after (team index hgrads : Nat) : Bool :=
    match s.teams.get team with
    | none => true
    | some t =>
      t.launch ≠ launch ||
        (if t.index = teamIndex s c then (if index < c.index then c.hgrads + 1 ≤ hgrads else c.hgrads ≤ hgrads)
         else teamIndex s c < t.index)
  (savedOn s launch (coreOf key)).all (fun n => teamIndex s c ≤ n) &&
    ((s.core (coreOf key)).formed.all fun f => after f.team (((f.payloads.head?.map Payload.crewIndex).getD 0)) 0) &&
    s.crews.all fun (k, d) => coreOf k ≠ coreOf key || k = key || d.liveLanes.isEmpty || after d.team d.index d.hgrads

/-- Counts an HGRAD issue of a crew (25 R299), one that raises included. -/
def countHgrad (s : State) (key : Nat) : State :=
  s.setCrews (s.crews.modify key fun c => { c with hgrads := c.hgrads + 1 })

/-- The issue in progress with an HGRAD whose registers already bar it counted (25 R299). -/
def countBarred (i : Instr) (m : Form) (s : State) : State :=
  match issuing s with
  | some (is, c) => if (groupBar i m is c).isSome then countHgrad s is.crew else s
  | none => s

/-- HGRAD (25 R298, R299). -/
def execHgrad (f : F64) (s : State) : Out :=
  let m := Instr.form (.hgrad f)
  match issueTable s (f.mod.toNat % 4) with
  | none => issueAs (.hgrad f) { m with a := .raw, b := .raw } s fun env s => raiseAll env (countHgrad s env.key) 0x0C5
  | some t =>
    let m := { m with a := .run t.dims 1, b := .run (2 * t.levels.length) 1 }
    issueAs (.hgrad f) m (countBarred (.hgrad f) m s) fun env s =>
      let det := ((recordOf s env.crew).map LaunchRecord.det).getD false
      let rule := t.levels.all HashLevel.gv && env.is.lanes = maskOf env.crew.liveLanes && !env.crew.regrouped
      if det && !rule then raiseAll env (countHgrad s env.key) 0x0CA
      else if det && !hgradTurn s env.key env.crew then { s := s, hold := true }
      else
        let ctx := ctxOf s env.crew
        let s := countHgrad s env.key
        env.parts.foldl (fun (e : Eff) p =>
          match scatterLane e.s env.key p.l ctx env.crew.team (contributions t p.a p.b) with
          | .ok s => { e with s := s }
          | .error (c, v) => { e with raised := e.raised ++ [{ lane := p.l, cause := c, value := v }] }) { s := s }

end Sys2Proof.Machine
end

