-- ==== Sys2Proof/Machine/Version.lean ====
section
/-! DEFINITION. Weight versions and the frame budget (25 R300 to R305). -/

namespace Sys2Proof.Machine

/-! ## Version blocks (25 R300 to R302) -/

/-- The fields of a version block: word 0 and the two reader counts. -/
structure VersionBlock where
  word : Word
  rd : List Word
  rest : List Byte
  deriving DecidableEq, Repr

def VersionBlock.parse (bs : List Byte) : VersionBlock :=
  { word := BitVec.ofNat 32 (recAt bs 0 4), rd := [BitVec.ofNat 32 (recAt bs 8 4), BitVec.ofNat 32 (recAt bs 12 4)]
    rest := (bs.drop 4).take 4 }

def VersionBlock.bytes (v : VersionBlock) : List Byte :=
  natBytes 4 v.word.toNat ++ v.rest ++ natBytes 4 (w v.rd 0).toNat ++ natBytes 4 (w v.rd 1).toNat

def VersionBlock.cur (v : VersionBlock) : Nat := v.word.toNat % 2

/-- A pin: one more reader of buffer CUR. -/
def VersionBlock.pin (v : VersionBlock) : Option VersionBlock :=
  if w v.rd v.cur = 0xFFFFFFFF#32 then none else some { v with rd := v.rd.set v.cur (w v.rd v.cur + 1) }

/-- An unpin: one reader less of a buffer. -/
def VersionBlock.unpin (v : VersionBlock) (b : Nat) : Option VersionBlock :=
  if w v.rd b = 0#32 then none else some { v with rd := v.rd.set b (w v.rd b - 1) }

/-- A publication: CUR flips and GEN counts. -/
def VersionBlock.flip (v : VersionBlock) : VersionBlock :=
  let gen := (v.word.toNat / 2 + 1) % 2 ^ 31
  { v with word := BitVec.ofNat 32 (2 * gen + (1 - v.cur)) }

/-- One lane's atomic on its block: the change, and the words it writes. -/
def versionLane (a : Lanewise) (key ctx l ea : Nat) (change : VersionBlock → Option VersionBlock)
    (words : List Byte → List Word) : Lanewise × List Nat :=
  let (s, g) := threadAtomic a.s key ctx ea 16 fun old => (change (.parse old)).map VersionBlock.bytes
  match g with
  | .bytes old _ pa =>
    if (change (.parse old)).isNone then ({ a with s := s, raised := a.raised ++ [{ lane := l, cause := 0x0CB }] }, [])
    else (a.take s l ea g words, [pa])
  | g => (a.take s l ea g words, [])

/-- VPIN (25 R301): an acquire at device scope. -/
def execVpin (f : F64) (s : State) : Out :=
  issue (.vpin f) s fun env s =>
    let ctx := ctxOf s env.crew
    let go := env.parts.foldl (fun (a : Lanewise × List Nat) p =>
      let r := versionLane a.1 env.key ctx p.l (pair64 p.a).toNat VersionBlock.pin fun old => [BitVec.ofNat 32 (recAt old 0 4)]
      (r.1, a.2 ++ r.2)) ({ s := s }, [])
    { go.1.result with s := acquireAll go.1.s env.key 5 go.2 }

/-- VUNPIN (25 R301): a release at device scope. -/
def execVunpin (f : F64) (s : State) : Out :=
  issue (.vunpin f) s fun env s =>
    let ctx := ctxOf s env.crew
    let lane (a : Lanewise) (p : Part1) : Lanewise × List Nat :=
      versionLane a env.key ctx p.l (pair64 p.a).toNat (fun v => v.unpin ((w p.b 0).toNat % 2)) fun _ => []
    let lanes (s : State) : Lanewise × List Nat := env.parts.foldl (fun (a : Lanewise × List Nat) p =>
      let r := lane a.1 p
      (r.1, a.2 ++ r.2)) ({ s := s }, [])
    let overs := overBy (latePartsBy (.vunpin f) { Instr.form (.vunpin f) with b := .no } env) fun p =>
      (lane { s := s } p).1.raised.head?.map fun r => (r.cause, r.value)
    let first := lanes s
    if first.2.isEmpty then { first.1.stored env.key with overs := overs }
    else
      -- the release comes before the decrements (00 R8; 11 R148)
      let x := releaseSig s env.key 5 env.lanes
      let go := lanes (releaseAt s env.key 5)
      { go.1.stored env.key with s := go.2.foldl (fun s pa => carry s x pa) go.1.s, overs := overs }

/-- VPUB (25 R302): a cumulative release at device scope. -/
def execVpub (f : F64) (s : State) : Out :=
  issue (.vpub f) s fun env s =>
    match env.parts with
    | [] => { s := s }
    | p :: _ =>
      let ea := (pair64 p.a).toNat
      let flip (s : State) : State × Got :=
        threadAtomic s env.key (ctxOf s env.crew) ea 16 fun old => some (VersionBlock.parse old).flip.bytes
      match flip s with
      | (s, .raise c) => raiseAll env s c ea
      | (s, .park id) => { s := s, sleeps := env.parts.map fun p => (p.l, .migration id ea) }
      | (_, .bytes _ _ pa) => { s := carry (flip (releaseAt s env.key 5)).1 (releaseSig s env.key 5 env.lanes) pa }

/-- The readers of the buffer that is not current are gone. -/
def drained (bs : List Byte) : Bool :=
  let v := VersionBlock.parse bs
  w v.rd (1 - v.cur) = 0#32

/-- VDRAIN (25 R302). -/
def execVdrain (f : F64) (s : State) : Out :=
  issue (.vdrain f) s fun env s =>
    match env.parts with
    | [] => { s := s }
    | p :: _ =>
      let ea := (pair64 p.a).toNat
      let (s, g) := threadAtomic s env.key (ctxOf s env.crew) ea 16 fun _ => none
      match g with
      | .raise c => raiseAll env s c ea
      | .park id => { s := s, sleeps := env.parts.map fun p => (p.l, .migration id ea) }
      | .bytes bs _ pa =>
        let s := acquireAt s env.key 5 pa
        if drained bs then { s := s } else sleepOn env s (.vdrain ea bs s.clock)

/-- A VDRAIN must read its block again (25 R302): 1,024 clocks have passed since it last did, or its line has been written so
that the read now gives another block or does not succeed. -/
def drainDue (s : State) (id : Nat) : Bool :=
  match s.sleepers.get id with
  | some sl =>
    match sl.what, s.crews.get sl.crew with
    | .vdrain ea last read, some c =>
      read + 1024 ≤ s.clock ||
        (match (threadAtomic s sl.crew (ctxOf s c) ea 16 fun _ => none).2 with
         | .bytes bs _ _ => bs ≠ last
         | _ => true)
    | _, _ => false
  | none => false

/-- VDRAIN_REREAD (25 R302): the block is read again; its sleepers wake when the old buffer has no reader. -/
def execVdrainReread (id : Nat) (s : State) : Out :=
  match s.sleepers.get id with
  | some sl =>
    match sl.what, s.crews.get sl.crew with
    | .vdrain ea _ _, some c =>
      let (s, g) := threadAtomic s sl.crew (ctxOf s c) ea 16 fun _ => none
      match g with
      | .bytes bs _ pa =>
        let s := acquireAt s sl.crew 5 pa
        .next (if drained bs then wakeSleeper s id
          else s.setSleepers (s.sleepers.set id { sl with what := .vdrain ea bs s.clock }))
      | .raise cause => .next (raiseSleeper s id cause ea)
      | .park mig => .next (parkSleeper s id mig ea)
    | _, _ => .refused (.notEnabled "VDRAIN_REREAD")
  | none => .refused (.notEnabled "VDRAIN_REREAD")

/-! ## The frame budget (03 R38; 25 R303, R304) -/

/-- A budgeted queue (03 R38). -/
def JobQueue.budgeted (q : JobQueue) : Bool := q.cls = 3 && q.budget

/-- The budget after a frame event. -/
def JobQueue.frame (q : JobQueue) : JobQueue :=
  { q with brem := if q.brem.slt 0 then q.bload + q.brem else q.bload }

/-- FRAME (25 R303). -/
def execFrame (f : F64) (s : State) : Out :=
  issue (.frame f) s fun env s =>
    if env.parts.isEmpty then { s := s }
    else
      let ctx := ctxOf s env.crew
      { s := s.setDisp { s.disp with queues := s.disp.queues.map fun (n, q) =>
          (n, if q.budgeted && q.ctx.toNat = ctx then q.frame else q) } }

/-- METER (25 R304): a queue of another context raises 0x0CC. -/
def execMeter (f : F64) (s : State) : Out :=
  issue (.meter f) s fun env s =>
    let own := ((recordOf s env.crew).map fun r => r.jobq.toNat).getD 0
    let n := if f.mod.getLsbD 6 then f.mod.toNat % 64 else own
    let q := s.queue n
    if q.ctx.toNat ≠ ctxOf s env.crew then raiseAll env s 0x0CC
    else writeAll env s (split64 q.brem)

end Sys2Proof.Machine
end

