-- ==== Sys2Proof/Machine/NearMem.lean ====
section
/-! DEFINITION. Job cards of the stack engines, UPDATE, PAIRFIX, SCALEADD and the bank-unit sequences (29 R326 to R341). -/

namespace Sys2Proof.Machine

/-! ## Stack engines as agents (29 R327) -/

/-- The number under which a stack engine's accesses are made: no logical core has it. -/
def engineCore (e : Nat) : Nat := 512 + e

/-- The die of a stack engine. -/
def engineDie (e : Nat) : Nat := e / 16

/-- The stack of a stack engine. -/
def stackOfEngine (e : Nat) : Nat := e / 4

/-- The dword of a card. -/
def Job.dword (j : Job) (n : Nat) : Nat := (j.card.getD n 0#64).toNat

def Job.kind (j : Job) : Nat := j.dword 0 % 16
def Job.cw (j : Job) : Bool := j.dword 0 / 16 % 2 = 1
/-- ARG0 to ARG4. -/
def Job.arg (j : Job) (n : Nat) : Nat := j.dword (3 + n)

/-- A card is invalid (29 R329). -/
def Job.bad (j : Job) : Bool :=
  3 < j.kind || 32 ≤ j.dword 0 ||
    (j.cw && (2 ^ 57 ≤ j.dword 1 || j.dword 1 % 8 ≠ 0 || 2 ^ 48 ≤ j.dword 2)) ||
    ((j.kind = 1 || j.kind = 3) && [1, 2, 3, 4].any fun n => j.arg n ≠ 0) || (j.kind = 2 && 2 ^ 40 ≤ j.arg 2)

/-- Hands waiting cards of every core to their engines. -/
def handAll (s : State) : State := s.cores.keys.foldl (fun s c => handJobs s c 1024) s

/-- Changes the job an engine runs. -/
def setRunning (s : State) (e : Nat) (j : Option Job) : State := s.setEngine e { s.engine e with running := j }

/-- The card an idle engine starts next, if it is valid and of a kind (29 R330). -/
def nextCard (s : State) (e kind : Nat) : Option Job :=
  let en := s.engine e
  match en.running, en.queue with
  | none, j :: _ =>
    if !j.bad && j.kind = kind && !(s.near.sequences.any fun q => q.engine = e && q.dropped) then some j else none
  | _, _ => none

/-- The UPDATE or PAIRFIX an engine runs, which has read its block and its generation word. -/
def runningCard (s : State) (e kind : Nat) : Option (Job × List Byte × Nat) :=
  match (s.engine e).running with
  | some j =>
    (match j.block with
     | some (bs, gen) => if j.kind = kind && j.ended.isNone then some (j, bs, gen) else none
     | none => none)
  | none => none

/-- The scratchpad writes that happen before a job: those before its command's reads (11 R154; 21 R265). -/
def jobKnow (s : State) (j : Job) : Map Nat :=
  (((s.core j.core).commands.find? fun c => c.serial = j.serial).map Command.know).getD []

/-- The engine takes its next card, as a job in the state given. -/
def takeCard (s : State) (e : Nat) (j : Job) : State :=
  let en := s.engine e
  handAll (s.setEngine e
    { en with queue := en.queue.drop 1, running := some j, order := en.order.acquire { sig := 0#512, know := jobKnow s j } })

/-! ## Releases and acquires of an engine (29 R327) -/

/-- Changes the order of an engine's accesses. -/
def setOrder (s : State) (e : Nat) (o : AgentOrder) : State := s.setEngine e { s.engine e with order := o }

/-- What an engine's write at an address carries (11 R153). -/
def engineWrote (s : State) (e pa : Nat) (release : Bool) : State := (s.engine e).order.wrote s pa release

/-- A FENCE of an engine. -/
def engineFence (s : State) (e : Nat) (acq rel : Bool) : State := setOrder s e ((s.engine e).order.fenced acq rel)

/-! ## A job's accesses -/

/-- Why a job stops before its end. -/
inductive Halt where
  /-- its status, with the cause and the address of a failed access -/
  | failed (status cause ea : Nat)
  | page (ea : Nat) (pte : BitVec 64) (a : Nat) (big : Bool)
  /-- stopped by a forced reset (R332) -/
  | reset
  deriving DecidableEq, Repr

/-- A job as it runs: the state it leaves, the agent its accesses are made for, why it stopped, and the element boundaries
left before a forced reset. -/
structure JobRun where
  s : State
  who : Agent
  halt : Option Halt
  left : Option Nat

/-- Notes a read of n bytes at an address by an engine, and takes what releases of its lines carried where it is an
acquire (11 R135, R148). -/
def engineNote (s : State) (e ctx ea n : Nat) (acquire : Bool := false) : State :=
  let pas := match meet s (engineCore e) ctx ea n .load with | .ok ms => (linesOf ms).map (128 * ·) | _ => []
  setOrder (noteRange s (engineCore e) ctx ea n false) e ((s.engine e).order.read s pas acquire)

/-- Reads n bytes at a 57-bit address. -/
def JobRun.load (r : JobRun) (e ctx : Nat) (a : Nat) (n : Nat) (acquire : Bool := false) : JobRun × List Byte :=
  match r.halt with
  | some _ => (r, [])
  | none =>
    let ea := va57 a
    match (meet r.s (engineCore e) ctx ea n .load).of r.s r.who with
    | .bad c => ({ r with halt := some (.failed 1 c ea) }, [])
    | .park p x b => ({ r with halt := some (.page ea p x b) }, [])
    | .ok ms =>
      if piecesPoisoned r.s ms then ({ r with halt := some (.failed 2 0x047 ea) }, [])
      else
        let s := engineNote r.s e ctx ea n acquire
        ({ r with s := s }, readPieces s (engineCore e) ms)

/-- What the release of a team's image carries: its signature never misses a line (DESIGN CHOICE, log 83). -/
def engineCarried : Carried := { sig := BitVec.allOnes 512, know := [] }

/-- Writes bytes at a 57-bit address, at system scope; a release carries its signature (11 R153). -/
def JobRun.store (r : JobRun) (e ctx : Nat) (a : Nat) (bs : List Byte) (release : Bool := false) : JobRun :=
  match r.halt with
  | some _ => r
  | none =>
    let ea := va57 a
    match (engineMeet r.s (engineCore e) ctx ea bs.length).of r.s r.who with
    | .bad c => { r with halt := some (.failed 1 c ea) }
    | .park p x b => { r with halt := some (.page ea p x b) }
    | .ok _ =>
      match engineWrite r.s r.who (engineCore e) ctx ea bs with
      | (s, .bytes _ _ pa) => { r with s := engineWrote s e pa release }
      | (s, _) => { r with s := s }

/-- The target of an atomic: no atomic reaches an IO page, or a fabric page without CLVL 11 (19 R226). -/
def atomicBarred (s : State) (m : Mapped) : Bool := isIo m.pte || (s.sys.target m.pa = .fabric && clvl m.pte ≠ 3)

/-- The check of an atomic of a job at system scope (29 R334; 19 R226): a target that no atomic reaches is 0x04D, behind the
causes of the access itself and, for a read, behind poison. -/
def JobRun.atomic (r : JobRun) (e ctx : Nat) (a : Nat) (store : Bool) : JobRun :=
  match r.halt with
  | some _ => r
  | none =>
    let ea := va57 a
    match if store then engineMeet r.s (engineCore e) ctx ea 8 else meet r.s (engineCore e) ctx ea 8 .load with
    | .ok ms =>
      if !(!store && piecesPoisoned r.s ms) && ms.any (fun m => atomicBarred r.s m.1) then
        { r with halt := some (.failed 1 0x04D ea) }
      else r
    | _ => r

/-- Reads the generation word, an atomic at system scope (29 R334). -/
def JobRun.loadGen (r : JobRun) (e ctx : Nat) (a : Nat) : JobRun × List Byte := (r.atomic e ctx a false).load e ctx a 8

/-- Writes the generation word, an atomic at system scope (29 R334). -/
def JobRun.storeGen (r : JobRun) (e ctx : Nat) (a v : Nat) (release : Bool := false) : JobRun :=
  (r.atomic e ctx a true).store e ctx a (natBytes 8 v) release

/-- An element boundary, where a forced reset may stop the job (29 R332). -/
def JobRun.boundary (r : JobRun) : JobRun :=
  match r.halt, r.left with
  | none, some 0 => { r with halt := some .reset }
  | none, some (k + 1) => { r with left := some k }
  | _, _ => r

/-! ## The parameter block (29 R334) -/

structure UpdateBlock where
  master : Nat
  mom1 : Nat
  mom2 : Nat
  grad : Nat
  plain : Nat
  trans : Nat
  gen : Nat
  skipf : Nat
  rows : Nat
  cols : Nat
  step : Bool
  bf16 : Bool
  lr : Word
  beta1 : Word
  beta2 : Word
  eps : Word
  wd : Word
  limit : Word
  c1 : Word
  c2 : Word
  /-- DONEEL, NONFIN, CLAMPED, ZERODEN, SKIPS -/
  counters : List Nat
  deriving DecidableEq, Repr

def UpdateBlock.parse (bs : List Byte) : UpdateBlock :=
  let d (o : Nat) : Nat := recAt bs o 8
  let f (o : Nat) : Word := BitVec.ofNat 32 (recAt bs o 4)
  { master := d 0, mom1 := d 8, mom2 := d 0x10, grad := d 0x18, plain := d 0x20, trans := d 0x28, gen := d 0x30
    skipf := d 0x38, rows := recAt bs 0x40 4, cols := recAt bs 0x44 4, step := recAt bs 0x48 4 % 2 = 1
    bf16 := recAt bs 0x48 4 / 2 % 2 = 1, lr := f 0x4C, beta1 := f 0x50, beta2 := f 0x54, eps := f 0x58, wd := f 0x5C
    limit := f 0x60, c1 := f 0x64, c2 := f 0x68
    counters := [recAt bs 0x6C 4, recAt bs 0x70 4, recAt bs 0x74 4, recAt bs 0x78 4, recAt bs 0x7C 4] }

/-- A finite FP32 word. -/
def isFinite (x : Word) : Bool := (num32 x).isFin

/-- The exact value of a finite FP32 word. -/
def realOf (x : Word) : Q := (num32 x).val

/-- round_rne of an exact real. -/
def rneQ (q : Q) : Word := rne32 (FNum.ofQ q)

/-- The block is invalid (29 R334); the alignments of the fields the table gives none are those of their elements
(DESIGN CHOICE, log 16). -/
def UpdateBlock.bad (b : UpdateBlock) (bs : List Byte) : Bool :=
  let addrBad (a k : Nat) : Bool := 2 ^ 57 ≤ a || a % k ≠ 0
  let one := Q.int 1
  let unit (x : Word) : Bool := isFinite x && !(realOf x).isNeg && (realOf x).le one
  let pos (x : Word) : Bool := isFinite x && !(realOf x).isNeg && !(realOf x).isZero
  addrBad b.master 16 || addrBad b.mom1 4 || addrBad b.mom2 4 || addrBad b.grad (if b.bf16 then 2 else 4) ||
    addrBad b.plain 2 || addrBad b.trans 2 || addrBad b.gen 8 || addrBad b.skipf 8 || 4 ≤ recAt bs 0x48 4 ||
    b.rows = 0 || 2 ^ 20 < b.rows || b.cols = 0 || 2 ^ 20 < b.cols || 2 ^ 28 < b.rows * b.cols ||
    !unit b.beta1 || !unit b.beta2 || !isFinite b.eps || (realOf b.eps).isNeg || !isFinite b.wd || !isFinite b.lr ||
    !(b.limit = infWord false || pos b.limit) || !pos b.c1 || !pos b.c2

/-! ## UPDATE (29 R335, R336) -/

/-- The generation word (29 R334): STEPS, BUSY and TORN. -/
def genSteps (g : Nat) : Nat := g % 2 ^ 48
def genBusy (g : Nat) : Bool := g / 2 ^ 62 % 2 = 1

/-- The loop's counters as it runs. -/
structure Updating where
  run : JobRun
  doneel : Nat
  nonfin : Nat
  clamped : Nat
  zeroden : Nat

/-- The new weight and moments of one element, or which counters it adds to (29 R335). -/
structure Element where
  new : Option (Word × Word × Word) := none
  nonfin : Bool := false
  clamped : Bool := false
  zeroden : Bool := false
  deriving DecidableEq, Repr

def updateElement (b : UpdateBlock) (scale g wv mv vv : Word) : Element :=
  let one := Q.int 1
  let gc := if scale = oneF then g else (fmul g scale).1
  if !isFinite mv || !isFinite vv then { nonfin := true }
  else
    let gq := realOf gc
    let m1 := rneQ (((realOf b.beta1).mul (realOf mv)).add ((one.sub (realOf b.beta1)).mul gq))
    let v1 := rneQ (((realOf b.beta2).mul (realOf vv)).add (((one.sub (realOf b.beta2)).mul gq).mul gq))
    if !isFinite m1 || !isFinite v1 then { nonfin := true }
    else
      let mh := rneQ ((realOf m1).mul (realOf b.c1))
      let vh0 := rneQ ((realOf v1).mul (realOf b.c2))
      if !isFinite mh || !isFinite vh0 then { nonfin := true }
      else
        let neg := (realOf vh0).isNeg
        let vh := if neg then 0#32 else vh0
        let den := rneQ ((realOf (sqrtRne vh)).add (realOf b.eps))
        if (realOf den).isZero then { clamped := neg, zeroden := true }
        else if !isFinite wv then { clamped := neg, nonfin := true }
        else
          let step := ((realOf mh).div (realOf den)).add ((realOf b.wd).mul (realOf wv))
          let w1 := rneQ ((realOf wv).sub ((realOf b.lr).mul step))
          if !isFinite w1 then { clamped := neg, nonfin := true } else { new := some (w1, m1, v1), clamped := neg }

/-- Element i of the loop. -/
def updateStep (e ctx : Nat) (b : UpdateBlock) (scale : Word) (u : Updating) (i : Nat) (g : Word) : Updating :=
  let run := u.run.boundary
  match run.halt with
  | some _ => { u with run := run }
  | none =>
    let u := { u with doneel := i + 1 }
    if !isFinite g then { u with run := run, nonfin := u.nonfin + 1 }
    else
      let (run, mb) := run.load e ctx (b.mom1 + 4 * i) 4
      let (run, vb) := run.load e ctx (b.mom2 + 4 * i) 4
      let (run, wb) := run.load e ctx (b.master + 4 * i) 4
      let word (bs : List Byte) : Word := BitVec.ofNat 32 (bytesNat bs)
      match run.halt with
      | some _ => { u with run := run }
      | none =>
        let x := updateElement b scale g (word wb) (word mb) (word vb)
        let run := match x.new with
          | none => run
          | some (w1, m1, v1) =>
            ((run.store e ctx (b.master + 4 * i) (natBytes 4 w1.toNat)).store e ctx (b.mom1 + 4 * i)
              (natBytes 4 m1.toNat)).store e ctx (b.mom2 + 4 * i) (natBytes 4 v1.toNat)
        { u with run := run, nonfin := u.nonfin + (if x.nonfin then 1 else 0)
                 clamped := u.clamped + (if x.clamped then 1 else 0), zeroden := u.zeroden + (if x.zeroden then 1 else 0) }

/-- Steps 1 and 2 of R336: the plain and transposed copies of the master. -/
def copyWeights (e ctx : Nat) (b : UpdateBlock) (r : JobRun) : JobRun :=
  let n := b.rows * b.cols
  let r := (List.range n).foldl (fun (r : JobRun) i =>
    let (r, bs) := r.boundary.load e ctx (b.master + 4 * i) 4
    r.store e ctx (b.plain + 2 * i) (natBytes 2 (bf16Rne (BitVec.ofNat 32 (bytesNat bs))))) r
  (List.range n).foldl (fun (r : JobRun) k =>
    let (r, bs) := r.boundary.load e ctx (b.plain + 2 * (k % b.rows * b.cols + k / b.rows)) 2
    r.store e ctx (b.trans + 2 * k) bs) r

/-- Writes to a block after a job has halted, whatever stopped it. -/
def JobRun.anyway (r : JobRun) (f : JobRun → JobRun) : JobRun := { r with s := (f { r with halt := none }).s }

/-- Ends a job that has set BUSY: GEN shows the new generation, or TORN when it failed or was stopped (29 R332, R336). -/
def finishGen (e ctx : Nat) (b : UpdateBlock) (steps next : Nat) (r : JobRun) : JobRun :=
  match r.halt with
  | none => r.storeGen e ctx b.gen (next % 2 ^ 48) true
  | some (.page _ _ _ _) => r
  | some _ => r.anyway fun r => r.storeGen e ctx b.gen (steps + 2 ^ 63) true

/-- Ends a job's run with a status. -/
def JobRun.endWith (r : JobRun) (status cause : Nat) : JobRun :=
  match r.halt with
  | none => { r with halt := some (.failed status cause 0) }
  | some _ => r

/-- The compare-and-swap of the generation word against the value a job has read; the job that loses it ends with TORN and
writes nothing (29 R335). -/
def JobRun.swapGen (r : JobRun) (e ctx : Nat) (b : UpdateBlock) (gen : Nat) : JobRun :=
  let (r, bs) := r.loadGen e ctx b.gen
  if r.halt.isNone && bytesNat bs ≠ gen then r.endWith 0xA 0x0C4
  else r.storeGen e ctx b.gen (gen + 2 ^ 62)

/-- The counters of a block plus what a run added, as they are written to it. -/
def counterBytes (b : UpdateBlock) (doneel nonfin clamped zeroden skips : Nat) : List Byte :=
  natBytes 4 doneel ++ natBytes 4 (nth b.counters 1 + nonfin) ++ natBytes 4 (nth b.counters 2 + clamped) ++
    natBytes 4 (nth b.counters 3 + zeroden) ++ natBytes 4 (nth b.counters 4 + skips)

/-- What an UPDATE or a PAIRFIX does first: it reads its block and the generation word, which must not show the block torn
to an UPDATE, nor busy to a PAIRFIX (29 R334 to R337). -/
def readBlock (e ctx a : Nat) (update : Bool) (r : JobRun) : JobRun × List Byte × Nat :=
  let r := if a % 64 ≠ 0 then r.endWith 8 0x0C8 else r
  let r := if r.halt.isNone && va57 a ≠ a then { r with halt := some (.failed 1 0x042 a) } else r
  let (r, bs) := r.load e ctx a 128
  let b := UpdateBlock.parse bs
  let r := if r.halt.isNone && b.bad bs then r.endWith 8 0x0C8 else r
  let (r, gb) := r.loadGen e ctx b.gen
  let gen := bytesNat gb
  (if r.halt.isNone && (if update then showsTorn gen else genBusy gen) then r.endWith 0xA 0x0C4 else r, bs, gen)

/-- The rest of an UPDATE, on its block and the generation word it has read: SKIPF is read as an acquire and set as a
release, and GEN's last write is a release (29 R335, R336). -/
def updateJob (e ctx a : Nat) (bs : List Byte) (gen : Nat) (r : JobRun) : JobRun :=
  let b := UpdateBlock.parse bs
  let n := b.rows * b.cols
  let (r, sb) := if b.step then r.load e ctx b.skipf 8 true else (r, [])
  match r.halt with
  | some _ => r
  | none =>
    if b.step && bytesNat sb ≠ 0 then
      r.store e ctx (a + 0x6C) (counterBytes b (nth b.counters 0) 0 0 0 1)
    else
      let size := if b.bf16 then 2 else 4
      let (r, gs) := r.load e ctx b.grad (size * n)
      match r.halt with
      | some _ => r
      | none =>
        let g (i : Nat) : Word :=
          let v := recAt gs (size * i) size
          if b.bf16 then bf16Word v else BitVec.ofNat 32 v
        let bad := ((List.range n).filter fun i => !isFinite (g i)).length
        if b.step && bad ≠ 0 then
          (r.store e ctx (a + 0x6C) (counterBytes b (nth b.counters 0) bad 0 0 1)).store e ctx b.skipf (natBytes 8 1) true
        else
          let sum := (List.range n).foldl (fun (q : Q) i =>
            if isFinite (g i) then q.add ((realOf (g i)).mul (realOf (g i))) else q) (Q.int 0)
          let nrm := sqrtRne (rneQ sum)
          let scale :=
            if (num32 nrm).le (num32 b.limit) then oneF
            else if isFinite nrm then rneQ ((realOf b.limit).div (realOf nrm)) else 0#32
          let r := r.swapGen e ctx b gen
          match r.halt with
          | some _ => r
          | none =>
            let u := (List.range n).foldl (fun u i => updateStep e ctx b scale u i (g i))
              ({ run := r, doneel := 0, nonfin := 0, clamped := 0, zeroden := 0 } : Updating)
            let write (r : JobRun) : JobRun :=
              r.store e ctx (a + 0x6C) (counterBytes b u.doneel u.nonfin u.clamped u.zeroden 0)
            let r := match u.run.halt with
              | none => write u.run
              | some _ => u.run.anyway write
            finishGen e ctx b (genSteps gen) (genSteps gen + 1) (copyWeights e ctx b r)

/-- The rest of a PAIRFIX (29 R337). -/
def pairfixJob (e ctx : Nat) (bs : List Byte) (gen : Nat) (r : JobRun) : JobRun :=
  let b := UpdateBlock.parse bs
  let r := r.swapGen e ctx b gen
  match r.halt with
  | some _ => r
  | none => finishGen e ctx b (genSteps gen) (genSteps gen) (copyWeights e ctx b r)

/-- The work of an UPDATE or a PAIRFIX that has read its block. -/
def blockWork (e : Nat) (j : Job) (bs : List Byte) (gen : Nat) (r : JobRun) : JobRun :=
  if j.kind = 1 then updateJob e j.ctx (j.arg 0) bs gen r else pairfixJob e j.ctx bs gen r

/-- A job's run from a state. -/
def Job.start (j : Job) (s : State) (left : Option Nat := none) : JobRun :=
  { s := s, who := .job j.serial, halt := none, left := left }

/-- An UPDATE or a PAIRFIX runs in two steps: it reads its block and the generation word, then does the rest, so that
another agent's write of the word between the two makes its compare-and-swap fail (DESIGN CHOICE, log 42). A step that meets a capacity page starts
or joins its migration and does nothing else (29 R327). -/
def runBlock (s : State) (e kind : Nat) (name : String) : Out :=
  let wait (j : Job) (ea : Nat) (p : BitVec 64) (a : Nat) (b : Bool) : Out :=
    if agentWaits s (engineDie e) a b (.job j.serial) then .refused (.notEnabled name)
    else .next (startMigration s (engineDie e) j.ctx ea p a b (Agent.job j.serial))
  match runningCard s e kind with
  | some (j, bs, gen) =>
    let r := blockWork e j bs gen (j.start s)
    (match r.halt with
     | some (.page ea p a b) => wait j ea p a b
     | some (.failed st cause ea) => .next (setRunning r.s e (some { j with ended := some (st, cause, ea) }))
     | _ => .next (setRunning r.s e (some { j with ended := some (0, 0, 0) })))
  | none =>
    match nextCard s e kind with
    | none => .refused (.notEnabled name)
    | some j =>
      let (r, bs, gen) := readBlock e j.ctx (j.arg 0) (decide (kind = 1)) (j.start s)
      match r.halt with
      | some (.page ea p a b) => wait j ea p a b
      | some (.failed st cause ea) => .next (takeCard r.s e { j with ended := some (st, cause, ea), begun := true })
      | _ => .next (takeCard r.s e { j with begun := true, block := some (bs, gen) })

/-- JOB_UPDATE (29 R335). -/
def execJobUpdate (engine : Nat) (s : State) : Out := runBlock s engine 1 "JOB_UPDATE"

/-- JOB_PAIRFIX (29 R337). -/
def execJobPairfix (engine : Nat) (s : State) : Out := runBlock s engine 3 "JOB_PAIRFIX"

/-! ## SCALEADD and bank-unit sequences (29 R338 to R341) -/

/-- The stack of a fast-tier address (29 R338). -/
def stackOfPa (s : State) (pa : Nat) : Nat := pa / 2 ^ 10 % s.sys.stacks

/-- The bank of a fast-tier address: pseudo-channel and bank as one number (29 R338). -/
def bankOfPa (s : State) (pa : Nat) : Nat :=
  pa / (2 ^ 10 * s.sys.stacks) % 64 * 16 + pa / (2 ^ 16 * s.sys.stacks) % 16

/-- What the checks of a sequence give (29 R339). -/
inductive Checked where
  /-- the physical addresses of the x rows and the y rows -/
  | ok (xs ys : List Nat)
  | bad (status cause ea : Nat)
  | page (ea : Nat) (pte : BitVec 64) (a : Nat) (big : Bool)
  deriving DecidableEq, Repr

/-- Checks and translates the rows of a sequence of an engine, for a job. ARG0 to ARG4 are the arguments of a SCALEADD
card. -/
def checkRows (s : State) (who : Agent) (e ctx : Nat) (arg : Nat → Nat) : Checked :=
  let n := arg 2 / 2 ^ 32 % 256 + 1
  if arg 0 % 1024 ≠ 0 || arg 1 % 1024 ≠ 0 || arg 3 % 1024 ≠ 0 || arg 4 % 1024 ≠ 0 then .bad 8 0x0C8 0
  else
    let row (base stride r : Nat) : Nat := (base + stride * r) % 2 ^ 64
    let go (k : Access) (base stride : Nat) : List (Nat × Reach) :=
      (List.range n).map fun r => (row base stride r, translate s (engineCore e) ctx (row base stride r) k)
    let xs := go .load (arg 0) (arg 3)
    let ys := go .store (arg 1) (arg 4)
    let all := xs ++ ys
    match all.findSome? fun x => match x.2 with
        | .bad c => some (c, x.1)
        | .capacity _ a b => if unreadFor s who a b then some (0x042, x.1) else none
        | _ => none with
    | some (c, ea) => .bad 1 c ea
    | none =>
      match all.findSome? fun x => match x.2 with | .capacity p a b => some (Checked.page x.1 p a b) | _ => none with
      | some c => c
      | none =>
        let mapped := all.filterMap fun x => match x.2 with | .ok m => some m | _ => none
        let pas := mapped.map Mapped.pa
        let xp := pas.take n
        let yp := pas.drop n
        if (pas.any fun p => s.sys.target p ≠ .hbm || stackOfPa s p ≠ stackOfEngine e) ||
            (mapped.any fun m => pteBit m.pte 60) || ((xp.zip yp).any fun q => bankOfPa s q.1 ≠ bankOfPa s q.2) then .bad 8 0x0C8 0
        else .ok xp yp

/-- The TLB entries with which the rows of a sequence are translated. -/
def rowEntries (s : State) (e ctx n : Nat) (arg : Nat → Nat) : List TlbEntry :=
  let row (base stride r : Nat) : Nat := (base + stride * r) % 2 ^ 64
  dedup [] ((List.range n).flatMap fun r =>
    entriesFor s (engineCore e) ctx (row (arg 0) (arg 3) r) 1024 ++ entriesFor s (engineCore e) ctx (row (arg 1) (arg 4) r) 1024)

/-- Starts a sequence on checked rows: the rows' lines are flushed from L2 (19 R229), the banks begin. -/
def startSequence (s : State) (e : Nat) (scalar : Word) (xs ys : List Nat) (used : List TlbEntry) : State × Nat :=
  let number := s.serial
  let inRow (a : Nat) : Bool := (xs ++ ys).any fun p => a / 1024 = p / 1024
  let banks := sortAsc (ys.map fun p => bankOfPa s p)
  let runs : List BankRun := banks.map fun b =>
    { bank := b, rows := (List.range ys.length).filter (fun r => bankOfPa s (nth ys r) = b), suspended := false, retrained := false
      stopped := false }
  let q : BankSeq :=
    { number, engine := e, stack := stackOfEngine e, scalar, xs, ys, banks := runs, poisoned := false, finished := false
      status := 0, spoiled := [], dropped := false, used }
  let s := (s.setSerial (number + 1)).setMem (s.mem.flushL2 inRow)
  (s.setNear { s.near with sequences := s.near.sequences ++ [q] }, number)

/-- Notes the accesses to the rows of a sequence (11 R135). -/
def noteRows (s : State) (e ctx n : Nat) (arg : Nat → Nat) : State :=
  let row (base stride r : Nat) : Nat := (base + stride * r) % 2 ^ 64
  (List.range n).foldl (fun s r =>
    noteAccess (noteAccess s (engineCore e) ctx (row (arg 0) (arg 3) r) false) (engineCore e) ctx
      (row (arg 1) (arg 4) r) true) s

/-- JOB_SCALEADD (29 R339). -/
def execJobScaleadd (engine : Nat) (s : State) : Out :=
  match nextCard s engine 2 with
  | none => .refused (.notEnabled "JOB_SCALEADD")
  | some j =>
    match checkRows s (.job j.serial) engine j.ctx j.arg with
    | .bad st cause ea => .next (takeCard s engine { j with ended := some (st, cause, ea), begun := true })
    | .page ea p a b =>
      if agentWaits s (engineDie engine) a b (.job j.serial) then .refused (.notEnabled "JOB_SCALEADD")
      else .next (startMigration s (engineDie engine) j.ctx ea p a b (Agent.job j.serial))
    | .ok xs ys =>
      let s := noteRows s engine j.ctx xs.length j.arg
      let (s, number) := startSequence s engine (BitVec.ofNat 32 (j.arg 2)) xs ys
        (rowEntries s engine j.ctx xs.length j.arg)
      .next (takeCard s engine { j with begun := true, sequence := some number })

/-- The result of one element of a row operation, with a canonical NaN. -/
def scaleAdd (a x y : Word) : Word := (ffma a x y).1

/-- A y row becomes unpredictable (29 R341; log 1); a poisoned granule of it stays poisoned. -/
def spoilRow (s : State) (y : Nat) : State :=
  let bs := (List.range 256).flatMap fun k => natBytes 4 (Config.freeWord (s.free * 2 ^ 52 + y + 4 * k)).toNat
  s.setMem { s.mem with ram := (bs.zip (List.range 1024)).foldl (fun m e => m.write (y + e.2) e.1) s.mem.ram }

/-- One row operation: each y granule is written in one step, a poisoned granule poisons the y granule it feeds, and rows
that overlap another index's rows, or whose x row was stored to, are unpredictable (29 R339, R341; log 1). The flag says
that poison was met. -/
def rowOperation (s : State) (q : BankSeq) (r : Nat) : State × Bool :=
  let x := nth q.xs r
  let y := nth q.ys r
  let clash := q.spoiled.contains r || (List.range q.xs.length).any fun k => k ≠ r && (nth q.xs k = y || nth q.ys k = x)
  let word (a : Nat) : Word := BitVec.ofNat 32 (bytesNat ((List.range 4).map fun k => s.mem.ram.read (a + k)))
  (List.range 64).foldl (fun (acc : State × Bool) g =>
    let (s', bad) := acc
    let yg := y / 16 + g
    if s.mem.poisonAt (x + 16 * g) || s.mem.poisonAt (y + 16 * g) then (s'.setMem (s'.mem.poisonSet yg), true)
    else
      let bs := (List.range 4).flatMap fun k =>
        let o := 16 * g + 4 * k
        let v := if clash then Config.freeWord (s.free * 2 ^ 52 + y + o) else scaleAdd q.scalar (word (x + o)) (word (y + o))
        natBytes 4 v.toNat
      (s'.setMem { s'.mem with ram := (bs.zip (List.range 16)).foldl (fun m e => m.write (y + 16 * g + e.2) e.1) s'.mem.ram }
        , bad)) (s, false)

def setSequence (s : State) (number : Nat) (f : BankSeq → BankSeq) : State :=
  s.setNear { s.near with sequences := s.near.sequences.map fun q => if q.number = number then f q else q }

def sequenceOf (s : State) (number : Nat) : Option BankSeq := s.near.sequences.find? fun q => q.number = number

/-- Changes the progress of one bank of a sequence. -/
def BankSeq.setBank (q : BankSeq) (bank : Nat) (f : BankRun → BankRun) : BankSeq :=
  { q with banks := q.banks.map fun b => if b.bank = bank then f b else b }

/-- BANK_ROW_BOUNDARY (29 R340, R341): the running row operation of a bank ends with its precharge; the sequence stops on
poison, suspends for a request that has waited more than 64 command clocks or for retraining, or starts its next row. -/
def execBankRowBoundary (sequence bank : Nat) (waited : Bool) (s : State) : Out :=
  match sequenceOf s sequence with
  | none => .refused (.notEnabled "BANK_ROW_BOUNDARY")
  | some q =>
    match q.banks.find? fun b => b.bank = bank && !b.suspended && !b.retrained && !b.stopped with
    | none => .refused (.notEnabled "BANK_ROW_BOUNDARY")
    | some b =>
      match b.rows with
      | [] => .refused (.notEnabled "BANK_ROW_BOUNDARY")
      | r :: rest =>
        let (s, bad) := rowOperation s q r
        let more := !rest.isEmpty && !bad
        .next (setSequence s sequence fun q =>
          { q.setBank bank fun b =>
              { b with rows := rest, suspended := more && waited
                       retrained := more && (s.near.retrain.get q.stack).isSome, stopped := bad } with
            poisoned := q.poisoned || bad })

/-- BANK_SEQUENCE_RESUME (29 R340, R341): no ordinary request waits, or 8 have been served since the suspension. -/
def execBankSequenceResume (sequence bank served : Nat) (waiting : Bool) (s : State) : Out :=
  match sequenceOf s sequence with
  | none => .refused (.notEnabled "BANK_SEQUENCE_RESUME")
  | some q =>
    if (q.banks.any fun b => b.bank = bank && b.suspended) && (s.near.retrain.get q.stack).isNone &&
        (!waiting || 8 ≤ served) then
      .next (setSequence s sequence fun q => q.setBank bank fun b => { b with suspended := false })
    else .refused (.notEnabled "BANK_SEQUENCE_RESUME")

/-- Every bank of a sequence has done its rows or stopped. -/
def BankSeq.isOver (q : BankSeq) : Bool := q.banks.all fun b => b.stopped || b.rows.isEmpty

/-- BANK_SEQUENCE_DONE (29 R339): the first sequence whose banks are done; its rows' lines leave L2, the y rows whose x row
was stored to meanwhile are unpredictable, and a SCALEADD job ends. A sequence that a forced reset stopped ends no job. -/
def execBankSequenceDone (s : State) : Out :=
  match s.near.sequences.find? fun q => q.isOver && !q.finished with
  | none => .refused (.notEnabled "BANK_SEQUENCE_DONE")
  | some q =>
    let inRow (a : Nat) : Bool := (q.xs ++ q.ys).any fun p => a / 1024 = p / 1024
    let s := s.setMem { s.mem with l2 := s.mem.l2.filter fun e => !inRow e.1 }
    let s := q.spoiled.foldl (fun s r => spoilRow s (nth q.ys r)) s
    let s := setSequence s q.number fun q => { q with finished := true }
    if q.dropped then
      .next (s.setNear { s.near with sequences := s.near.sequences.filter fun x => x.number ≠ q.number })
    else
    match (s.engine q.engine).running with
    | some j =>
      if j.sequence = some q.number then
        let s := s.setNear { s.near with sequences := s.near.sequences.filter fun x => x.number ≠ q.number }
        .next (setRunning s q.engine (some { j with ended := some (if q.poisoned then (2, 0x047, 0) else (0, 0, 0)) }))
      else .next s
    | none => .next s

/-! ## Publication of jobs (29 R330, R331) -/

/-- An engine whose job has ended, with no sequence of its own unfinished, or whose next card is invalid: the job, its
status, cause and address (29 R329, R330, R333). -/
def endedJob (s : State) (e : Nat) : Option (Job × Nat × Nat × Nat) :=
  let en := s.engine e
  match en.running, en.queue with
  | some j, _ =>
    (match j.ended with
     | some x => if s.near.sequences.any fun q => q.engine = e && !q.finished && !q.dropped then none else some (j, x)
     | none => none)
  | none, j :: _ => if j.bad then some (j, 8, 0x0C8, 0) else none
  | none, [] => none

/-- The capacity page a job's completion word would meet. -/
def jobWordPage (s : State) (e : Nat) (j : Job) : Option (Nat × BitVec 64 × Nat × Bool) :=
  if !j.cw || j.dword 1 % 8 ≠ 0 then none
  else
    match (engineMeet s (engineCore e) j.ctx (va57 (j.dword 1)) 8).of s (.job j.serial) with
    | .park p a b => some (va57 (j.dword 1), p, a, b)
    | _ => none

/-- Writes a job's completion word at DONE; the flag says that it was dropped. A card whose DONE is invalid has none. -/
def writeJobWord (s : State) (e : Nat) (j : Job) (status : Nat) : State × Bool :=
  if !j.cw || j.dword 1 % 8 ≠ 0 || 2 ^ 57 ≤ j.dword 1 then (s, false)
  else
    let command := (s.core j.core).commands.find? fun c => c.serial = j.serial
    writeWord s (.job j.serial) (engineCore e) j.ctx ((command.map Command.team).getD 0)
      { addr := BitVec.ofNat 64 (va57 (j.dword 1)), seq := BitVec.ofNat 48 (j.dword 2) } 0x20 status
      ((s.engine e).order.acquire { sig := 0#512, know := jobKnow s j }).release

/-- STACK_JOB_PUBLISH (29 R330, R331): the first engine with an ended job writes its word and takes its next card; the
tokens of the posting core's queue STACK complete in acceptance order (21 R241). -/
def execStackJobPublish (s : State) : Out :=
  let ready (e : Nat) : Option (Nat × Job × Nat × Nat × Nat) :=
    match endedJob s e with
    | some (j, x) =>
      (match jobWordPage s e j with
       | some (_, _, a, b) => if agentWaits s (engineDie e) a b (.job j.serial) then none else some (e, j, x)
       | none => some (e, j, x))
    | none => none
  match (List.range 64).findSome? ready with
  | none => .refused (.notEnabled "STACK_JOB_PUBLISH")
  | some (e, j, st, cause, at') =>
    match jobWordPage s e j with
    | some (ea, p, a, b) => .next (startMigration s (engineDie e) j.ctx ea p a b (Agent.job j.serial))
    | none =>
      let (s, dropped) := writeJobWord s e j st
      let en := s.engine e
      let queue := if en.running.isSome then en.queue else en.queue.drop 1
      let s := s.setEngine e { en with running := none, queue := queue, hart := { en.hart with handles := [], reservation := none } }
      let s := s.setNear { s.near with sequences := s.near.sequences.filter fun q => q.engine ≠ e || q.dropped }
      let s := forgetUnread s (.job j.serial)
      let s := updateCommand s j.core j.serial fun c =>
        { c with result := some (st, if st ≠ 0 then cause else if dropped then 0x0C9 else 0, at')
                 know := joinKnow c.know en.order.know }
      .next (handAll (publishStack s j.core 1024))

/-! ## Forced reset of stack engines (29 R332) -/

/-- The sequences of an engine stop at their row boundaries: the row operation each bank runs is finished, no other
begins. -/
def stopSequences (s : State) (e : Nat) : State :=
  s.setNear { s.near with sequences := (s.near.sequences.filter fun q => q.engine ≠ e || !q.finished).map fun q =>
    if q.engine = e then
      { q with dropped := true
               banks := q.banks.map fun b =>
                 if b.suspended || b.retrained then { b with rows := [], suspended := false, retrained := false } else { b with rows := b.rows.take 1 } }
    else q }

/-- Stops the jobs of a context: a running UPDATE or PAIRFIX stops at a free element boundary (log 1), sequences stop at
their row boundaries, a kernel at once, and queued cards are discarded. -/
def resetJobs (s : State) (ctx : Nat) : State :=
  (List.range 64).foldl (fun s e =>
    let en := s.engine e
    if en.running.isNone && en.queue.isEmpty then s
    else
      match en.running.filter fun j => j.ctx = ctx with
      | none => s.setEngine e { en with queue := en.queue.filter fun j => j.ctx ≠ ctx }
      | some j =>
        let s := match j.block with
          | some (bs, gen) =>
            if j.ended.isSome then s
            else
              let r := blockWork e j bs gen (j.start s (some (Config.freeWord (s.free * 2 ^ 32 + j.serial)).toNat))
              (match r.halt with
               | some (.page _ _ _ _) => s
               | _ => r.s)
          | none => s
        (stopSequences (forgetUnread s (.job j.serial)) e).setEngine e
          { (s.engine e) with running := none, queue := en.queue.filter fun j => j.ctx ≠ ctx }) s

end Sys2Proof.Machine
end

