-- ==== Sys2Proof/Machine/Team.lean ====
section
/-! DEFINITION. Launches and teams: completion of launches in their queues, retirement of teams, charges, stopping and
forced reset of contexts (03 R36, R38, R43 to R46, R49, R51; 27 R325). -/

namespace Sys2Proof.Machine

/-- The number under which the dispatcher's own accesses are made: no logical core has it. -/
def dispCore : Nat := 256

/-- Reads n bytes at a 57-bit address for the dispatcher, or for whom it acts. -/
def dispRead (s : State) (who : Agent) (ctx : Nat) (a : Addr) (n : Nat) : Fetch :=
  (engineRead s dispCore ctx (canonical a) n).of s who

/-- Starts or joins the migration of a capacity PTE the dispatcher met (03 R46; 11 R139). It is work of die 0's fault unit,
as are those that inbound PCIe requests meet (DESIGN CHOICE, log 73). -/
def dispMigrate (s : State) (who : Agent) (ctx : Nat) (ea : Nat) (pte : BitVec 64) (a : Nat) (big : Bool) : State :=
  startMigration s 0 ctx ea pte a big who

/-! ## Charges (03 R38) -/

/-- A core reports its accrued charges, those of the Millstone clocks worked so far among them: each queue's remaining
budget falls. -/
def reportCharges (s : State) (core : Nat) : State :=
  let s := accrueMill s core
  let k := s.core core
  let s := k.charges.foldl (fun s e =>
    let q := s.queue e.1
    s.setQueue e.1 { q with brem := q.brem - BitVec.ofNat 64 e.2 }) s
  s.setCore core { s.core core with charges := [] }

/-- The cores whose report is due in this clock, a multiple of 4,096 after their latest, and that have something to charge. -/
def reportsDue (s : State) : List Nat :=
  s.cores.keys.filter fun c =>
    let k := s.core c
    c < 256 && k.lastReport < s.clock && (s.clock - k.lastReport) % 4096 = 0 && !(k.charges.isEmpty && k.commands.isEmpty)

/-- The periodic report of a core. -/
def reportCore (s : State) (core : Nat) : State :=
  let last := (s.core core).lastReport
  let s := reportCharges s core
  s.setCore core { s.core core with lastReport := s.clock - (s.clock - last) % 4096 }

/-- CHARGE_REPORT (03 R38): a core's report of every 4,096 clocks. -/
def execChargeReport (core : Nat) (s : State) : Out :=
  if (reportsDue s).contains core then .next (reportCore s core) else .refused (.notEnabled "CHARGE_REPORT")

/-- JQBLOAD_WRITE (03 R38). -/
def execJqbloadWrite (queue : Nat) (v : BitVec 64) (s : State) : Out :=
  byHart "JQBLOAD_WRITE" s
    (.next (if queue < 64 then s.setQueue queue { s.queue queue with bload := v, brem := v } else s))

/-! ## Completion of launches (03 R31, R36, R45, R46) -/

/-- The status of a launch's completion word (03 R45). -/
def Launch.status (l : Launch) : Nat :=
  if l.reset then 3 else if l.bad then 1 else if l.faulted then 5 else if l.killed then 2 else 0

/-- All that a launch started is over: its word is due, in queue order for one that was rejected, faulted or reset. -/
def Launch.due (l : Launch) (first : Bool) : Bool :=
  !l.done && (l.placed || l.halted) && l.retired = l.next && (first || !(l.bad || l.faulted || l.reset))

/-- The outcome of a completion word. -/
inductive Worded where
  /-- written, or dropped and reported -/
  | done (s : State)
  /-- its page is being migrated -/
  | waits (s : State)

/-- Writes a launch's completion word at DONE, as a release (03 R45, R46; 11 R148). -/
def writeLaunchWord (s : State) (who : Agent) (ctx jobq : Nat) (addr : Addr) (seq : BitVec 48) (status : Nat) : Worded :=
  let ea := canonical addr
  let drop := contextEvent s ctx 0x141 0 0 jobq
  if ea % 8 ≠ 0 then .done drop
  else
    match (engineMeet s dispCore ctx ea 8).of s who with
    | .park p a b => .waits (dispMigrate s who ctx ea p a b)
    | .bad _ => .done (forgetUnread drop who)
    | .ok _ =>
      match engineWrite s who dispCore ctx ea (natBytes 8 (completionWord 1 status seq)) with
      | (s, .bytes _ _ pa) => .done (carry s engineCarried pa)
      | (_, _) => .done drop

/-- Writes the words that are due in a queue, in order; the completed launches at its head leave it. -/
def settleQueue (s : State) (q : Nat) : State :=
  let go := (s.queue q).launches.foldl (fun (x : State × Bool) id =>
    match x.1.launches.get id with
    | none => x
    | some l =>
      if l.done then x
      else if l.due x.2 then
        match writeLaunchWord x.1 (.launch id) l.ctx q l.record.done l.record.seq l.status with
        | .done s => (s.setLaunches (s.launches.set id { l with done := true }), x.2)
        | .waits s => (s, false)
      else (x.1, false)) (s, true)
  let s := go.1
  let overNow (id : Nat) : Bool := match s.launches.get id with | some l => l.done | none => true
  let jq := s.queue q
  let gone := jq.launches.takeWhile overNow
  if gone.isEmpty then s
  else
    let s := s.setQueue q { jq with launches := jq.launches.dropWhile overNow }
    s.setLaunches (gone.foldl (fun m id => m.erase id) s.launches)

/-- Settles every queue. -/
def settleAll (s : State) : State := s.disp.queues.keys.foldl settleQueue s

/-- MIGRATION_COMPLETE (11 R139, R140), which may tell that the tier's read of the page failed; after it the words that
waited for the page are written and cards that waited for it are handed over (21 R265). -/
def execMigrationComplete (die : Nat) (ending : MigrationEnd) (s : State) : Out :=
  andThen (finishMigration die ending.pte ending.failed s) fun s => handAll (settleAll s)

/-! ## Stopping a context (03 R49) -/

/-- A context holds a resident team. -/
def hasTeams (s : State) (ctx : Nat) : Bool := s.teams.any fun e => e.2.ctx = ctx

/-- STOPPED is set, PREEMPT clears and event 0x145 is sent once no team of a pre-empted context is resident. -/
def checkStopped (s : State) (ctx : Nat) : State :=
  let c := s.context ctx
  if c.preempt && !hasTeams s ctx then
    noticeEvent (s.setContext ctx { c with stopped := true, preempt := false, deadline := none }) ctx 0x145
  else s

/-! ## Leaving cores -/

/-- Scratchpad keys of a reservation. -/
def inReservation (core lo n k : Nat) : Bool := k / 2 ^ 19 = core && lo ≤ k % 2 ^ 19 && k % 2 ^ 19 < lo + n

/-- A team leaves one core: its context, rings, tiles, Millstone reservation, payloads, footprints and reports go (03 R43;
21 R256). The clock's end serves waiting requests for its tiles (23 R274). -/
def leaveCore (s : State) (team core : Nat) : State :=
  let k := s.core core
  let mine := (k.footprints.filter fun f => f.team = team).map Footprint.serial
  let t := s.tctxs.get (tctxKey team core)
  let size := ((s.launchOf team).map fun l => 1024 * l.record.scratch.toNat).getD 0
  let gone (g : Nat) : Bool := match t with | some t => inReservation core t.scratch size (16 * g) | none => false
  let s := s.setMem { s.mem with unordered := s.mem.unordered.filter fun e => !gone (e.1 / 2 ^ 24) }
  let s := s.setCore core { k with
    rings := k.rings.filter fun e => e.2.team ≠ team
    mill := if k.mill = some team then none else k.mill
    tiles := k.tiles.filter fun e => e.2 ≠ team
    payloads := k.payloads.filter fun p => p.team ≠ team
    formed := k.formed.filter fun p => p.team ≠ team
    footprints := k.footprints.filter fun f => f.team ≠ team
    reports := k.reports.filter fun e => !mine.contains e.1 }
  s.setTctxs (s.tctxs.erase (tctxKey team core))

/-! ## Retirement (03 R43) -/

/-- No thread of a team is left or waits in a regroup table. -/
def threadsOver (s : State) (team : Nat) : Bool :=
  (crewsOf s team).all (fun e => e.2.liveLanes.isEmpty) &&
    (teamCores s team).all fun c =>
      let k := s.core c
      !(k.payloads.any fun p => p.team = team) && !(k.formed.any fun p => p.team = team)

/-- Every engine command of a team has published, those accepted whose checks are not over among them (21 R245). -/
def commandsOver (s : State) (team : Nat) : Bool :=
  (teamCores s team).all fun c =>
    !((s.core c).commands.any fun x => x.team = team) &&
      !((s.core c).waiters.any fun x => x.accepted.isSome && (s.crews.get x.crew).map Crew.team = some team)

/-- The outcome of setting a bitmap bit. -/
inductive Marked where
  | set (s : State)
  | dropped
  | waits (s : State)

/-- Sets the bit of a retired team, as a release at device scope (03 R43, R46). -/
def markBitmap (s : State) (team ctx index : Nat) (bitmap : Addr) : Marked :=
  let ea := canonical (bitmap + BitVec.ofNat 57 (8 * (index / 64)))
  match (engineMeet s dispCore ctx ea 8).of s (.team team) with
  | .bad _ => .dropped
  | .park p a b => .waits (dispMigrate s (.team team) ctx ea p a b)
  | .ok ms =>
    if piecesPoisoned s ms then .dropped
    else
      let old := bytesNat (readPieces s dispCore ms)
      match engineWrite s (.team team) dispCore ctx ea (natBytes 8 (old ||| 2 ^ (index % 64))) with
      | (s, .bytes _ _ pa) => .set (carry s engineCarried pa)
      | _ => .dropped

/-- TEAM_RETIRE (03 R43): the team's writes are released, its bit set or dropped, its charges reported, all it holds is
freed, and its launch and context go on. What the team still holds does not hold the retirement back, and while the page of
its bitmap migrates it keeps all of it (DESIGN CHOICE, log 84). -/
def execTeamRetire (team : Nat) (s : State) : Out :=
  match s.teams.get team with
  | none => .refused (.notEnabled "TEAM_RETIRE")
  | some t =>
    match s.launches.get t.launch with
    | none => .refused (.notEnabled "TEAM_RETIRE")
    | some l =>
      if t.saving || !threadsOver s team || !commandsOver s team then .refused (.notEnabled "TEAM_RETIRE")
      else
        let s := t.cores.foldl (fun s c =>
          let s := sendEntries s c fun e => !e.stores.isEmpty
          s.setMem (s.mem.flushL1 c fun _ => true)) s
        let finish (s : State) (dropped : Bool) : Out :=
          let s := t.cores.foldl reportCharges s
          let s := t.cores.foldl (fun s c => leaveCore s team c) s
          let s := s.setTeams (s.teams.erase team)
          let s := s.setLaunches (s.launches.modify t.launch fun l =>
            { l with retired := l.retired + 1, killed := l.killed || t.killed, faulted := l.faulted || dropped })
          .next (checkStopped (settleQueue s l.record.jobq.toNat) t.ctx)
        match markBitmap s team t.ctx t.index l.record.bitmap with
        | .set s => finish (forgetUnread s (.team team)) false
        | .dropped =>
          finish (forgetUnread (contextEvent s t.ctx 0x141 0 0 l.record.jobq.toNat t.index) (.team team)) true
        | .waits s' => if s'.sys.faults = s.sys.faults then .refused (.notEnabled "TEAM_RETIRE") else .next s'

/-! ## Forced reset (03 R51; 27 R325) -/

/-- Bytes and granules of a team's reservation on a core become +0 (27 R325). -/
def clearReservation (s : State) (core lo n : Nat) : State :=
  s.setMem { s.mem with
    scratch := s.mem.scratch.filter fun e => !inReservation core lo n e.1
    scratchPoison := s.mem.scratchPoison.filter fun e => !inReservation core lo n (16 * e.1) }

/-- Kills one team: its commands are abandoned, each performed whole or not at all by a free choice (21 R245, log 1),
its crews end, and what it held is freed and zeroed. -/
def killTeam (s : State) (team : Nat) : State :=
  match s.teams.get team with
  | none => s
  | some t =>
    let size := ((s.launchOf team).map fun l => 1024 * l.record.scratch.toNat).getD 0
    let s := t.cores.foldl (fun s c =>
      let s := accrueMill s c
      let mine := (s.core c).commands.filter fun x => x.team = team
      let s := mine.foldl (fun s x =>
        if Config.freeBool (s.free * 2 ^ 32 + x.serial) then
          match performWork s c x with
          | .ended s _ _ _ => s
          | .waits _ => s
        else s) s
      let k := s.core c
      let s := s.setCore c { k with
        commands := k.commands.filter fun x => x.team ≠ team
        waiters := k.waiters.filter fun x => ((s.crews.get x.crew).map Crew.team) ≠ some team }
      let s := (List.range 64).foldl (fun s n => if (s.core c).tiles.get n = some team then s.setMem (zeroTile s.mem c n) else s) s
      match s.tctxs.get (tctxKey team c) with
      | some x => clearReservation s c x.scratch size
      | none => s) s
    let keys := (crewsOf s team).map Prod.fst
    let s := s.setSleepers (s.sleepers.filter fun e => !keys.contains e.2.crew)
    let s := s.setCrews (s.crews.filter fun e => e.2.team ≠ team)
    let s := t.cores.foldl (fun s c => leaveCore s team c) s
    s.setTeams (s.teams.erase team)

/-- Marks a launch as ended by forced reset. -/
def Launch.endReset (l : Launch) : Launch := { l with reset := true, placed := true, retired := l.next }

/-- The queues of a context. -/
def queuesOf (s : State) (ctx : Nat) : List Nat := (List.range 64).filter fun q => (s.queue q).ctx.toNat = ctx

/-- Forcibly resets a context (03 R51; 27 R325; 29 R332); event 0x140 comes last. -/
def forcedReset (s : State) (ctx : Nat) : State :=
  let teams := (s.teams.filter fun e => e.2.ctx = ctx).map Prod.fst
  let s := resetJobs (teams.foldl killTeam s) ctx
  let s := s.setLaunches (s.launches.map fun (n, l) => (n, if l.ctx = ctx && !l.done then l.endReset else l))
  let s := s.setMem { s.mem with staged := s.mem.staged.filter fun e => e.2.ctx ≠ ctx }
  let s := (queuesOf s ctx).foldl (fun s q => s.setQueue q { s.queue q with fault := true }) s
  let s := s.setContext ctx { s.context ctx with
    preempt := false, resume := false, reset := true, deadline := none, saved := [], savedSleepers := [], held := []
    waiting := [] }
  contextEvent (settleAll s) ctx 0x140 0 0 0

end Sys2Proof.Machine
end

