-- ==== Sys2Proof/Machine/Dispatcher.lean ====
section
/-! DEFINITION. The dispatcher: launch records, submission rings, eligibility and placement of teams, and crews formed by the
regroup table (03 R26 to R37, R39, R44, R47, R48, R53, R359; 19 R233). -/

namespace Sys2Proof.Machine

/-! ## Launch records (03 R30, R31) -/

/-- The fields of a record's bytes. -/
def LaunchRecord.parse (bs : List Byte) : LaunchRecord :=
  let c := recAt bs 0xC 4
  let r := recAt bs 0x10 4
  let va (o : Nat) : Addr := BitVec.ofNat 57 (recAt bs o 8)
  { entry := va 0, teams := BitVec.ofNat 32 (recAt bs 8 4), crews := BitVec.ofNat 10 c, regs := BitVec.ofNat 3 (c / 2 ^ 10)
    cores := BitVec.ofNat 4 (c / 2 ^ 13), det := c / 2 ^ 17 % 2 = 1, save := c / 2 ^ 18 % 2 = 1, cons := c / 2 ^ 19 % 2 = 1
    ovlp := c / 2 ^ 20 % 2 = 1, chk := c / 2 ^ 21 % 2 = 1, scratch := BitVec.ofNat 10 r, acc := BitVec.ofNat 7 (r / 2 ^ 10)
    constn := BitVec.ofNat 9 (r / 2 ^ 17), jobq := BitVec.ofNat 6 (r / 2 ^ 26), dscope := BitVec.ofNat 3 (recAt bs 0x14 4)
    const := va 0x18, bitmap := va 0x20, done := va 0x28, seq := BitVec.ofNat 48 (recAt bs 0x30 8), pbmap := va 0x38
    pbase := BitVec.ofNat 32 (recAt bs 0x40 4), pmul := BitVec.ofNat 32 (recAt bs 0x44 4)
    prun := BitVec.ofNat 16 (recAt bs 0x48 2), plast := BitVec.ofNat 32 (recAt bs 0x4C 4), tlarea := va 0x50
    tlsize := BitVec.ofNat 32 (recAt bs 0x58 4) }

def LaunchRecord.crewCount (r : LaunchRecord) : Nat := r.crews.toNat + 1
def LaunchRecord.coreCount (r : LaunchRecord) : Nat := r.cores.toNat + 1
def LaunchRecord.teamCount (r : LaunchRecord) : Nat := r.teams.toNat + 1
def LaunchRecord.regCount (r : LaunchRecord) : Nat := 8 * (r.regs.toNat + 1)
/-- Crews of a team on each member core (03 R26). -/
def LaunchRecord.share (r : LaunchRecord) : Nat := r.crewCount / r.coreCount

/-- A reserved bit of a record is set (03 R30). -/
def recordReserved (bs : List Byte) : Bool :=
  let high (o : Nat) : Bool := 2 ^ 57 ≤ recAt bs o 8
  high 0 || 2 ^ 22 ≤ recAt bs 0xC 4 || 8 ≤ recAt bs 0x14 4 || high 0x18 || high 0x20 || high 0x28 ||
    2 ^ 48 ≤ recAt bs 0x30 8 || high 0x50 || ((bs.take 128).drop 0x5C).any (fun b => b ≠ 0) ||
    (recAt bs 0xC 4 / 2 ^ 19 % 2 = 1 && (high 0x38 || recAt bs 0x4A 2 ≠ 0))

/-- JOBQ names an enabled queue of the context. -/
def jobqOk (s : State) (ctx : Nat) (r : LaunchRecord) : Bool :=
  let q := s.queue r.jobq.toNat
  q.en && q.ctx.toNat = ctx

/-- A record is invalid (03 R31). -/
def recordBad (s : State) (ctx : Nat) (bs : List Byte) : Bool :=
  let r := LaunchRecord.parse bs
  recordReserved bs || r.entry.getLsbD 0 || r.crewCount % r.coreCount ≠ 0 ||
    6 * min 32 (1024 / r.regCount) < r.share || 512 < r.scratch.toNat || 64 < r.acc.toNat || 384 < r.constn.toNat ||
    !(r.dscope = 5 || r.dscope = 6) || r.const.toNat % 4 ≠ 0 || r.bitmap.toNat % 8 ≠ 0 || r.done.toNat % 8 ≠ 0 ||
    r.tlarea.toNat % 16 ≠ 0 || r.tlsize.toNat % 16 ≠ 0 || !jobqOk s ctx r ||
    (r.cons && (r.pbmap.toNat % 8 ≠ 0 || r.prun = 0 ||
      r.plast.toNat < r.pbase.toNat + r.pmul.toNat * r.teams.toNat + r.prun.toNat - 1)) ||
    (r.det && !([1, 2, 4, 8, 16].contains r.coreCount))

/-- What the dispatcher does with a record. -/
inductive Taken where
  | taken (s : State)
  | full
  /-- the completion word of a rejected record waits for a migration -/
  | waits (s : State)

/-- Takes a record for a context (03 R31, R35): it enters the queue it names, or is rejected at once. -/
def takeRecord (s : State) (who : Agent) (ctx : Nat) (bs : List Byte) : Taken :=
  let r := LaunchRecord.parse bs
  let bad := recordBad s ctx bs
  if !jobqOk s ctx r then
    match writeLaunchWord s who ctx r.jobq.toNat r.done r.seq 1 with
    | .done s => .taken s
    | .waits s => .waits s
  else
    let n := r.jobq.toNat
    let q := s.queue n
    let held := q.launches.filter fun id => match s.launches.get id with | some l => !l.done | none => false
    if 64 ≤ held.length then .full
    else
      let l : Launch :=
        { record := r, ctx, bad, next := 0, retired := 0, killed := false, placed := bad, faulted := false, halted := false
          reset := false, done := false }
      let s := (s.setLaunches (s.launches.set s.serial l)).setQueue n { q with launches := q.launches ++ [s.serial] }
      .taken (settleQueue (s.setSerial (s.serial + 1)) n)

/-- LAUNCH (19 R233); a thread that raises or parks has released nothing (00 R8). -/
def execLaunch (f : F64) (s : State) : Out :=
  issue (.launch f) s fun env s =>
    let ctx := ctxOf s env.crew
    let core := coreOf env.key
    let who : Agent := .check env.key env.is.pc.toNat
    (env.parts.foldl (fun (a : Lanewise) p =>
      let ea := (pair64 p.a).toNat
      if ea % 64 ≠ 0 then { a with raised := a.raised ++ [{ lane := p.l, cause := 0x040, value := ea }] }
      else
        let s := noteEngine (releaseAt a.s env.key 5) dispCore ctx ea 128
        match engineRead s dispCore ctx ea 128 with
        | .bad c => { a with raised := a.raised ++ [{ lane := p.l, cause := c, value := ea }] }
        | .park pte x b => a.take (parkOn a.s core ctx ea pte x b).1 p.l ea (parkOn a.s core ctx ea pte x b).2 fun _ => []
        | .ok bs poison =>
          if poison then { a with raised := a.raised ++ [{ lane := p.l, cause := 0x047, value := ea }] }
          else
            match takeRecord s who ctx bs with
            | .taken s => { a with s := forgetUnread s who, writes := a.writes ++ [(p.l, [0#32])] }
            | .full => { a with s := s, writes := a.writes ++ [(p.l, [1#32])] }
            | .waits s =>
              let word := canonical (LaunchRecord.parse bs).done
              (match (engineMeet s dispCore ctx word 8).of s who with
               | .park _ x b => { a with s := s, sleeps := a.sleeps ++ [(p.l, .migration (migrationId x b) word)] }
               | _ => { a with s := s })) { s := s }).result

/-! ## Submission rings (03 R33, R35) -/

/-- SRHEAD_WRITE (03 R35). A head beyond capacity is stored, and no entry is read until a later write lies within it. -/
def execSrheadWrite (ring : Nat) (v : Word) (s : State) : Out :=
  let r := s.subRing ring
  byHart "SRHEAD_WRITE" s (.next (
    if 16 ≤ ring then s
    else if 2 ^ ringLog r.log.toNat < (v - r.tail).toNat then
      contextEvent (s.setSubRing ring { r with head := v, overrun := true, en := false, barred := true }) r.ctx.toNat 0x142 0 0 0
    else s.setSubRing ring { r with head := v, barred := false }))

/-- RING_ENTRY_READ (03 R35). -/
def execRingEntryRead (ring : Nat) (s : State) : Out :=
  let r := s.subRing ring
  if 16 ≤ ring || !r.en || r.barred || !s.sys.ready || r.head = r.tail then .refused (.notEnabled "RING_ENTRY_READ")
  else
    let ctx := r.ctx.toNat
    let ea := canonical (r.base + BitVec.ofNat 57 (128 * (r.tail.toNat % 2 ^ ringLog r.log.toNat)))
    let unreadable := contextEvent (s.setSubRing ring { r with rdfault := true, en := false }) ctx 0x148 0 0 ring
    let wait (s' : State) : Out := if s'.sys.faults = s.sys.faults then .refused (.notEnabled "RING_ENTRY_READ") else .next s'
    let who : Agent := .ring ring
    let s := noteEngine s dispCore ctx ea 128
    match (engineRead s dispCore ctx ea 128).of s who with
    | .bad _ => .next (forgetUnread unreadable who)
    | .park p a b => wait (dispMigrate s who ctx ea p a b)
    | .ok bs poison =>
      if poison then .next unreadable
      else
        match takeRecord s who ctx bs with
        | .full => .refused (.notEnabled "RING_ENTRY_READ")
        | .waits s' => wait s'
        | .taken s => .next (forgetUnread (s.setSubRing ring { s.subRing ring with tail := r.tail + 1 }) who)

/-! ## Room for teams (03 R26 to R29, R53) -/

/-- The places of crews in order, each with its rank and registers; none when one has no room. -/
def placeShare (used : List (Nat × Nat × Nat)) (det : Bool) : List (Nat × Nat) → Option (List (Nat × Nat))
  | [] => some []
  | (k, g) :: rest =>
    match placeCrew used g k det with
    | none => none
    | some (part, n) => (placeShare ((part, n, g) :: used) det rest).map fun ps => (part, n) :: ps

/-- The reservations on a core: offset and bytes. -/
def reservations (s : State) (core : Nat) : List (Nat × Nat) :=
  s.tctxs.filterMap fun (k, t) =>
    if k % 256 = core then
      match s.launchOf (k / 256) with
      | some l => some (t.scratch, 1024 * l.record.scratch.toNat)
      | none => none
    else none

/-- The lowest 1 KiB boundary with n free bytes (11 R130). -/
def scratchFit (s : State) (core n : Nat) : Option Nat :=
  let rs := reservations s core
  if n = 0 then some 0
  else (sortAsc (0 :: rs.map fun r => r.1 + r.2)).find? fun o =>
    o + n ≤ 2 ^ 19 && rs.all fun r => o + n ≤ r.1 || r.1 + r.2 ≤ o || r.2 = 0

/-- Team contexts on a core (03 R28). -/
def contextsOn (s : State) (core : Nat) : Nat := (s.tctxs.filter fun e => e.1 % 256 = core).length

/-- The cores of a team: ascending logical cores of one logical cluster. -/
def coresOk (cores : List Nat) : Bool :=
  (match cores with | c :: _ => cores.all fun x => clusterOf x = clusterOf c && x < 256 | [] => false) &&
    sortAsc cores = cores

/-! ## Physical cores (01 R12, R19) -/

/-- Logical clusters each physical cluster serves. -/
def clusterShare (d : SysDie) : Nat := 4 / d.dies

/-- A slot's core has not been retired. -/
def SysDie.inService (d : SysDie) (cluster slot : Nat) : Bool :=
  !(((d.phys.get (cluster * 17 + slot)).map PhysCore.retired).getD false)

/-- The spare slot of a cluster, as the configuration record sets it (01 R12). -/
def SysDie.spareSlot (d : SysDie) (cluster : Nat) : Nat :=
  ((d.record.spares.find? fun e => e.1 = cluster).map Prod.snd).getD 16

/-- The slots that serve the 16 places of a cluster while all of them are in service. -/
def SysDie.homeSlots (d : SysDie) (cluster : Nat) : List Nat := (List.range 17).filter fun k => k ≠ d.spareSlot cluster

/-- The cores that take lost cores' logical cores, in the order in which they take them: the spare, each survivor once
beside its own share, and the spare once more, so that each serves at most twice its share (01 R19; the order is a DESIGN
CHOICE, log 73). -/
def SysDie.takers (d : SysDie) (cluster : Nat) : List Nat :=
  (d.spareSlot cluster :: d.homeSlots cluster ++ [d.spareSlot cluster]).filter fun k => k < 17 && d.inService cluster k

/-- The physical core that serves a logical core (01 R19; 31 R357): its own slot's while that is in service, else that of
the spare or of a survivor. Consecutive logical clusters share a physical one (DESIGN CHOICE, log 73). -/
def serverOf (d : SysDie) (logical : Nat) : Option Nat :=
  let cluster := clusterOf logical / clusterShare d
  let homes := d.homeSlots cluster
  let own := nth homes (logical % 16)
  if d.inService cluster own then some (cluster * 17 + own)
  else
    let lost := ((homes.take (logical % 16)).filter fun k => !d.inService cluster k).length
    (d.takers cluster)[lost]?.map fun k => cluster * 17 + k

/-- The core that serves a logical core is to be retired: the placer starts no team there (31 R357). -/
def SysDie.isRetiring (d : SysDie) (logical : Nat) : Bool :=
  d.phys.any (fun e => e.2.retiring) &&
    match serverOf d logical with
    | some p => ((d.phys.get p).map PhysCore.retiring).getD false
    | none => true

/-- Room on one core for a share of crews: the reservation's offset and the crews' places (03 R29). -/
def roomOn (s : State) (core scratch : Nat) (det : Bool) (share : List (Nat × Nat)) : Option (Nat × List (Nat × Nat)) :=
  if 32 ≤ contextsOn s core || s.sys.isRetiring core then none
  else
    match scratchFit s core scratch, placeShare (usedSlots s core) det share with
    | some o, some ps => some (o, ps)
    | _, _ => none

/-- Room on every member core. -/
def roomForAll (s : State) (scratch : Nat) (det : Bool) : List (Nat × List (Nat × Nat)) →
    Option (List (Nat × List (Nat × Nat)))
  | [] => some []
  | (core, share) :: rest =>
    match roomOn s core scratch det share, roomForAll s scratch det rest with
    | some r, some rs => some (r :: rs)
    | _, _ => none

/-- The cores that DET fixes for a team (03 R53). -/
def detCores (r : LaunchRecord) (t : Nat) : List Nat :=
  (List.range r.coreCount).map fun j => r.coreCount * t % 256 + j

/-- Each die starts one placement in a dispatcher clock (03 R34). -/
def dieFree (s : State) (core : Nat) : Bool := s.disp.lastPlace.get (faultDie s core) ≠ some (s.clock / 2)

/-- Cores that can take a team. -/
def fits (s : State) (r : LaunchRecord) (cores : List Nat) : Option (List (Nat × List (Nat × Nat))) :=
  if coresOk cores && cores.length = r.coreCount && dieFree s (nth cores 0) then
    roomForAll s (1024 * r.scratch.toNat) r.det
      (cores.map fun c => (c, (List.range r.share).map fun k => (k, r.regCount)))
  else none

/-- The first fitting cores of a cluster, lowest first. -/
def clusterFit (s : State) (r : LaunchRecord) (cluster : Nat) : Option (List Nat) :=
  let share := (List.range r.share).map fun k => (k, r.regCount)
  let good := ((List.range 16).map fun j => 16 * cluster + j).filter fun c =>
    (roomOn s c (1024 * r.scratch.toNat) r.det share).isSome
  if r.coreCount ≤ good.length && dieFree s (16 * cluster) then some (good.take r.coreCount) else none

/-- Cores on which a placer can place a team (03 R29, R53). -/
def someCores (s : State) (r : LaunchRecord) (index : Nat) : Option (List Nat) :=
  if r.det then (if (fits s r (detCores r index)).isSome then some (detCores r index) else none)
  else (List.range 16).findSome? fun k => clusterFit s r k

/-! ## Eligible queues (03 R36, R37, R44, R359) -/

/-- The launch whose next team a queue would start, if R36 lets it: every earlier launch has placed its teams, and without
OVLP the previous one has completed. A launch whose reads failed starts no team and holds the queue until it completes
(R359). -/
def nextLaunch (s : State) (q : Nat) : Option (Nat × Launch) :=
  let ls := (s.queue q).launches.filterMap fun id => (s.launches.get id).map fun l => (id, l)
  let i := ls.findIdx fun e => !(e.2.placed || e.2.done)
  match ls[i]? with
  | none => none
  | some e =>
    if e.2.halted then none else
    let before := ls.take i
    let previousDone := match before.getLast? with | some p => p.2.done | none => true
    if e.2.record.ovlp || previousDone then some e else none

/-- The context of a queue may start teams (03 R49, R51, R52; 11 R133; 01 R19). -/
def mayStart (s : State) (q : Nat) (ctx : Nat) : Bool :=
  let c := s.context ctx
  let k := s.queue q
  c.mode ≠ 0 && k.en && !k.fault && !c.preempt && !c.stopped && c.saved.isEmpty && !s.sys.unservable &&
    (!k.budgeted || (0#64).slt k.brem)

/-- What the dispatcher's reads for the next team of a launch give (03 R32, R44, R359). -/
inductive Reads where
  | ready (consts : List Word)
  /-- a producer bit is clear -/
  | wait
  | failed
  | page (ea : Nat) (pte : BitVec 64) (a : Nat) (big : Bool)

/-- The dwords of the producer bits of a team. -/
def producerBits (s : State) (id ctx : Nat) (r : LaunchRecord) (t : Nat) : Reads :=
  let lo := r.pbase.toNat + r.pmul.toNat * t
  let hi := lo + r.prun.toNat - 1
  let a : Addr := r.pbmap + BitVec.ofNat 57 (8 * (lo / 64))
  match dispRead s (.launch id) ctx a (8 * (hi / 64 + 1 - lo / 64)) with
  | .bad _ => .failed
  | .park p x b => .page (canonical a) p x b
  | .ok bs poison =>
    if poison then .failed
    else
      let v := bytesNat bs / 2 ^ (lo % 64)
      if v % 2 ^ r.prun.toNat = 2 ^ r.prun.toNat - 1 then .ready [] else .wait

/-- The constant table of a launch. -/
def constTable (s : State) (id ctx : Nat) (r : LaunchRecord) : Reads :=
  let n := r.constn.toNat
  if n = 0 then .ready []
  else
    match dispRead s (.launch id) ctx r.const (4 * n) with
    | .bad _ => .failed
    | .park p x b => .page (canonical r.const) p x b
    | .ok bs poison => if poison then .failed else .ready ((List.range n).map fun k => BitVec.ofNat 32 (recAt bs (4 * k) 4))

/-- The reads before the next team of a launch. -/
def teamReads (s : State) (id : Nat) (l : Launch) : Reads :=
  match (if l.record.cons then producerBits s id l.ctx l.record l.next else .ready []) with
  | .ready _ => constTable s id l.ctx l.record
  | x => x

/-- The accesses of those reads (11 R135). -/
def noteLaunchReads (s : State) (l : Launch) : State :=
  let r := l.record
  let lo := r.pbase.toNat + r.pmul.toNat * l.next
  let hi := lo + r.prun.toNat - 1
  let s := if r.cons then
      noteEngine s dispCore l.ctx (canonical (r.pbmap + BitVec.ofNat 57 (8 * (lo / 64)))) (8 * (hi / 64 + 1 - lo / 64))
    else s
  if r.constn = 0 then s else noteEngine s dispCore l.ctx (canonical r.const) (4 * r.constn.toNat)

/-- A queue is eligible (03 R37). -/
def eligible (s : State) (q : Nat) : Bool :=
  match nextLaunch s q with
  | none => false
  | some (id, l) =>
    mayStart s q l.ctx && (match teamReads s id l with | .ready _ => true | _ => false) &&
      (someCores s l.record l.next).isSome

/-- The queue the dispatcher serves (03 R37). -/
def servedQueue (s : State) : Option Nat :=
  (List.range 4).findSome? fun cls =>
    (List.range 64).findSome? fun i =>
      let q := (nth s.disp.served cls + 1 + i) % 64
      if (s.queue q).cls.toNat = cls && eligible s q then some q else none

/-! ## Starting crews (03 R32, R39) -/

/-- The active crews of a partition of a core. -/
def activeIn (s : State) (core part : Nat) : Nat :=
  (s.crews.filter fun e => coreOf e.1 = core && partOf e.1 = part && e.2.active).length

/-- A placed crew takes its place in the active set or at the tail of the ready queue, where crews placed in one clock
stand in ascending crew index (03 R39). -/
def bringIn (s : State) (key : Nat) (c : Crew) : State :=
  if activeIn s (coreOf key) (partOf key) < 8 then
    s.setCrew key { c with active := true, ready := none }
  else s.setCrew key { c with active := false, ready := some (4096 * s.clock + 128 + c.index) }

/-- A crew with no register, token or convergence register in use. -/
def Crew.fresh (team index nregs : Nat) : Crew :=
  { team, index, regrouped := false, nregs, threads := [], regs := [], gregs := [], conv := [], tokens := [], fflags := 0
    stallchk := false, groups := [], pointer := 0, stallTill := 0, issues := 0, pend := [], held := [], lost := false
    signed := [], writeSets := List.replicate 6 0#512, acquired := 0, know := [], mopr := [], fence := .none
    reads := .none, active := false, lastGrant := 0, waitSince := none
    yielded := none, ready := none, hgrads := 0 }

/-- Sets of all ones, with which a restored crew starts, and one that continues threads of REGROUP: the hardware may replace
a set with all ones at any time (11 R153; log 83). -/
def Crew.anySets (c : Crew) : Crew :=
  { c with writeSets := List.replicate 6 (BitVec.allOnes 512), acquired := BitVec.allOnes 512 }

/-- TLBASE of a lane (03 R32). -/
def tlbaseOf (r : LaunchRecord) (team crew lane : Nat) : Addr :=
  r.tlarea + BitVec.ofNat 57 (((team * r.crewCount + crew) * 32 + lane) * r.tlsize.toNat)

/-- The state a crew starts with (03 R32). -/
def startCrew (clock : Nat) (r : LaunchRecord) (team index crew : Nat) (consts : List Word) : Crew :=
  { Crew.fresh team crew r.regCount with
    threads := (List.range 32).map fun l => (l, { Thread.start with pc := r.entry, tlbase := tlbaseOf r index crew l })
    gregs := (List.range consts.length).filterMap fun k =>
      if consts.getD k 0#32 = 0#32 then none else some (k, { val := consts.getD k 0#32, poison := false })
    stallchk := r.chk, groups := [{ pc := r.entry, handler := false, rep := 0 }], stallTill := clock }

/-- Places a team on cores with their rooms (03 R29, R32). -/
def placeTeam (s : State) (id : Nat) (l : Launch) (cores : List Nat) (rooms : List (Nat × List (Nat × Nat)))
    (consts : List Word) : State :=
  let team := s.serial
  let r := l.record
  let s := s.setSerial (team + 1)
  let s := s.setTeams (s.teams.set team
    { launch := id, index := l.next, ctx := l.ctx, cores, age := team, barGen := 0, barCount := 0, barFlags := []
      barBad := false, saving := false, killed := false })
  let s := s.setLaunches (s.launches.set id { l with next := l.next + 1, placed := l.next + 1 = r.teamCount })
  let ranked := (List.range cores.length).zip (cores.zip rooms)
  let s := ranked.foldl (fun s (_, core, o, _) => s.setTctx team core { TeamCtx.start with scratch := o }) s
  let s := ranked.foldl (fun s (rank, core, _, ps) =>
    (ps.zip (List.range ps.length)).foldl (fun s ((part, slot), k) =>
      bringIn s (crewKey core part slot) (startCrew s.clock r team l.next (rank * r.share + k) consts)) s) s
  s.setDisp { s.disp with lastPlace := s.disp.lastPlace.set (faultDie s (nth cores 0)) (s.clock / 2) }

/-- TEAM_PLACEMENT (03 R29, R37, R53): the served queue's next team is placed on cores that fit. A queue whose reads fail
faults its launch, and one whose reads meet a capacity PTE starts its migration (R359). -/
def execTeamPlacement (queue : Nat) (cores : List Nat) (s : State) : Out :=
  match nextLaunch s queue with
  | none => .refused (.notEnabled "TEAM_PLACEMENT")
  | some (id, l) =>
    if !mayStart s queue l.ctx then .refused (.notEnabled "TEAM_PLACEMENT")
    else
      match teamReads s id l with
      | .wait => .refused (.notEnabled "TEAM_PLACEMENT")
      | .failed =>
        .next (settleQueue (forgetUnread
          (s.setLaunches (s.launches.set id { l with faulted := true, halted := true })) (.launch id)) queue)
      | .page ea p a b =>
        let s' := dispMigrate s (.launch id) l.ctx ea p a b
        if s'.sys.faults = s.sys.faults then .refused (.notEnabled "TEAM_PLACEMENT") else .next s'
      | .ready consts =>
        if servedQueue s ≠ some queue || (l.record.det && cores ≠ detCores l.record l.next) then
          .refused (.notEnabled "TEAM_PLACEMENT")
        else
          match fits s l.record cores with
          | none => .refused (.notEnabled "TEAM_PLACEMENT")
          | some rooms =>
            let s := placeTeam (noteLaunchReads s l) id l cores rooms consts
            let cls := (s.queue queue).cls.toNat
            .next (s.setDisp { s.disp with served := s.disp.served.set cls queue })

/-! ## Crews formed by the regroup table (03 R47, R48) -/

/-- The crew that payloads form, with the STALLCHK its launch gives (03 R48; 05 R64). Groups of different continuation PCs
stand in its PC table by ascending PC, an order the spec does not give (DESIGN CHOICE, log 23). -/
def formedCrew (clock team index : Nat) (chk : Bool) (ps : List Payload) : Crew :=
  let threads : Map Thread := (List.range 32).map fun l =>
    match ps[l]? with
    | some p => (l, { Thread.start with pc := p.pc, tlbase := p.tlbase })
    | none => (l, { Thread.start with wait := .ended })
  let regs : Map LaneReg := ((List.range ps.length).zip ps).foldl (fun m (l, p) =>
    p.words.foldl (fun m e => m.set (32 * e.1 + l) e.2) m) []
  let keys := ps.foldl (fun ks p => insertKey { pc := p.pc, handler := false, rep := 0 } ks) []
  match ps with
  | p :: _ =>
    let know := ps.foldl (fun m q => joinKnow m q.know) []
    { (Crew.fresh team index p.nregs).anySets with
      regrouped := true, threads, regs, gregs := p.gregs, stallchk := chk, groups := keys, stallTill := clock, know }
  | [] => Crew.fresh team index 0

/-- The first formed crew of a core that has a slot, with its place. -/
def formedRoom (s : State) (core : Nat) : Option (Formed × Nat × Nat) :=
  (s.core core).formed.findSome? fun f =>
    (formedPlace s (usedSlots s core) f).map fun (part, slot) => (f, part, slot)

/-- The index of a crew formed from payloads: that of the crew that submitted lane 0's (13 R167). -/
def formedIndex (f : Formed) : Nat := (f.payloads.head?.map Payload.crewIndex).getD 0

/-- REGROUP_SPAWN (03 R48): the first core with a formed crew and a free slot for it starts that crew. -/
def execRegroupSpawn (s : State) : Out :=
  match (List.range 256).findSome? fun core =>
      if ((s.cores.get core).map Core.formed).getD [] = [] then none
      else (formedRoom s core).map fun x => (core, x) with
  | none => .refused (.notEnabled "REGROUP_SPAWN")
  | some (core, f, part, slot) =>
    let k := s.core core
    let s := s.setCore core { k with formed := k.formed.erase f }
    let chk := ((s.launchOf f.team).map fun l => l.record.chk).getD false
    .next (bringIn s (crewKey core part slot) (formedCrew s.clock f.team (formedIndex f) chk f.payloads))

end Sys2Proof.Machine
end

