-- ==== Sys2Proof/Machine/Issue.lean ====
section
/-! DEFINITION. Which groups of a crew can issue, for which port, when a crew waits, and the swaps of a partition's active
set (03 R23, R24, R39 to R41; 05 R66, R68). -/

namespace Sys2Proof.Machine

/-! ## The instruction of a group -/

/-- The instruction at a group's PC and, for a REP unit, the target of the group's repetition (07 R92); none when it
cannot be fetched or decoded. A unit that raises a cause runs no target and stands as the REP, on port B (DESIGN CHOICE, log
96). -/
def groupInstr (s : State) (key : Nat) (c : Crew) (K : GroupKey) : Option Instr :=
  let core := coreOf key
  let ctx := ctxOf s c
  match fetchInstr s core ctx K.pc with
  | .error _ => none
  | .ok bs =>
    match decode (bs.map Prod.snd) with
    | .ok (.rep f, _) =>
      (match fetchInstr s core ctx (K.pc + 4) with
       | .error _ => some (.rep f)
       | .ok ts =>
         match repTargetAt f false (ts.map Prod.snd) c.nregs K.handler K.rep with
         | .ok t => some t
         | .error _ => some (.rep f))
    | .ok (i, _) => some i
    | .error _ => none

/-- The awake lanes of a group (03 R23). -/
def groupLanes (c : Crew) (K : GroupKey) : List Nat :=
  (List.range 32).filter fun l => (c.thread l).wait = .awake && (c.thread l).key = K

/-! ## What holds an instruction back (03 R23; 05 R68) -/

/-- The v registers an instruction names: first and number (05 R58; 25 R297). A field that holds no register number names
none. -/
def regsNamed (s : State) (key : Nat) (c : Crew) (i : Instr) : List (Nat × Nat) :=
  let f := i.fields
  let m := i.form
  let plain := [(f.vd, Use.count m.d), (f.va, Use.count m.a), (f.vc, Use.count m.c)] ++
    (if f.g then [] else [(f.vb, Use.count m.b)])
  let table := boundTable s c.team (coreOf key) (f.mod % 4)
  match i, table with
  | .henc _, some t => [(f.vd, 2 * t.levels.length), (f.va, t.dims)]
  | .hgrad _, some t => [(f.va, t.dims), (f.vb, 2 * t.levels.length)]
  | _, _ => plain.filter fun e => e.2 ≠ 0

/-- A scoreboarded result for a register an instruction names has not been written yet (05 R68). -/
def boardHazard (s : State) (key : Nat) (c : Crew) (lanes : List Nat) (i : Instr) : Bool :=
  let named := regsNamed s key c i
  c.pend.any fun p =>
    p.board && (lanes.any fun l => inMask p.lanes l) && named.any fun (r, n) => r < p.dst + p.run && p.dst < r + n

/-- The checks of an accepted command wait for a page (21 R252). -/
def checkWaits (s : State) (core : Nat) (x : Waiter) : Bool :=
  match x.page with
  | some p => (s.faultUnit (faultDie s core)).migrations.any fun m => m.pte = p && m.done.isNone
  | none => false

/-- The accepted command of a crew whose checks are not over, the one accepted first: its group stands at it, and no other
instruction of the crew issues before (21 R252). -/
def checking (s : State) (key : Nat) (c : Crew) : Option Waiter :=
  let mine := (s.core (coreOf key)).waiters.filter fun x =>
    x.crew = key && x.accepted.isSome && c.groups.any fun K => K.pc = x.pc && !K.handler && !(groupLanes c K).isEmpty
  mine.foldl (fun b x =>
    match b with
    | none => some x
    | some y => if x.accepted.getD 0 < y.accepted.getD 0 then some x else b) none

/-- A group waits for the checks of a command of its crew: those of another group's, or of its own while a page they met
migrates (21 R252). -/
def checksPending (s : State) (key : Nat) (c : Crew) (K : GroupKey) : Bool :=
  match checking s key c with
  | some x => K.pc ≠ x.pc || K.handler || checkWaits s (coreOf key) x
  | none => false

/-- The crew's group waits for its command to be accepted, or an accepted Millstone command for those accepted before it
(21 R239, R241). -/
def commandWaits (s : State) (key : Nat) (pc : Addr) : Bool :=
  match waiterAt s key pc with
  | none => false
  | some x =>
    (match x.accepted with
     | some n => x.queue = 3 && owedFirst (s.core (coreOf key)) 3 n
     | none => false) || !mayAccept s key pc x.queue x.entries x.token

/-- The table cannot take the payloads of a REGROUP (15 R197). -/
def regroupWaits (s : State) (key : Nat) (c : Crew) (lanes : List Nat) (f : F64) : Bool :=
  let good := lanes.filter fun l =>
    (laneCause (regroupForm f) (Instr.regroup f).fields c l).isNone && (payloadCause c f l).isNone
  !good.isEmpty && 2048 < tableUsed (s.core (coreOf key)) + good.length

/-- The issue a group of a crew stands for, as far as the instruction's effect sees it. -/
def standing (key : Nat) (K : GroupKey) (lanes : List Nat) : Issue :=
  { crew := key, lanes := maskOf lanes, pc := K.pc, handler := K.handler, rep := K.rep, count := 1, unit := false
    next := K.pc + 8, h5 := 0, h6 := 0, target := none }

/-- A reducing store waits for room in the pool of staging slots (11 R156). -/
def stagingWaits (s : State) (key : Nat) (c : Crew) (K : GroupKey) (lanes : List Nat) (f : F64) : Bool :=
  stagingSlots s < s.mem.staged.length + 32 &&
    stagingFull (issueEnv (.st f) (Instr.form (.st f)) (standing key K lanes) c) s (ctxOf s c)
      (ldFmt (Instr.st f).fields) (ldOrd (Instr.st f).fields)

/-- An instruction does not issue for a reason of its own (11 R156; 15 R197; 21 R239; 25 R299; 27 R317). -/
def ownWait (s : State) (key : Nat) (c : Crew) (K : GroupKey) (lanes : List Nat) (i : Instr) : Bool :=
  checksPending s key c K || commandWaits s key K.pc ||
    (match i with
     | .regroup f => !K.handler && regroupWaits s key c lanes f
     | .st f => stagingWaits s key c K lanes f
     | .hesc _ => K.handler && evFull (s.context (ctxOf s c))
     | .hgrad f =>
       (match boundTable s c.team (coreOf key) (f.mod.toNat % 4) with
        | some t =>
          ((recordOf s c).map LaunchRecord.det).getD false && t.levels.all HashLevel.gv &&
            maskOf lanes = maskOf c.liveLanes && !c.regrouped && !hgradTurn s key c
        | none => false)
     | _ => false)

/-- What a group of a crew does when it is looked at. -/
inductive Stance where
  /-- asleep, or no thread awake -/
  | asleep
  /-- waits on a result or for its own reason (03 R24) -/
  | waits
  /-- could issue, on port A or not -/
  | ready (portA : Bool)
  deriving DecidableEq, Repr

def stanceOf (s : State) (key : Nat) (c : Crew) (K : GroupKey) : Stance :=
  let lanes := groupLanes c K
  if lanes.isEmpty then .asleep
  else
    match groupInstr s key c K with
    | none => .ready false
    | some i =>
      if (i.decodeCause c.nregs K.handler).isNone && (boardHazard s key c lanes i || ownWait s key c K lanes i) then .waits
      else .ready i.portA

/-- The groups of a crew in service order (03 R23). -/
def serviceOrder (c : Crew) : List GroupKey := c.groups.drop c.pointer ++ c.groups.take c.pointer

/-- The group a crew presents and its port (03 R23, R41). -/
def presented (s : State) (key : Nat) (c : Crew) : Option (GroupKey × Bool) :=
  if s.clock < c.stallTill then none
  else
    (serviceOrder c).findSome? fun K =>
      match stanceOf s key c K with
      | .ready a => some (K, a)
      | _ => none

/-- A thread's sleep is one of those of R24. -/
def waitsR24 (s : State) (t : Thread) : Bool :=
  match t.wait with
  | .barrier | .conv _ => true
  | .op id =>
    (match s.sleepers.get id with
     | some sl => (match sl.what with
       | .xsend _ _ _ _ | .xrecv _ _ | .escalating | .escalated _ _ => false
       | _ => true)
     | none => false)
  | _ => false

/-- The crew's stall count holds it back in this clock (03 R23; 05 R66): not in the clock of its own issue. -/
def isStalled (s : State) (c : Crew) : Bool := s.clock < c.stallTill && c.lastGrant ≠ s.clock

/-- A crew is waiting (03 R24): none of its groups can issue and some group waits. -/
def isWaiting (s : State) (key : Nat) (c : Crew) : Bool :=
  let st := c.groups.map fun K => stanceOf s key c K
  (isStalled s c || !(st.any fun x => match x with | .ready _ => true | _ => false)) &&
    (st.contains .waits || c.liveLanes.any fun l => waitsR24 s (c.thread l))

/-- The crew's team is being saved or its logical core is switched out: it receives no grant (03 R49, R54). -/
def suspended (s : State) (c : Crew) : Bool := ((s.teams.get c.team).map Team.saving).getD false

/-! ## Waiting crews and swaps (03 R39, R40; 17 R214) -/

/-- Brings the waits and the ready queues of all crews up to date: crews that stop waiting in one clock enter in ascending
slot order (03 R39). -/
def refreshWaits (s : State) : State :=
  s.crews.foldl (fun s' e =>
    let c := e.2
    let waits := isWaiting s e.1 c
    let since := if waits then some (c.waitSince.getD s.clock) else none
    let yielded := match c.yielded with | some y => if y + 64 ≤ s.clock then none else some y | none => none
    let queued := !c.active && !waits
    let ready := if queued then some (c.ready.getD (4096 * s.clock + e.1 % 32)) else none
    if c.waitSince = since && c.yielded = yielded && c.ready = ready then s'
    else s'.setCrew e.1 { c with waitSince := since, yielded := yielded, ready := ready }) s

/-- The crew of a list that comes first by a measure. -/
def firstBy (f : Nat × Crew → Nat) (cs : List (Nat × Crew)) : Option (Nat × Crew) :=
  cs.foldl (fun b e => match b with | none => some e | some x => if f e < f x then some e else some x) none

/-- Since when an active crew counts as waiting for the choice of a swap (03 R40; 17 R214). -/
def leaveSince (clock : Nat) (c : Crew) : Option Nat :=
  let y := match c.yielded with | some y => if clock < y + 64 then some y else none | none => none
  match c.waitSince, y with
  | some a, some b => some (min a b)
  | some a, none => some a
  | none, y => y

/-- The swap of a partition, if one is due: the crew that leaves, if any, and the one that enters. Where several
conditions of R40 hold, they count in the order of its list, and crews that tie for the longest wait or the oldest grant
leave in ascending slot order (DESIGN CHOICE, log 15). The clock of the latest swap is the first of the 64 clocks without
another, so that 24 swaps fit in the 1,536 clocks of R42. -/
def swapOf (s : State) (core part : Nat) : Option (Option Nat × Nat) :=
  let mine := s.crews.filter fun e => coreOf e.1 = core && partOf e.1 = part
  match firstBy (fun e => e.2.ready.getD 0) (mine.filter fun e => e.2.ready.isSome) with
  | none => none
  | some (new, _) =>
    let act := mine.filter fun e => e.2.active
    match firstBy (fun e => (leaveSince s.clock e.2).getD 0) (act.filter fun e => (leaveSince s.clock e.2).isSome) with
    | some (old, _) => some (some old, new)
    | none =>
      match firstBy (fun e => e.2.lastGrant) act with
      | some (old, _) =>
        if ((s.core core).part part).lastSwap + 64 ≤ s.clock then some (some old, new)
        else if act.length < 8 then some (none, new) else none
      | none => some (none, new)

/-- A crew leaves the active set: it joins the ready queue's tail unless it waits (03 R39; 17 R214), after the crews that
stopped waiting in the same clock and before those placed in it (log 15). -/
def leaveActive (s : State) (key : Nat) : State :=
  match s.crews.get key with
  | none => s
  | some c =>
    let c := { c with active := false, yielded := none }
    if c.waitSince.isSome then s.setCrew key { c with ready := none }
    else s.setCrew key { c with ready := some (4096 * s.clock + 64) }

/-- SWAP (03 R40): at most one in a clock; the crew that enters issues from the next clock on. -/
def execSwap (core part : Nat) (s : State) : Out :=
  let s := refreshWaits s
  let p := (s.core core).part part
  match swapOf s core part with
  | none => .refused (.notEnabled "SWAP")
  | some (old, new) =>
    if s.clock < p.doneSwap then .refused (.notEnabled "SWAP")
    else
      let s := match old with | some k => leaveActive s k | none => s
      let s := s.setCrews (s.crews.modify new fun c =>
        { c with active := true, ready := none, stallTill := max c.stallTill (s.clock + 1) })
      let k := s.core core
      .next (s.setCore core { k with parts := k.parts.set part { p with lastSwap := s.clock, doneSwap := s.clock + 1 } })

end Sys2Proof.Machine
end

