-- ==== Sys2Proof/Machine/Context.lean ====
section
/-! DEFINITION. Pre-emption, saving and restoring teams, logical-core switches and link retraining (03 R49, R50, R52, R54;
23 R292; 27 R319, R322 to R324). -/

namespace Sys2Proof.Machine

/-! ## Team images (03 R50; 27 R323) -/

/-- Bytes of a team's image (03 R50). -/
def imageSize (r : LaunchRecord) : Nat :=
  r.crewCount * (128 * r.regCount + 2048) + r.coreCount * (1024 * r.scratch.toNat + 16384 * r.acc.toNat + 4096)

/-- Where the next image of a context goes. -/
def nextImage (c : Context) : Nat :=
  match c.saved.getLast? with
  | some t => t.addr + t.size
  | none => c.save.toNat / 64 * 64

/-- The teams of a context in the order of placement. -/
def teamsOf (s : State) (ctx : Nat) : List (Nat × Team) :=
  (sortAsc ((s.teams.filter fun e => e.2.ctx = ctx).map fun e => e.2.age)).filterMap fun a =>
    s.teams.find? fun e => e.2.ctx = ctx && e.2.age = a

/-- A team is marked to be saved: its groups whose commands have not been accepted wait no more for that (03 R49; 21 R239). -/
def markSaving (s : State) (team : Nat) (t : Team) : State :=
  let s := t.cores.foldl (fun s c =>
    let k := s.core c
    if k.waiters.isEmpty then s
    else s.setCore c { k with waiters := k.waiters.filter fun x =>
      x.accepted.isSome || (s.crews.get x.crew).map Crew.team ≠ some team }) s
  s.setTeams (s.teams.set team { t with saving := true })

/-- Marks the teams to save, in order, as far as their images fit below CTXSLIM (03 R49). -/
def chooseSaves (s : State) (ctx : Nat) : State :=
  let c := s.context ctx
  let lim := c.slim.toNat / 64 * 64
  (teamsOf s ctx).foldl (fun (x : State × Nat) e =>
    match x.1.launches.get e.2.launch with
    | none => x
    | some l =>
      let size := imageSize l.record
      if e.2.saving then (x.1, x.2 + size)
      else if l.record.save && x.2 + size ≤ lim then
        (markSaving x.1 e.1 e.2, x.2 + size)
      else x) (s, nextImage c) |>.1

/-- The trailer word of an image (27 R323). -/
def trailerWord (index : Nat) : Nat := completionWord 1 4 (BitVec.ofNat 48 index)

/-- The bytes of an image: opaque but for the trailer (27 R322, R323). -/
def imageBytes (number size index : Nat) : List Byte :=
  (List.range (size - 8)).map (Config.imageByte number) ++ natBytes 8 (trailerWord index)

/-! ## Link retraining (27 R324) -/

/-- n bytes at a virtual address touch a stack. -/
def touchesStack (s : State) (ctx addr n stack : Nat) : Bool :=
  (List.range (n / 1024 + 1)).any fun k =>
    match reach s dispCore ctx (canonical (BitVec.ofNat 57 (addr + 1024 * k))) .store with
    | .ok m => s.sys.target m.pa = .hbm && stackOfPa s m.pa = stack
    | _ => false

/-- The team a context is saving now: the oldest one marked. -/
def savingTeam (s : State) (ctx : Nat) : Option (Nat × Team) := (teamsOf s ctx).find? fun e => e.2.saving

/-- A save whose deadline has not passed streams image bytes to a stack. -/
def saveBlocks (s : State) (stack : Nat) : Bool :=
  (List.range 16).any fun n =>
    match savingTeam s n with
    | none => false
    | some (_, t) =>
      (match (s.context n).deadline with | some d => s.clock < d | none => true) &&
        touchesStack s n (nextImage (s.context n)) (((s.launches.get t.launch).map fun l => imageSize l.record).getD 0) stack

/-- Requested retrainings start once no save blocks them. -/
def startRetrains (s : State) : State :=
  s.near.retrain.foldl (fun s e =>
    if e.2 = 1 && !saveBlocks s e.1 then s.setNear { s.near with retrain := s.near.retrain.set e.1 2 } else s) s

/-- DEADLINE_EXPIRE (03 R51; 27 R324): the first context whose deadline counter has reached 0 is forcibly reset, and the
retrainings its save held back start. -/
def execDeadlineExpire (s : State) : Out :=
  match (List.range 16).find? fun n =>
      (s.context n).preempt && (match (s.context n).deadline with | some d => d ≤ s.clock | none => false) with
  | some n => .next (startRetrains (forcedReset s n))
  | none => .refused (.notEnabled "DEADLINE_EXPIRE")

/-- HBM_RETRAIN_REQUEST (27 R324). -/
def execHbmRetrainRequest (stack : Nat) (s : State) : Out :=
  if stack < s.sys.stacks && (s.near.retrain.get stack).isNone then
    .next (startRetrains (s.setNear { s.near with retrain := s.near.retrain.set stack 1 }))
  else .refused (.notEnabled "HBM_RETRAIN_REQUEST")

/-- HBM_RETRAIN_DONE (27 R324; 29 R341): the first running retraining ends, and the sequences it suspended resume. -/
def execHbmRetrainDone (s : State) : Out :=
  match s.near.retrain.find? fun e => e.2 = 2 with
  | some (k, _) =>
    let go (q : BankSeq) : BankSeq :=
      if q.stack = k then { q with banks := q.banks.map fun b => { b with retrained := false } } else q
    .next (s.setNear { s.near with retrain := s.near.retrain.erase k, sequences := s.near.sequences.map go })
  | none => .refused (.notEnabled "HBM_RETRAIN_DONE")

/-! ## Pre-emption (03 R49) -/

/-- A context is pre-empted (03 R49, R51). -/
def preemptContext (s : State) (ctx : Nat) : State :=
  let c := s.context ctx
  let s := s.setContext ctx { c with preempt := true, deadline := some (s.clock + 2 * c.dl.toNat) }
  if c.dl = 0 then startRetrains (forcedReset s ctx) else checkStopped (chooseSaves s ctx) ctx

/-- PREEMPT (03 R49, R51): a write of 1 to CTXCTL.PREEMPT. -/
def execPreempt (ctx : Nat) (s : State) : Out :=
  byHart "PREEMPT" s (.next (if 16 ≤ ctx then s else preemptContext s ctx))

/-- A thread as an image records it: a sleep keeps its remaining count, and a thread parked on a migration stands at its
instruction (11 R141; 17 R215). -/
def saveThread (clock : Nat) (t : Thread) : Thread :=
  { t with wait := match t.wait with
      | .sleep till => .sleep (till - clock)
      | .migration _ _ | .resuming _ _ => .awake
      | w => w }

def restoreThread (clock : Nat) (t : Thread) : Thread :=
  { t with wait := match t.wait with | .sleep n => .sleep (n + clock) | w => w }

/-- A crew as an image records it: dead registers are left out (05 R71). -/
def saveCrew (clock : Nat) (c : Crew) : Crew :=
  { c with threads := c.threads.map (fun (l, t) => (l, saveThread clock t)), regs := c.regs.filter fun e => e.2.live
           active := false, ready := none, waitSince := none, yielded := none, stallTill := 0, lastGrant := 0 }

/-- A sleeper as an image records it: a limit keeps its remaining count (19 R232). -/
def shiftLimit (f : Nat → Nat) (sl : Sleeper) : Sleeper :=
  { sl with what := match sl.what with
      | .waitbit a b c (some t) d l n k => .waitbit a b c (some (f t)) d l n k
      | w => w }

/-- What a core contributes to an image (03 R50; 23 R292). -/
def rankImage (s : State) (team core size : Nat) : RankImage :=
  let k := s.core core
  let t := (s.tctxs.get (tctxKey team core)).getD .start
  let lo := core * 2 ^ 19 + t.scratch
  let held := (k.tiles.filter fun e => e.2 = team).map Prod.fst
  let elems (n : Nat) : Map Word :=
    (s.mem.acc.filter fun e => e.1 / 4096 = core * 64 + n).map fun e => (e.1 % 4096, e.2)
  { tctx := t
    scratch := (s.mem.scratch.filter fun e => lo ≤ e.1 && e.1 < lo + size).map fun e => (e.1 - lo, e.2)
    scratchPoison := (s.mem.scratchPoison.filter fun e => lo ≤ 16 * e.1 && 16 * e.1 < lo + size).map fun e => (e.1 - lo / 16, ())
    tiles := held.map fun n => (n, elems n)
    accPoison := (s.mem.accPoison.filter fun e => e.1 / 1024 / 64 = core && held.contains (e.1 / 1024 % 64)).map fun e =>
      (e.1 % (64 * 1024), ())
    rings := k.rings.filter fun e => e.2.team = team, mill := k.mill = some team, variance := k.variance
    payloads := k.payloads.filter fun p => p.team = team, formed := k.formed.filter fun p => p.team = team }

/-- Crews in ascending crew index, those of one index in the order of their slots (03 R29). -/
def byIndex (crews : List (Nat × Crew)) : List (Nat × Crew) :=
  (sortAsc (crews.map fun e => e.2.index)).flatMap fun i => crews.filter fun e => e.2.index = i

/-- Takes a team out of the machine into a saved image. -/
def saveTeam (s : State) (ctx team : Nat) (t : Team) (l : Launch) : State :=
  let number := s.serial
  let size := 1024 * l.record.scratch.toNat
  let crews := byIndex (crewsOf s team)
  let rank (k : Nat) : Nat := t.cores.findIdx fun c => c = coreOf k
  let keys := crews.map Prod.fst
  let asleep := s.sleepers.filter fun e => keys.contains e.2.crew
  let image : SavedTeam :=
    { number, id := team, team := t, addr := nextImage (s.context ctx), size := imageSize l.record
      crews := crews.map fun e => saveCrew s.clock e.2, places := crews.map fun e => (rank e.1, e.1 % 192)
      ranks := t.cores.map fun c => rankImage s team c size
      sleeps := asleep.map fun e => (e.1, keys.findIdx fun k => k = e.2.crew) }
  let s := s.setSerial (number + 1)
  let s := s.setCrews (s.crews.filter fun e => e.2.team ≠ team)
  let s := s.setSleepers (s.sleepers.filter fun e => !keys.contains e.2.crew)
  let s := t.cores.foldl (fun s c =>
    let k := s.core c
    leaveCore (s.setCore c { k with waiters := k.waiters.filter fun x => !keys.contains x.crew }) team c) s
  let s := s.setTeams (s.teams.erase team)
  let c := s.context ctx
  let gone := asleep.map Prod.fst
  s.setContext ctx { c with
    saved := c.saved ++ [image], waiting := c.waiting.filter fun id => !gone.contains id
    savedSleepers := asleep.foldl (fun m e => m.set e.1 (shiftLimit (fun t => t - s.clock) e.2)) c.savedSleepers }

/-- The team's waiting requests for tiles end with RETRY, before its image is written (23 R274). -/
def retryAllocs (s : State) (team : Nat) : State :=
  s.sleepers.foldl (fun s e =>
    match e.2.what, (s.crews.get e.2.crew).map Crew.team with
    | .alloc _ dst, some t => if t = team then finishSleeper s e.1 dst (fun _ => [0#32, 0#32, 2#32]) 3 else s
    | _, _ => s) s

/-- A team has requests for tiles that wait. -/
def allocsWait (s : State) (team : Nat) : Bool :=
  s.sleepers.any fun e =>
    (match e.2.what with | .alloc _ _ => true | _ => false) && (s.crews.get e.2.crew).map Crew.team = some team

/-- TEAM_SAVE_DONE (03 R49, R50; 21 R245; 23 R274; 27 R322, R323): waiting requests for tiles have ended, then the image is
written and its trailer released; the context stops once no team is left. -/
def execTeamSaveDone (team : Nat) (s : State) : Out :=
  match s.teams.get team with
  | none => .refused (.notEnabled "TEAM_SAVE_DONE")
  | some t =>
    match s.launches.get t.launch with
    | none => .refused (.notEnabled "TEAM_SAVE_DONE")
    | some l =>
      let quiet := commandsOver s team && (crewsOf s team).all fun e => e.2.pend.isEmpty
      if (savingTeam s t.ctx).map Prod.fst ≠ some team || !quiet then .refused (.notEnabled "TEAM_SAVE_DONE")
      else if allocsWait s team then .next (retryAllocs s team)
      else
        let ea := canonical (BitVec.ofNat 57 (nextImage (s.context t.ctx)))
        let size := imageSize l.record
        if (List.range 16).any fun k => s.near.retrain.get k = some 2 && touchesStack s t.ctx ea size k then
          .refused (.notEnabled "TEAM_SAVE_DONE")
        else
          let s := t.cores.foldl (fun s c =>
            let s := sendEntries s c fun e => !e.stores.isEmpty
            s.setMem (s.mem.flushL1 c fun _ => true)) s
          match (engineMeet s dispCore t.ctx ea size).of s (.team team) with
          | .park p a b =>
            let s' := dispMigrate s (.team team) t.ctx ea p a b
            if s'.sys.faults = s.sys.faults then .refused (.notEnabled "TEAM_SAVE_DONE") else .next s'
          | _ =>
            let bytes := imageBytes s.serial size t.index
            let s := match engineWrite s (.team team) dispCore t.ctx ea bytes with
              | (s, .bytes _ _ _) =>
                (match engineMeet s dispCore t.ctx (ea + size - 8) 8 with
                 | .ok ((m, _) :: _) => carry s engineCarried m.pa
                 | _ => s)
              | (s, _) => s
            .next (startRetrains (checkStopped (saveTeam (forgetUnread s (.team team)) t.ctx team t l) t.ctx))

/-! ## Resuming (03 R52) -/

/-- RESUME clears and event 0x146 is sent once no saved team is left. -/
def checkRestored (s : State) (ctx : Nat) : State :=
  let c := s.context ctx
  if c.resume && c.saved.isEmpty then contextEvent (s.setContext ctx { c with resume := false }) ctx 0x146 0 0 0 else s

/-- A context is resumed (03 R52). -/
def resumeContext (s : State) (ctx : Nat) : State :=
  checkRestored (s.setContext ctx { s.context ctx with stopped := false, resume := true }) ctx

/-- RESUME (03 R52): a write of 1 to CTXCTL.RESUME. -/
def execResume (ctx : Nat) (s : State) : Out :=
  byHart "RESUME" s (.next (if 16 ≤ ctx then s else resumeContext s ctx))

/-- The numbers tiles get on a core: their own where free, else the lowest free ones (23 R292). -/
def newTiles (free held : List Nat) : List Nat :=
  let spare := free.filter fun n => !held.contains n
  (held.foldl (fun (x : List Nat × List Nat) n =>
    if free.contains n then (x.1 ++ [n], x.2)
    else match x.2 with
      | m :: rest => (x.1 ++ [m], rest)
      | [] => x) ([], spare)).1

/-- A core can take what an image holds for a rank, beside crews and scratchpad (03 R47; 21 R256; 23 R292); under DET = 1
the same tile numbers must be free (23 R293). -/
def rankFits (s : State) (det : Bool) (core : Nat) (r : RankImage) : Bool :=
  let k := s.core core
  let mine := r.payloads.length + (r.formed.map fun x => x.payloads.length).foldl (· + ·) 0
  (!r.mill || k.mill.isNone) && r.tiles.length ≤ (freeTileNumbers k).length &&
    (!det || r.tiles.all fun e => (freeTileNumbers k).contains e.1) &&
    r.rings.all (fun e => (k.rings.get e.1).isNone) && tableUsed k + mine ≤ 2048

/-- Puts back what a rank holds on its new core, with the signers' new crews. -/
def restoreRank (s : State) (team core offset size : Nat) (r : RankImage) (crewOf : Nat → Nat) : State :=
  let lo := core * 2 ^ 19 + offset
  let inside (k : Nat) : Bool := lo ≤ k && k < lo + size
  let k := s.core core
  let news := newTiles (freeTileNumbers k) (r.tiles.map Prod.fst)
  let pairs := r.tiles.zip news
  let number (n : Nat) : Nat := ((pairs.find? fun e => e.1.1 = n).map Prod.snd).getD n
  let m := s.mem
  let m := { m with
    scratch := r.scratch.foldl (fun x e => x.set (lo + e.1) e.2) (m.scratch.keep fun a => !inside a)
    scratchPoison := r.scratchPoison.foldl (fun x e => x.set (lo / 16 + e.1) ()) (m.scratchPoison.keep fun a => !inside (16 * a)) }
  let m := pairs.foldl (fun m e =>
    let m := zeroTile m core e.2
    { m with acc := e.1.2.foldl (fun x w => x.set ((core * 64 + e.2) * 4096 + w.1) w.2) m.acc }) m
  let m := { m with accPoison := r.accPoison.foldl (fun x e =>
    x.set ((core * 64 + number (e.1 / 1024)) * 1024 + e.1 % 1024) ()) m.accPoison }
  let joints := r.tctx.joints.map fun (n, j) => (n, { j with sigs := j.sigs.map fun g => { g with crew := crewOf g.crew } })
  let s := (s.setMem m).setTctx team core { r.tctx with scratch := offset, joints := joints }
  s.setCore core { k with
    tiles := news.foldl (fun x n => x.set n team) k.tiles, rings := r.rings.foldl (fun x e => x.set e.1 e.2) k.rings
    mill := if r.mill then some team else k.mill, variance := if r.mill then r.variance else k.variance
    payloads := k.payloads ++ r.payloads, formed := k.formed ++ r.formed }

/-- Puts a saved team back on cores with their rooms (03 R52; 27 R319, R322, R323). A crew's rank in its share is its crew
index modulo the share, also of a crew that REGROUP formed (DEDUCED, log 93). -/
def restoreTeam (s : State) (ctx : Nat) (x : SavedTeam) (team : Nat) (size : Nat) (cores : List Nat)
    (rooms : List (Nat × List (Nat × Nat))) : State :=
  -- the new key of each saved crew, in ascending crew index
  let places := (List.range x.crews.length).map fun i =>
    let rank := (x.places.getD i (0, 0)).1
    let nth' := ((List.range i).filter fun j => (x.places.getD j (0, 0)).1 = rank).length
    let (part, slot) := ((rooms.getD rank (0, [])).2).getD nth' (0, 0)
    crewKey (nth cores rank) part slot
  let oldKey (i : Nat) : Nat := nth x.team.cores (x.places.getD i (0, 0)).1 * 192 + (x.places.getD i (0, 0)).2
  let crewOf (old : Nat) : Nat :=
    match (List.range x.crews.length).find? fun i => oldKey i = old with
    | some i => nth places i
    | none => old
  let s := s.setTeams (s.teams.set team { x.team with cores := cores, age := s.serial, saving := false })
  let s := s.setSerial (s.serial + 1)
  let s := ((List.range cores.length).zip cores).foldl (fun s (r, core) =>
    match x.ranks[r]? with
    | some im => restoreRank s team core ((rooms.getD r (0, [])).1) size im crewOf
    | none => s) s
  let s := (x.crews.zip places).foldl (fun s (c, key) =>
    bringIn s key { c.anySets with threads := c.threads.map fun (l, t) => (l, restoreThread s.clock t), stallTill := s.clock }) s
  let cx := s.context ctx
  let ids := x.sleeps.map Prod.fst
  let s := s.setSleepers (x.sleeps.foldl (fun m e =>
    match cx.savedSleepers.get e.1 with
    | some sl => m.set e.1 { shiftLimit (fun t => t + s.clock) sl with crew := nth places e.2 }
    | none => m) s.sleepers)
  let waits := ids.filter fun id => match (s.sleepers.get id).map Sleeper.what with | some .escalating => true | _ => false
  let index (id : Nat) : Option (Nat × Bool) :=
    match (s.sleepers.get id).map Sleeper.what with | some (.escalated n d) => some (n, d) | _ => none
  let mine := cx.held.filter fun h => ids.any fun id => (index id).map Prod.fst = some h.index
  let s := s.setContext ctx { cx with
    saved := cx.saved.drop 1, savedSleepers := cx.savedSleepers.filter fun e => !ids.contains e.1
    held := cx.held.filter fun h => !mine.contains h, waiting := cx.waiting ++ waits }
  let s := drainEscalations s ctx 64
  mine.foldl (fun s h =>
    match ids.find? fun id => (index id).map Prod.fst = some h.index with
    | some id =>
      (match s.sleepers.get id with
       | some sl => applyResume s id sl (((index id).map Prod.snd).getD false) h.kill h.val
       | none => s)
    | none => s) s

/-- A team whose image fails its check: its launch ends with RESET, event 0x140 is written, and the resumes
held for it are gone (27 R319, R322). -/
def failImage (s : State) (ctx : Nat) (x : SavedTeam) : State :=
  let cx := s.context ctx
  let ids := x.sleeps.map Prod.fst
  let named (n : Nat) : Bool := ids.any fun id =>
    match (cx.savedSleepers.get id).map Sleeper.what with | some (.escalated k _) => k = n | _ => false
  let s := s.setContext ctx { cx with
    saved := cx.saved.drop 1, savedSleepers := cx.savedSleepers.filter fun e => !ids.contains e.1
    held := cx.held.filter fun h => !named h.index }
  let q := ((s.launches.get x.team.launch).map fun l => l.record.jobq.toNat).getD 0
  let s := s.setLaunches (s.launches.modify x.team.launch fun l => { l with reset := true, placed := true, retired := l.retired + 1 })
  contextEvent (settleQueue s q) ctx 0x140 0 0 q x.team.index

/-- TEAM_RESTORE (03 R52; 27 R322, R323): the first saved team of a resuming context is read back and placed whole. -/
def execTeamRestore (ctx : Nat) (cores : List Nat) (s : State) : Out :=
  let cx := s.context ctx
  match cx.saved with
  | [] => .refused (.notEnabled "TEAM_RESTORE")
  | x :: _ =>
    match s.launches.get x.team.launch with
    | none => .refused (.notEnabled "TEAM_RESTORE")
    | some l =>
      if !cx.resume || cx.preempt || cx.stopped then .refused (.notEnabled "TEAM_RESTORE")
      else
        match dispRead s (.team x.id) ctx (BitVec.ofNat 57 x.addr) x.size with
        | .bad _ => .next (checkRestored (failImage (forgetUnread s (.team x.id)) ctx x) ctx)
        | .park p a b =>
          let s' := dispMigrate s (.team x.id) ctx (canonical (BitVec.ofNat 57 x.addr)) p a b
          if s'.sys.faults = s.sys.faults then .refused (.notEnabled "TEAM_RESTORE") else .next s'
        | .ok bs poison =>
          let s := noteEngine s dispCore ctx (canonical (BitVec.ofNat 57 x.addr)) x.size
          if poison || bs ≠ imageBytes x.number x.size x.team.index then .next (checkRestored (failImage s ctx x) ctx)
          else
            let r := l.record
            let share (rank : Nat) : List (Nat × Nat) :=
              ((x.crews.zip x.places).filter fun e => e.2.1 = rank).map fun e => (e.1.index % r.share, e.1.nregs)
            let own := !r.det || cores = x.team.cores
            let fitsAll := (cores.zip x.ranks).all fun e => rankFits s r.det e.1 e.2
            if !own || !coresOk cores || cores.length ≠ x.ranks.length || !fitsAll || !dieFree s (nth cores 0) then
              .refused (.notEnabled "TEAM_RESTORE")
            else
              match roomForAll s (1024 * r.scratch.toNat) r.det
                  ((List.range cores.length).map fun k => (nth cores k, share k)) with
              | none => .refused (.notEnabled "TEAM_RESTORE")
              | some rooms =>
                let s := restoreTeam s ctx x x.id (1024 * r.scratch.toNat) cores rooms
                let s := s.setDisp { s.disp with lastPlace := s.disp.lastPlace.set (faultDie s (nth cores 0)) (s.clock / 2) }
                .next (checkRestored s ctx)

/-! ## Logical and physical cores (01 R12, R19; 03 R54) -/

/-- The logical cores a physical core serves. -/
def servedBy (d : SysDie) (physical : Nat) : List Nat := (List.range 256).filter fun l => serverOf d l = some physical

/-- The logical core whose context a physical core runs. -/
def runningOn (d : SysDie) (physical : Nat) : Option Nat :=
  let ls := servedBy d physical
  match d.phys.get physical with
  | some p => if ls.contains p.running then some p.running else ls.head?
  | none => ls.head?

/-- A logical core's context is the one that runs on its physical core. -/
def runsNow (d : SysDie) (logical : Nat) : Bool :=
  match serverOf d logical with
  | some p => runningOn d p = some logical
  | none => false

/-- A core has a crew that can issue (03 R54). -/
def coreCanIssue (s : State) (core : Nat) : Bool :=
  s.crews.any fun e => coreOf e.1 = core && !suspended s e.2 &&
    e.2.groups.any fun K => match stanceOf s e.1 e.2 K with | .ready _ => true | _ => false

/-- LOGICAL_CORE_SWITCH (03 R54, R55; 21 R245): the contexts keep their state, whichever of them runs. -/
def execLogicalCoreSwitch (physical logical : Nat) (s : State) : Out :=
  match runningOn s.sys physical with
  | none => .refused (.notEnabled "LOGICAL_CORE_SWITCH")
  | some out =>
    let since := ((s.sys.phys.get physical).map PhysCore.since).getD 0
    if out ≠ logical && serverOf s.sys logical = some physical && (s.core out).commands.isEmpty &&
        !((s.core out).waiters.any fun x => x.accepted.isSome) &&
        (since + 65536 ≤ s.clock || !coreCanIssue s out) then
      let old : PhysCore := (s.sys.phys.get physical).getD { retired := false, retiring := false, running := 0, since := 0 }
      let p : PhysCore := { old with running := logical, since := s.clock }
      .next (s.setSys { s.sys with phys := s.sys.phys.set physical p })
    else .refused (.notEnabled "LOGICAL_CORE_SWITCH")

end Sys2Proof.Machine
end

