-- ==== Sys2Proof/Machine/Riscv.lean ====
section
/-! DEFINITION. The scalar RISC-V arithmetic of a stack engine's hart: RV64 I, M, A, F, D and the expansion of C
(29 R326, which refers to the RISC-V specifications; PRESUMED, log 18). -/

namespace Sys2Proof.Machine

abbrev Dword := BitVec 64

/-- A dword of the low n bits of x, sign-extended. -/
def sx (n : Nat) (x : Nat) : Dword := BitVec.ofInt 64 (sext x n)

/-! ## Fields of a 32-bit instruction -/

/-- Bits hi to lo of an instruction. -/
def fld (w : Nat) (hi lo : Nat) : Nat := w / 2 ^ lo % 2 ^ (hi + 1 - lo)

def rvImmI (w : Nat) : Dword := sx 12 (fld w 31 20)
def rvImmS (w : Nat) : Dword := sx 12 (fld w 31 25 * 32 + fld w 11 7)
def rvImmB (w : Nat) : Dword :=
  sx 13 (fld w 31 31 * 4096 + fld w 7 7 * 2048 + fld w 30 25 * 32 + fld w 11 8 * 2)
def rvImmU (w : Nat) : Dword := sx 32 (fld w 31 12 * 4096)
def rvImmJ (w : Nat) : Dword :=
  sx 21 (fld w 31 31 * 2 ^ 20 + fld w 19 12 * 4096 + fld w 20 20 * 2048 + fld w 30 21 * 2)

/-! ## Compressed instructions -/

def asI (op f3 rd rs1 imm : Nat) : Nat := op + rd * 2 ^ 7 + f3 * 2 ^ 12 + rs1 * 2 ^ 15 + imm % 4096 * 2 ^ 20
def asS (op f3 rs1 rs2 imm : Nat) : Nat :=
  op + imm % 32 * 2 ^ 7 + f3 * 2 ^ 12 + rs1 * 2 ^ 15 + rs2 * 2 ^ 20 + imm / 32 % 128 * 2 ^ 25
def asR (op f3 f7 rd rs1 rs2 : Nat) : Nat :=
  op + rd * 2 ^ 7 + f3 * 2 ^ 12 + rs1 * 2 ^ 15 + rs2 * 2 ^ 20 + f7 * 2 ^ 25
/-- A branch of the offset of 9 bits, sign bit 8. -/
def asB (f3 rs1 off : Nat) : Nat :=
  let o := off + (if 256 ≤ off then 0x1E00 else 0)
  0x63 + fld o 11 11 * 2 ^ 7 + fld o 4 1 * 2 ^ 8 + f3 * 2 ^ 12 + rs1 * 2 ^ 15 + fld o 10 5 * 2 ^ 25 + fld o 12 12 * 2 ^ 31
/-- A jump of the offset of 12 bits, sign bit 11. -/
def asJ (rd off : Nat) : Nat :=
  let o := off + (if 2048 ≤ off then 0x1FF000 else 0)
  0x6F + rd * 2 ^ 7 + fld o 19 12 * 2 ^ 12 + fld o 11 11 * 2 ^ 20 + fld o 10 1 * 2 ^ 21 + fld o 20 20 * 2 ^ 31

/-- The 32-bit instruction a compressed one stands for; none for a reserved encoding. -/
def expand16 (h : Nat) : Option Nat :=
  let f3 := fld h 15 13
  let r := fld h 11 7
  let r2 := fld h 6 2
  let rp := 8 + fld h 9 7
  let rp2 := 8 + fld h 4 2
  let imm6 := fld h 12 12 * 32 + fld h 6 2
  let simm6 := imm6 + (if fld h 12 12 = 1 then 0xFC0 else 0)
  let offW := fld h 12 10 * 8 + fld h 6 6 * 4 + fld h 5 5 * 64
  let offD := fld h 12 10 * 8 + fld h 6 5 * 64
  let spD := fld h 12 12 * 32 + fld h 6 5 * 8 + fld h 4 2 * 64
  let spW := fld h 12 12 * 32 + fld h 6 4 * 4 + fld h 3 2 * 64
  let ssD := fld h 12 10 * 8 + fld h 9 7 * 64
  let ssW := fld h 12 9 * 4 + fld h 8 7 * 64
  let offB := fld h 12 12 * 256 + fld h 11 10 * 8 + fld h 6 5 * 64 + fld h 4 3 * 2 + fld h 2 2 * 32
  let offJ := fld h 12 12 * 2048 + fld h 11 11 * 16 + fld h 10 9 * 256 + fld h 8 8 * 1024 + fld h 7 7 * 64 +
    fld h 6 6 * 128 + fld h 5 3 * 2 + fld h 2 2 * 32
  let some' (c : Bool) (w : Nat) : Option Nat := if c then some w else none
  match fld h 1 0, f3 with
  | 0, 0 =>
    let imm := fld h 12 11 * 16 + fld h 10 7 * 64 + fld h 6 6 * 4 + fld h 5 5 * 8
    some' (imm ≠ 0) (asI 0x13 0 rp2 2 imm)
  | 0, 1 => some (asI 0x07 3 rp2 rp offD)
  | 0, 2 => some (asI 0x03 2 rp2 rp offW)
  | 0, 3 => some (asI 0x03 3 rp2 rp offD)
  | 0, 5 => some (asS 0x27 3 rp rp2 offD)
  | 0, 6 => some (asS 0x23 2 rp rp2 offW)
  | 0, 7 => some (asS 0x23 3 rp rp2 offD)
  | 1, 0 => some (asI 0x13 0 r r simm6)
  | 1, 1 => some' (r ≠ 0) (asI 0x1B 0 r r simm6)
  | 1, 2 => some (asI 0x13 0 r 0 simm6)
  | 1, 3 =>
    if r = 2 then
      let imm := fld h 12 12 * 512 + fld h 6 6 * 16 + fld h 5 5 * 64 + fld h 4 3 * 128 + fld h 2 2 * 32
      some' (imm ≠ 0) (asI 0x13 0 2 2 (imm + if 512 ≤ imm then 0xC00 else 0))
    else
      some' (imm6 ≠ 0) (0x37 + r * 2 ^ 7 + (imm6 + if fld h 12 12 = 1 then 0xFFFC0 else 0) * 2 ^ 12)
  | 1, 4 =>
    match fld h 11 10 with
    | 0 => some (asI 0x13 5 rp rp imm6)
    | 1 => some (asI 0x13 5 rp rp (0x400 + imm6))
    | 2 => some (asI 0x13 7 rp rp simm6)
    | _ =>
      match fld h 12 12, fld h 6 5 with
      | 0, 0 => some (asR 0x33 0 0x20 rp rp rp2)
      | 0, 1 => some (asR 0x33 4 0 rp rp rp2)
      | 0, 2 => some (asR 0x33 6 0 rp rp rp2)
      | 0, _ => some (asR 0x33 7 0 rp rp rp2)
      | _, 0 => some (asR 0x3B 0 0x20 rp rp rp2)
      | _, 1 => some (asR 0x3B 0 0 rp rp rp2)
      | _, _ => none
  | 1, 5 => some (asJ 0 offJ)
  | 1, 6 => some (asB 0 rp offB)
  | 1, 7 => some (asB 1 rp offB)
  | 2, 0 => some (asI 0x13 1 r r imm6)
  | 2, 1 => some (asI 0x07 3 r 2 spD)
  | 2, 2 => some' (r ≠ 0) (asI 0x03 2 r 2 spW)
  | 2, 3 => some' (r ≠ 0) (asI 0x03 3 r 2 spD)
  | 2, 4 =>
    if fld h 12 12 = 0 then
      (if r2 = 0 then some' (r ≠ 0) (asI 0x67 0 0 r 0) else some (asR 0x33 0 0 r 0 r2))
    else if r2 = 0 then (if r = 0 then some 0x00100073 else some (asI 0x67 0 1 r 0))
    else some (asR 0x33 0 0 r r r2)
  | 2, 5 => some (asS 0x27 3 2 r2 ssD)
  | 2, 6 => some (asS 0x23 2 2 r2 ssW)
  | 2, 7 => some (asS 0x23 3 2 r2 ssD)
  | _, _ => none

/-! ## Integer arithmetic -/

/-- The I operations of funct3, with alt for SUB and SRA; w32 for the word forms. -/
def intOp (w32 : Bool) (f3 : Nat) (alt : Bool) (a b : Dword) : Dword :=
  let n := if w32 then 32 else 64
  let sh := b.toNat % n
  let fit (v : Nat) : Dword := if w32 then sx 32 (v % 2 ^ 32) else BitVec.ofNat 64 v
  let ua := a.toNat % 2 ^ n
  match f3 with
  | 0 => if alt then fit (2 ^ 64 + a.toNat - b.toNat) else fit (a.toNat + b.toNat)
  | 1 => fit (ua * 2 ^ sh)
  | 2 => if a.slt b then 1 else 0
  | 3 => if a.ult b then 1 else 0
  | 4 => a ^^^ b
  | 5 => if alt then BitVec.ofInt 64 (sext ua n / ((2 ^ sh : Nat) : Int)) else fit (ua / 2 ^ sh)
  | 6 => a ||| b
  | _ => a &&& b

/-- The M operations of funct3; w32 for the word forms, of which MULH, MULHSU and MULHU have none. -/
def mulOp (w32 : Bool) (f3 : Nat) (a b : Dword) : Dword :=
  let n := if w32 then 32 else 64
  let ua := a.toNat % 2 ^ n
  let ub := b.toNat % 2 ^ n
  let sa := sext ua n
  let sb := sext ub n
  let fit (v : Int) : Dword := BitVec.ofInt 64 (sext (lowBits n v) n)
  let high (v : Int) : Dword := BitVec.ofInt 64 (v / ((2 ^ 64 : Nat) : Int))
  match f3 with
  | 0 => fit (sa * sb)
  | 1 => high (sa * sb)
  | 2 => high (sa * (ub : Int))
  | 3 => high ((ua : Int) * (ub : Int))
  | 4 => if sb = 0 then fit (-1) else fit (Int.tdiv sa sb)
  | 5 => if ub = 0 then fit (-1) else fit ((ua / ub : Nat) : Int)
  | 6 => if sb = 0 then fit sa else fit (Int.tmod sa sb)
  | _ => if ub = 0 then fit (ua : Int) else fit ((ua % ub : Nat) : Int)

/-- A branch of funct3 is taken; none for a reserved funct3. -/
def branchTaken (f3 : Nat) (a b : Dword) : Option Bool :=
  match f3 with
  | 0 => some (a = b)
  | 1 => some (a ≠ b)
  | 4 => some (a.slt b)
  | 5 => some (!a.slt b)
  | 6 => some (a.ult b)
  | 7 => some (!a.ult b)
  | _ => none

/-- The new memory value of an AMO of funct5 on n bits; none if there is no such AMO. -/
def amoOp (n f5 : Nat) (old src : Nat) : Option Nat :=
  let so := sext old n
  let ss := sext src n
  match f5 with
  | 0x00 => some ((old + src) % 2 ^ n)
  | 0x01 => some src
  | 0x04 => some (old ^^^ src)
  | 0x08 => some (old ||| src)
  | 0x0C => some (old &&& src)
  | 0x10 => some (if so ≤ ss then old else src)
  | 0x14 => some (if ss ≤ so then old else src)
  | 0x18 => some (min old src)
  | 0x1C => some (max old src)
  | _ => none

/-! ## Floating point: single (false) and double (true) -/

def fpFmt (d : Bool) : Fmt := if d then fmt64 else fmt32
def fpWidth (d : Bool) : Nat := if d then 64 else 32
def fpNan (d : Bool) : Nat := if d then 0x7FF8000000000000 else 0x7FC00000
def fpSign (d neg : Bool) : Nat := if neg then 2 ^ (fpWidth d - 1) else 0
/-- Bits of the fraction. -/
def fpFrac (d : Bool) : Nat := if d then 52 else 23

/-- The number a code stands for. -/
def fpNum (d : Bool) (x : Nat) : FNum :=
  if d then
    let s := x / 2 ^ 63 % 2 = 1
    let e : Nat := x / 2 ^ 52 % 2048
    let f : Nat := x % 2 ^ 52
    if e = 2047 then (if f = 0 then .inf s else .nan)
    else if e = 0 then .fin s (Q.scaled f (-1074))
    else .fin s (Q.scaled ((2 ^ 52 + f : Nat) : Int) ((e : Int) - 1075))
  else num32 (BitVec.ofNat 32 x)

/-- A signalling NaN. -/
def fpSnan (d : Bool) (x : Nat) : Bool := (fpNum d x).isNan && x / 2 ^ (fpFrac d - 1) % 2 = 0

/-- Rounds a number to a format: its code and flags; a NaN is canonical (29 R326). -/
def fpRound (d : Bool) (m : Mode) : FNum → Nat × Flags
  | .nan => (fpNan d, 0)
  | .inf n => ((fpFmt d).infCode + fpSign d n, 0)
  | .fin n q =>
    if q.isZero then (fpSign d n, 0)
    else
      let (c, fl) := roundMag (fpFmt d) m n q
      (c + fpSign d n, fl)

/-- An exact sum of two numbers with the sign of zero of IEEE 754: of unlike signs, −0 only toward −∞. -/
def fpSum (m : Mode) (a b : FNum) : FNum :=
  match FNum.sum [a, b] with
  | .fin n q => .fin (if q.isZero && a.isNeg != b.isNeg then m = .rdn else n) q
  | x => x

def fpAdd (d : Bool) (m : Mode) (a b : Nat) : Nat × Flags :=
  let x := fpNum d a
  let y := fpNum d b
  let (r, fl) := fpRound d m (fpSum m x y)
  (r, fl ||| flagIf (fpSnan d a || fpSnan d b || badSum [x, y]) flagNV)

def fpMul (d : Bool) (m : Mode) (a b : Nat) : Nat × Flags :=
  let x := fpNum d a
  let y := fpNum d b
  let (r, fl) := fpRound d m (x.mul y)
  (r, fl ||| flagIf (fpSnan d a || fpSnan d b || badProduct x y) flagNV)

def fpDiv (d : Bool) (m : Mode) (a b : Nat) : Nat × Flags :=
  let x := fpNum d a
  let y := fpNum d b
  let s := x.isNeg != y.isNeg
  let sn := flagIf (fpSnan d a || fpSnan d b) flagNV
  match x, y with
  | .nan, _ | _, .nan => (fpNan d, sn)
  | .inf _, .inf _ => (fpNan d, flagNV)
  | .inf _, _ => fpRound d m (.inf s)
  | _, .inf _ => fpRound d m (.fin s (Q.int 0))
  | .fin _ p, .fin _ q =>
    if q.isZero then (if p.isZero then (fpNan d, flagNV) else ((fpRound d m (.inf s)).1, flagDZ))
    else fpRound d m (.fin s (p.div q))

def fpSqrt (d : Bool) (m : Mode) (a : Nat) : Nat × Flags :=
  match fpNum d a with
  | .nan => (fpNan d, flagIf (fpSnan d a) flagNV)
  | .inf n => if n then (fpNan d, flagNV) else (a, 0)
  | .fin n q => if q.isZero then (a, 0) else if n then (fpNan d, flagNV) else fpRound d m (.fin false (sqrtRep q))

/-- ±(a × b) ± c, rounded once. -/
def fpFma (d : Bool) (m : Mode) (negProd negC : Bool) (a b c : Nat) : Nat × Flags :=
  let x := fpNum d a
  let y := fpNum d b
  let p := x.mul y
  let p := if negProd then p.negate else p
  let z := fpNum d c
  let z := if negC then z.negate else z
  let (r, fl) := fpRound d m (fpSum m p z)
  (r, fl ||| flagIf (fpSnan d a || fpSnan d b || fpSnan d c || badProduct x y || badSum [p, z]) flagNV)

/-- FMIN and FMAX: the minimumNumber and maximumNumber of IEEE 754, −0 below +0. -/
def fpMinMax (d max : Bool) (a b : Nat) : Nat × Flags :=
  let x := fpNum d a
  let y := fpNum d b
  let lt := x.lt y || (x.isZero && y.isZero && x.isNeg && !y.isNeg)
  let r := if x.isNan then (if y.isNan then fpNan d else b) else if y.isNan then a else if lt != max then a else b
  (r, flagIf (fpSnan d a || fpSnan d b) flagNV)

/-- FLE, FLT and FEQ of funct3 0, 1 and 2. -/
def fpCmp (d : Bool) (f3 a b : Nat) : Bool × Flags :=
  let x := fpNum d a
  let y := fpNum d b
  let n := x.isNan || y.isNan
  let quiet := flagIf (fpSnan d a || fpSnan d b) flagNV
  match f3 with
  | 0 => (!n && x.le y, flagIf n flagNV)
  | 1 => (!n && x.lt y, flagIf n flagNV)
  | _ => (!n && x.le y && y.le x, quiet)

/-- FSGNJ, FSGNJN and FSGNJX of funct3 0, 1 and 2. -/
def fpSgnj (d : Bool) (f3 a b : Nat) : Nat :=
  let top := 2 ^ (fpWidth d - 1)
  let sa := a / top % 2
  let sb := b / top % 2
  a % top + (match f3 with | 0 => sb | 1 => 1 - sb | _ => (sa + sb) % 2) * top

/-- FCLASS. -/
def fpClass (d : Bool) (a : Nat) : Nat :=
  let normal (q : Q) : Bool := (Q.pow2 (fpFmt d).emin).le q
  2 ^ (match fpNum d a with
    | .nan => if fpSnan d a then 8 else 9
    | .inf n => if n then 0 else 7
    | .fin n q =>
      if q.isZero then (if n then 3 else 4)
      else if normal q then (if n then 1 else 6) else (if n then 2 else 5))

/-- To an integer of n bits, saturating; a NaN gives the greatest. -/
def fpToInt (d : Bool) (m : Mode) (n : Nat) (signed : Bool) (a : Nat) : Int × Flags :=
  let hi : Int := if signed then ((2 ^ (n - 1) : Nat) : Int) - 1 else ((2 ^ n : Nat) : Int) - 1
  let lo : Int := if signed then -((2 ^ (n - 1) : Nat) : Int) else 0
  match fpNum d a with
  | .nan => (hi, flagNV)
  | .inf s => (if s then lo else hi, flagNV)
  | .fin s q =>
    let k := roundInt m s q
    let v : Int := if s then -(k : Int) else (k : Int)
    if v < lo then (lo, flagNV) else if hi < v then (hi, flagNV)
    else (v, flagIf (!(q.eq (Q.int k))) flagNX)

/-- From one format to another. -/
def fpCvt (src dst : Bool) (m : Mode) (a : Nat) : Nat × Flags :=
  let (r, fl) := fpRound dst m (fpNum src a)
  (r, fl ||| flagIf (fpSnan src a) flagNV)

/-- A rounding mode of the rm field: 5 and 6 are reserved, 7 takes frm. -/
def rmOf (frm rm : Nat) : Option Mode :=
  match (if rm = 7 then frm else rm) with
  | 0 => some .rne
  | 1 => some .rtz
  | 2 => some .rdn
  | 3 => some .rup
  | 4 => some .rmm
  | _ => none

/-! ## Registers of the hart -/

/-- An integer register: x0 reads as 0. -/
def Hart.getX (h : Hart) (n : Nat) : Dword := if n = 0 then 0 else (h.x.get n).getD 0
/-- Writes an integer register: x0 discards it. -/
def Hart.setX (h : Hart) (n : Nat) (v : Dword) : Hart := if n = 0 then h else { h with x := h.x.set n v }
def Hart.getF (h : Hart) (n : Nat) : Dword := (h.f.get n).getD 0
def Hart.setF (h : Hart) (n : Nat) (v : Dword) : Hart := { h with f := h.f.set n v }

/-- An FP register as a single or double: a single that is not NaN-boxed reads as the canonical NaN. -/
def Hart.fp (h : Hart) (d : Bool) (n : Nat) : Nat :=
  let v := (h.getF n).toNat
  if d then v else if v / 2 ^ 32 = 2 ^ 32 - 1 then v % 2 ^ 32 else 0x7FC00000
/-- Writes an FP register, a single NaN-boxed. -/
def Hart.putFp (h : Hart) (d : Bool) (n : Nat) (v : Nat) : Hart :=
  h.setF n (BitVec.ofNat 64 (if d then v else (2 ^ 32 - 1) * 2 ^ 32 + v % 2 ^ 32))
def Hart.frm (h : Hart) : Nat := h.fcsr.toNat / 32
def Hart.orFlags (h : Hart) (fl : Flags) : Hart := { h with fcsr := h.fcsr ||| fl.zeroExtend 8 }

/-! ## Control and status registers (29 R326) -/

/-- mstatus as it reads: MIE, MPIE, MPP, MPRV and TW as written, FS and VS always dirty, U-mode of 64 bits (PRESUMED, log 85). -/
def Hart.statusWord (h : Hart) : Dword := h.mstatus ||| BitVec.ofNat 64 (2 ^ 63 + 2 ^ 33 + 3 * 2 ^ 13 + 3 * 2 ^ 9)

/-- mstatus as a write leaves it: MPP holds U or M alone. -/
def statusWritten (v : Dword) : Dword :=
  (v &&& BitVec.ofNat 64 (2 ^ 3 + 2 ^ 7 + 2 ^ 17 + 2 ^ 21)) ||| (if fld v.toNat 12 11 = 3 then BitVec.ofNat 64 (3 * 2 ^ 11) else 0)

/-- A performance-monitoring CSR of M-mode, all of which read 0. -/
def isHpm (n : Nat) : Bool := (0xB03 ≤ n && n ≤ 0xB1F) || (0x323 ≤ n && n ≤ 0x33F) || n = 0x320

/-- An M-mode CSR of engine e (29 R326; the RISC-V privileged architecture, PRESUMED, log 85). -/
def Hart.machineCsr (h : Hart) (e clock n : Nat) : Option Dword :=
  match n with
  | 0x300 => some h.statusWord
  | 0x301 => some (BitVec.ofNat 64 (2 ^ 63 + 2 ^ 21 + 2 ^ 20 + 2 ^ 12 + 2 ^ 8 + 2 ^ 5 + 2 ^ 3 + 2 ^ 2 + 1))
  | 0x304 => some h.mie
  | 0x305 => some h.mtvec
  | 0x306 => some 5
  | 0x340 => some h.mscratch
  | 0x341 => some h.mepc
  | 0x342 => some h.mcause
  | 0x343 => some h.mtval
  | 0x344 => some 0
  | 0xB00 => some (h.cycleBase + BitVec.ofNat 64 ((clock - h.cycle) * 4 / 5))
  | 0xB02 => some (BitVec.ofNat 64 h.instret)
  | 0xF15 => some 0
  | n => if 0xF11 ≤ n && n ≤ 0xF14 then some (Config.machineId (4096 * e + n)) else if isHpm n then some 0 else none

/-- Writes an M-mode CSR; a read-only one is none. -/
def Hart.setMachineCsr (h : Hart) (clock n : Nat) (v : Dword) : Option Hart :=
  match n with
  | 0x300 => some { h with mstatus := statusWritten v }
  | 0x301 | 0x306 | 0x344 => some h
  | 0x304 => some { h with mie := v }
  | 0x305 => some { h with mtvec := v &&& ~~~(2 : Dword) }
  | 0x340 => some { h with mscratch := v }
  | 0x341 => some { h with mepc := v &&& ~~~(1 : Dword) }
  | 0x342 => some { h with mcause := v }
  | 0x343 => some { h with mtval := v }
  | 0xB00 => some { h with cycleBase := v, cycle := clock }
  | 0xB02 => some { h with instret := v.toNat }
  | n => if isHpm n then some h else none

/-- A CSR that programs of both modes may read; time is none (29 R326). Clock counts of the hart: 4 stack-engine clocks to
5 arithmetic clocks (00 R4; 29 R326). -/
def Hart.csr (h : Hart) (clock n : Nat) : Option Dword :=
  match n with
  | 0x001 => some (BitVec.ofNat 64 (h.fcsr.toNat % 32))
  | 0x002 => some (BitVec.ofNat 64 h.frm)
  | 0x003 => some (h.fcsr.zeroExtend 64)
  | 0x008 => some h.vstart
  | 0x009 => some (BitVec.ofNat 64 (h.vcsr.toNat % 2))
  | 0x00A => some (BitVec.ofNat 64 (h.vcsr.toNat / 2))
  | 0x00F => some (h.vcsr.zeroExtend 64)
  | 0xC00 => some (h.cycleBase + BitVec.ofNat 64 ((clock - h.cycle) * 4 / 5))
  | 0xC02 => some (BitVec.ofNat 64 h.instret)
  | 0xC20 => some h.vl
  | 0xC21 => some h.vtype
  | 0xC22 => some 128
  | _ => none

/-- Writes a CSR of both modes; a read-only one is none. -/
def Hart.setCsr (h : Hart) (n : Nat) (v : Dword) : Option Hart :=
  let k := v.toNat
  match n with
  | 0x001 => some { h with fcsr := BitVec.ofNat 8 (h.frm * 32 + k % 32) }
  | 0x002 => some { h with fcsr := BitVec.ofNat 8 (k % 8 * 32 + h.fcsr.toNat % 32) }
  | 0x003 => some { h with fcsr := BitVec.ofNat 8 k }
  | 0x008 => some { h with vstart := BitVec.ofNat 64 (k % 1024) }
  | 0x009 => some { h with vcsr := BitVec.ofNat 3 (h.vcsr.toNat / 2 * 2 + k % 2) }
  | 0x00A => some { h with vcsr := BitVec.ofNat 3 (k % 4 * 2 + h.vcsr.toNat % 2) }
  | 0x00F => some { h with vcsr := BitVec.ofNat 3 (k % 8) }
  | _ => none

/-! ## Accesses (29 R327) -/

/-- Why an instruction of the hart does not complete. -/
inductive HartEnd where
  /-- ECALL -/
  | done
  /-- a page fault or an access fault, with the device's cause -/
  | fault (cause ea : Nat) (k : Access)
  | poison (ea : Nat)
  /-- a misaligned access -/
  | misaligned (ea : Nat) (k : Access)
  | breakpoint
  /-- an illegal instruction -/
  | trap
  /-- an access waits for a migration -/
  | page (ea : Nat) (pte : BitVec 64) (pteAt : Nat) (big : Bool)
  deriving DecidableEq, Repr

/-- The job for which an engine's hart makes its accesses. -/
def hartAgent (s : State) (e : Nat) : Agent := .job (((s.engine e).running.map Job.serial).getD 0)

/-- A hart's access is translated: in U-mode, and a load or store of M-mode under MPRV with U in MPP. -/
def Hart.translates (h : Hart) (k : Access) : Bool :=
  !h.machine || (k ≠ .fetch && h.mstatus.getLsbD 17 && fld h.mstatus.toNat 12 11 = 0)

/-- Where n bytes at a physical address lie for M-mode, which has no page's attributes: a device's window as an IO page, fabric
memory uncached (PRESUMED, log 85). -/
def physicalMeet (s : State) (a n : Nat) : Meet :=
  let ms : List (Mapped × Nat) := (splitPages (n / 4096 + 2) a n).map fun x =>
    (⟨x.1, (match s.sys.target x.1 with | .window _ => 1#64 <<< (62 : Nat) | _ => 0#64), 0⟩, x.2)
  match ms.findSome? fun m => absentCause s m.1.pa with
  | some c => .bad c
  | none => .ok ms

/-- What an access of an engine's hart meets. -/
def hartMeet (s : State) (e ctx a n : Nat) (k : Access) : Meet :=
  if (s.engine e).hart.translates k then
    (if k = .store then engineMeet s (engineCore e) ctx a n else meet s (engineCore e) ctx a n k).of s (hartAgent s e)
  else physicalMeet s a n

/-- Notes a read of an engine's hart. -/
def hartNote (s : State) (e ctx a n : Nat) (k : Access) (acquire : Bool := false) : State :=
  if (s.engine e).hart.translates k then engineNote s e ctx a n acquire
  else setOrder s e ((s.engine e).order.read s ((match physicalMeet s a n with | .ok ms => linesOf ms | _ => []).map (128 * ·)) acquire)

/-- Reads n bytes at an address as plain load or fetch of an engine's hart. -/
def hartRead (s : State) (e ctx a n : Nat) (k : Access) : Except HartEnd (State × Nat) :=
  match hartMeet s e ctx a n k with
  | .bad c => .error (.fault c a k)
  | .park p x b => .error (.page a p x b)
  | .ok ms =>
    if piecesPoisoned s ms then .error (.poison a)
    else
      let s := hartNote s e ctx a n k
      .ok (s, bytesNat (readPieces s (engineCore e) ms))

/-- Notes a write of an engine's hart (11 R135). -/
def hartDirty (s : State) (e ctx a n : Nat) : State :=
  if (s.engine e).hart.translates .store then noteRange s (engineCore e) ctx a n true else s

/-- Writes n bytes that meet a mapped address: a release carries what it gives, another store what a FENCE before it gives. -/
def hartWrite (s : State) (e ctx a : Nat) (m : Mapped) (bs : List Byte) (release : Bool) : State :=
  engineWrote (storeHome (hartDirty s e ctx a bs.length) (engineCore e) m bs) e m.pa release

/-- A load of n bytes, aligned or the misaligned exception. -/
def hartLoad (s : State) (e ctx a n : Nat) : Except HartEnd (State × Nat) :=
  if a % n ≠ 0 then .error (.misaligned a .load) else hartRead s e ctx a n .load

/-- A plain store of n bytes. -/
def hartStore (s : State) (e ctx a n v : Nat) : Except HartEnd State :=
  if a % n ≠ 0 then .error (.misaligned a .store)
  else
    match hartMeet s e ctx a n .store with
    | .bad c => .error (.fault c a .store)
    | .park p x b => .error (.page a p x b)
    | .ok ((m, _) :: _) => .ok (hartWrite s e ctx a m (natBytes n v) false)
    | .ok [] => .ok s

/-- The mapped address an LR, SC or AMO of n bytes reaches: IO pages and fabric pages without CLVL 11 are access faults,
as for the device's atomics (11 R134; 19 R226). -/
def hartAtomicAt (s : State) (e ctx a n : Nat) (k : Access) : Except HartEnd Mapped :=
  if a % n ≠ 0 then .error (.misaligned a k)
  else
    match hartMeet s e ctx a n k with
    | .bad c => .error (.fault c a k)
    | .park p x b => .error (.page a p x b)
    | .ok ms =>
      match ms with
      | [] => .error .trap
      | (m, _) :: _ =>
        if s.mem.poisonIn m.pa n then .error (.poison a)
        else if atomicBarred s m then .error (.fault 0x04D a k)
        else .ok m

/-- A write of any unit that changes an engine's reservation granule breaks the reservation (29 R327). -/
def breakReservations (old new : State) : State :=
  new.near.engines.foldl (fun s x =>
    match x.2.hart.reservation with
    | some g =>
      if old.mem.homeBytes (64 * g) 64 = new.mem.homeBytes (64 * g) 64 then s
      else s.setEngine x.1 { x.2 with hart := { x.2.hart with reservation := none } }
    | none => s) new

end Sys2Proof.Machine
end

