-- ==== Sys2Proof/Machine/Rvv.lean ====
section
/-! DEFINITION. The V extension of a stack engine's hart, VLEN 1024 and ELEN 64 (29 R326, which refers to the RISC-V
specifications; PRESUMED, log 18). Elements are natural numbers below two to the element width. A reserved encoding is an
illegal instruction; tail and masked-off elements under an agnostic policy keep their value or become all ones by a free
choice. -/

namespace Sys2Proof.Machine

/-! ## Configuration -/

/-- What vtype says: log2 of SEW, log2 of LMUL, and the agnostic bits. -/
structure VType where
  sewLog : Nat
  lmulLog : Int
  ta : Bool
  ma : Bool
  deriving DecidableEq, Repr

def VType.sew (t : VType) : Nat := 2 ^ t.sewLog
/-- Elements of a group of LMUL registers. -/
def VType.vlmax (t : VType) : Nat := (Q.pow2 (10 + t.lmulLog - t.sewLog)).floor.toNat

/-- A vtype value; none where it is not supported, which sets vill. -/
def VType.of (v : Nat) : Option VType :=
  let l := v % 8
  let lmul : Int := if l < 4 then (l : Int) else (l : Int) - 8
  let sewLog := 3 + v / 8 % 8
  if 256 ≤ v || l = 4 || 6 < sewLog || (lmul < 0 && 6 + lmul < (sewLog : Int)) then none
  else some { sewLog, lmulLog := lmul, ta := v / 64 % 2 = 1, ma := v / 128 % 2 = 1 }

def Hart.vt (h : Hart) : Option VType := VType.of h.vtype.toNat

/-- vtype with vill set. -/
def villWord : Dword := BitVec.ofNat 64 (2 ^ 63)

/-- vl for an AVL: between VLMAX and twice it, an implementation picks within the bounds (Config, log 1). -/
def vlFor (avl vlmax : Nat) : Nat :=
  if avl ≤ vlmax then avl
  else if 2 * vlmax ≤ avl then vlmax
  else max ((avl + 1) / 2) (min vlmax (Config.vectorLength avl vlmax))

/-- VSETVLI, VSETIVLI and VSETVL. -/
def rvVset (h : Hart) (w : Nat) : Option Hart :=
  let rd := fld w 11 7
  let r1 := fld w 19 15
  let imm := fld w 31 31 = 1 && fld w 30 30 = 1
  let reg := fld w 31 25 = 0x40
  if fld w 31 31 = 1 && !imm && !reg then none
  else
    let vt : Nat := if imm then fld w 29 20 else if reg then (h.getX (fld w 24 20)).toNat else fld w 30 20
    match VType.of vt with
    | none => some (({ h with vtype := villWord, vl := 0, vstart := 0 } : Hart).setX rd 0)
    | some t =>
      let keep := !imm && r1 = 0 && rd = 0
      let avl := if imm then r1 else if r1 = 0 then 2 ^ 64 - 1 else (h.getX r1).toNat
      let same := match h.vt with | some o => o.vlmax = t.vlmax | none => false
      if keep && !same then some { h with vtype := villWord, vl := 0, vstart := 0 }
      else
        let vl : Dword := if keep then h.vl else BitVec.ofNat 64 (vlFor avl t.vlmax)
        some (({ h with vtype := BitVec.ofNat 64 vt, vl := vl, vstart := 0 } : Hart).setX rd vl)

/-! ## Registers and groups -/

def Hart.vreg (h : Hart) (r : Nat) : Nat := ((h.v.get r).getD 0).toNat
def Hart.setVreg (h : Hart) (r x : Nat) : Hart := { h with v := h.v.set r (BitVec.ofNat 1024 x) }

/-- Element i of n bits of the group that starts at r. -/
def Hart.velem (h : Hart) (r n i : Nat) : Nat := h.vreg (r + i * n / 1024) / 2 ^ (i * n % 1024) % 2 ^ n
/-- Bit i of a mask register. -/
def Hart.vbit (h : Hart) (r i : Nat) : Bool := h.vreg r / 2 ^ i % 2 = 1

/-- Registers of a group of that log2 of EMUL. -/
def groupRegs (emulLog : Int) : Nat := 2 ^ emulLog.toNat
/-- Log2 of EMUL for elements of 2^n bits. -/
def VType.emul (t : VType) (n : Nat) : Int := t.lmulLog + n - t.sewLog
/-- EMUL is from 1/8 to 8. -/
def emulOk (e : Int) : Bool := -3 ≤ e && e ≤ 3
/-- A group may start at a register. -/
def alignedAt (r : Nat) (e : Int) : Bool := emulOk e && r % groupRegs e = 0

/-- Whether two groups share a register. -/
def overlaps (a na b nb : Nat) : Bool := a < b + nb && b < a + na

/-- A destination group of elements of 2^dn bits may overlap a source group of elements of 2^sn bits. -/
def overlapOk (vd : Nat) (de : Int) (dn vs : Nat) (se : Int) (sn : Nat) : Bool :=
  let nd := groupRegs de
  let ns := groupRegs se
  !overlaps vd nd vs ns || dn = sn || (if dn < sn then vd = vs else 0 ≤ se && vs = vd + nd - ns)

/-- What an operation gives for an element: the value, the flags, and saturation. -/
structure VRes where
  val : Nat
  fl : Flags := 0
  sat : Bool := false
  deriving DecidableEq, Repr

/-- The part of the machine an instruction of V sees beside its hart: the counter of free choices. -/
abbrev FreeNo := Nat

/-- The free choice that an agnostic element i becomes all ones (log 1, log 18). -/
def agnostic (free : FreeNo) (i : Nat) : Bool := Config.freeBool (free * 2 ^ 20 + i)

/-- Elements of a list of that width, lowest first, as one number. -/
def packElems (n : Nat) : List Nat → Nat
  | [] => 0
  | x :: xs => x % 2 ^ n + 2 ^ n * packElems n xs

/-- Writes a group: element i from vstart below vl becomes f i where active, agnostic elements by the policies, others
keep their value. regs registers are covered. -/
def Hart.vwrite (h : Hart) (free : FreeNo) (vd n regs vl : Nat) (ta ma : Bool) (active : Nat → Bool) (f : Nat → Nat) :
    Hart :=
  if vl ≤ h.vstart.toNat then { h with vstart := 0 }
  else
    let ones := 2 ^ n - 1
    let elem (i : Nat) : Nat :=
      let old := h.velem vd n i
      if i < h.vstart.toNat then old
      else if i < vl then (if active i then f i else if ma && agnostic free i then ones else old)
      else if ta && agnostic free i then ones else old
    let per := 1024 / n
    let out := (List.range regs).foldl (fun (g : Hart) r =>
      g.setVreg (vd + r) (packElems n ((List.range per).map fun k => elem (r * per + k)))) h
    { out with vstart := 0 }

/-- The active elements of the body. -/
def Hart.body (h : Hart) (vm : Bool) : List Nat :=
  (List.range h.vl.toNat).filter fun i => h.vstart.toNat ≤ i && (vm || h.vbit 0 i)

/-- Flags and saturation of results. -/
def Hart.noteRes (h : Hart) (rs : List VRes) : Hart :=
  let h := h.orFlags (rs.foldl (fun a r => a ||| r.fl) 0)
  if rs.any VRes.sat then { h with vcsr := h.vcsr ||| 1#3 } else h

/-- An element-wise operation with a destination of elements of n bits. -/
def Hart.vmap (h : Hart) (free : FreeNo) (t : VType) (vd nLog : Nat) (vm : Bool) (f : Nat → VRes) : Hart :=
  (h.vwrite free vd (2 ^ nLog) (groupRegs (t.emul nLog)) h.vl.toNat t.ta t.ma (fun i => vm || h.vbit 0 i)
    fun i => (f i).val).noteRes ((h.body vm).map f)

/-- An operation that writes a mask: the tail is agnostic whatever vta says. -/
def Hart.vmask (h : Hart) (free : FreeNo) (ma : Bool) (vd : Nat) (vm : Bool) (f : Nat → Bool × Flags) : Hart :=
  let r (i : Nat) : VRes := { val := if (f i).1 then 1 else 0, fl := (f i).2 }
  (h.vwrite free vd 1 1 h.vl.toNat true ma (fun i => vm || h.vbit 0 i) fun i => (r i).val).noteRes ((h.body vm).map r)

/-- Writes element 0 of a register, the rest of it as tail; nothing if vl is 0. -/
def Hart.vscalar (h : Hart) (free : FreeNo) (t : VType) (vd n x : Nat) : Hart :=
  h.vwrite free vd n 1 (min 1 h.vl.toNat) t.ta t.ma (fun _ => true) fun _ => x

/-! ## Integer operations -/

/-- The increment of a fixed-point shift by d under vxrm. -/
def vround (vxrm : Nat) (v : Int) (d : Nat) : Int :=
  let q := v / ((2 ^ d : Nat) : Int)
  let r := (v % ((2 ^ d : Nat) : Int)).toNat
  let half := 2 ^ d / 2
  let up :=
    if d = 0 then false
    else
      match vxrm with
      | 0 => half ≤ r
      | 1 => half < r || (half = r && q % 2 = 1)
      | 2 => false
      | _ => r ≠ 0 && q % 2 = 0
  if up then q + 1 else q

/-- Clamps to a signed or unsigned integer of n bits; the flag says that it clamped. -/
def vclamp (signed : Bool) (n : Nat) (v : Int) : VRes :=
  let hi : Int := if signed then ((2 ^ (n - 1) : Nat) : Int) - 1 else ((2 ^ n : Nat) : Int) - 1
  let lo : Int := if signed then -((2 ^ (n - 1) : Nat) : Int) else 0
  if v < lo then { val := lowBits n lo, sat := true }
  else if hi < v then { val := lowBits n hi, sat := true }
  else { val := lowBits n v }

/-- An element read as signed or unsigned. -/
def asInt (signed : Bool) (n x : Nat) : Int := if signed then sext x n else ((x % 2 ^ n : Nat) : Int)

/-- The single-width integer operations of OPIVV, OPIVX and OPIVI on vs2's element a and the other operand b. -/
def opiValue (f6 n vxrm a b : Nat) : Option VRes :=
  let sa := sext a n
  let sb := sext b n
  let ua : Int := ((a % 2 ^ n : Nat) : Int)
  let ub : Int := ((b % 2 ^ n : Nat) : Int)
  let fit (v : Int) : Option VRes := some { val := lowBits n v }
  let sh := b % n
  match f6 with
  | 0x00 => fit (ua + ub)
  | 0x02 => fit (ua - ub)
  | 0x03 => fit (ub - ua)
  | 0x04 => fit (if ua ≤ ub then ua else ub)
  | 0x05 => fit (if sa ≤ sb then sa else sb)
  | 0x06 => fit (if ua ≤ ub then ub else ua)
  | 0x07 => fit (if sa ≤ sb then sb else sa)
  | 0x09 => some { val := a &&& b }
  | 0x0A => some { val := a ||| b }
  | 0x0B => some { val := a ^^^ b }
  | 0x20 => some (vclamp false n (ua + ub))
  | 0x21 => some (vclamp true n (sa + sb))
  | 0x22 => some (vclamp false n (ua - ub))
  | 0x23 => some (vclamp true n (sa - sb))
  | 0x25 => fit (ua * ((2 ^ sh : Nat) : Int))
  | 0x27 => some (vclamp true n (vround vxrm (sa * sb) (n - 1)))
  | 0x28 => fit (ua / ((2 ^ sh : Nat) : Int))
  | 0x29 => fit (sa / ((2 ^ sh : Nat) : Int))
  | 0x2A => fit (vround vxrm ua sh)
  | 0x2B => fit (vround vxrm sa sh)
  | _ => none

/-- The integer comparisons. -/
def opiCompare (f6 n a b : Nat) : Option Bool :=
  match f6 with
  | 0x18 => some (a = b)
  | 0x19 => some (a ≠ b)
  | 0x1A => some (a < b)
  | 0x1B => some (sext a n < sext b n)
  | 0x1C => some (a ≤ b)
  | 0x1D => some (sext a n ≤ sext b n)
  | 0x1E => some (b < a)
  | 0x1F => some (sext b n < sext a n)
  | _ => none

/-- The single-width operations of OPMVV and OPMVX: vs2's element a, the other operand b, vd's element c. -/
def opmValue (f6 n vxrm a b c : Nat) : Option VRes :=
  let sa := sext a n
  let sb := sext b n
  let ua : Int := ((a : Nat) : Int)
  let ub : Int := ((b : Nat) : Int)
  let uc : Int := ((c : Nat) : Int)
  let fit (v : Int) : Option VRes := some { val := lowBits n v }
  let high (v : Int) : Option VRes := fit (v / ((2 ^ n : Nat) : Int))
  match f6 with
  | 0x08 => fit (vround vxrm (ua + ub) 1)
  | 0x09 => fit (vround vxrm (sa + sb) 1)
  | 0x0A => fit (vround vxrm (ua - ub) 1)
  | 0x0B => fit (vround vxrm (sa - sb) 1)
  | 0x20 => if b = 0 then fit (-1) else fit (ua / ub)
  | 0x21 => if b = 0 then fit (-1) else fit (Int.tdiv sa sb)
  | 0x22 => if b = 0 then fit ua else fit (ua % ub)
  | 0x23 => if b = 0 then fit sa else fit (Int.tmod sa sb)
  | 0x24 => high (ua * ub)
  | 0x25 => fit (ua * ub)
  | 0x26 => high (sa * ub)
  | 0x27 => high (sa * sb)
  | 0x29 => fit (ub * uc + ua)
  | 0x2B => fit (ua - ub * uc)
  | 0x2D => fit (ub * ua + uc)
  | 0x2F => fit (uc - ub * ua)
  | _ => none

/-- The widening operations: operands of n bits (a of 2n bits for the .w forms), the old element c, 2n bits of result. -/
def opmWide (f6 n a b c : Nat) : Option VRes :=
  let s (x : Nat) : Int := asInt true n x
  let u (x : Nat) : Int := asInt false n x
  let fit (v : Int) : Option VRes := some { val := lowBits (2 * n) v }
  match f6 with
  | 0x30 => fit (u a + u b)
  | 0x31 => fit (s a + s b)
  | 0x32 => fit (u a - u b)
  | 0x33 => fit (s a - s b)
  | 0x34 => fit ((a : Int) + u b)
  | 0x35 => fit ((a : Int) + s b)
  | 0x36 => fit ((a : Int) - u b)
  | 0x37 => fit ((a : Int) - s b)
  | 0x38 => fit (u a * u b)
  | 0x3A => fit (s a * u b)
  | 0x3B => fit (s a * s b)
  | 0x3C => fit (u b * u a + c)
  | 0x3D => fit (s b * s a + c)
  | 0x3E => fit (u b * s a + c)
  | 0x3F => fit (s b * u a + c)
  | _ => none

/-- The integer reductions of OPMVV. -/
def redOp (f6 n a b : Nat) : Nat :=
  match f6 with
  | 0 => (a + b) % 2 ^ n
  | 1 => a &&& b
  | 2 => a ||| b
  | 3 => a ^^^ b
  | 4 => min a b
  | 5 => if sext a n ≤ sext b n then a else b
  | 6 => max a b
  | _ => if sext a n ≤ sext b n then b else a

/-- Logical operations on masks: vs2's bit a, vs1's bit b. -/
def maskOp (f6 : Nat) (a b : Bool) : Bool :=
  match f6 with
  | 0x18 => a && !b
  | 0x19 => a && b
  | 0x1A => a || b
  | 0x1B => a != b
  | 0x1C => a || !b
  | 0x1D => !(a && b)
  | 0x1E => !(a || b)
  | _ => a == b

/-! ## Floating-point operations of V -/

/-- Single-width FP operations: vs2's element a, the other operand b, vd's element c. -/
def opfValue (d : Bool) (m : Mode) (f6 a b c : Nat) : Option VRes :=
  let r (x : Nat × Flags) : Option VRes := some { val := x.1, fl := x.2 }
  match f6 with
  | 0x00 => r (fpAdd d m a b)
  | 0x02 => r (fpAdd d m a (fpSgnj d 1 b b))
  | 0x04 => r (fpMinMax d false a b)
  | 0x06 => r (fpMinMax d true a b)
  | 0x08 => some { val := fpSgnj d 0 a b }
  | 0x09 => some { val := fpSgnj d 1 a b }
  | 0x0A => some { val := fpSgnj d 2 a b }
  | 0x20 => r (fpDiv d m a b)
  | 0x21 => r (fpDiv d m b a)
  | 0x24 => r (fpMul d m a b)
  | 0x27 => r (fpAdd d m b (fpSgnj d 1 a a))
  | 0x28 => r (fpFma d m false false b c a)
  | 0x29 => r (fpFma d m true true b c a)
  | 0x2A => r (fpFma d m false true b c a)
  | 0x2B => r (fpFma d m true false b c a)
  | 0x2C => r (fpFma d m false false b a c)
  | 0x2D => r (fpFma d m true true b a c)
  | 0x2E => r (fpFma d m false true b a c)
  | 0x2F => r (fpFma d m true false b a c)
  | _ => none

/-- FP comparisons. -/
def opfCompare (d : Bool) (f6 a b : Nat) : Option (Bool × Flags) :=
  match f6 with
  | 0x18 => some (fpCmp d 2 a b)
  | 0x19 => some (fpCmp d 0 a b)
  | 0x1B => some (fpCmp d 1 a b)
  | 0x1C => let r := fpCmp d 2 a b; some (!r.1, r.2)
  | 0x1D => some (fpCmp d 1 b a)
  | 0x1F => some (fpCmp d 0 b a)
  | _ => none

/-- A single as a double, exactly. -/
def fpWiden (x : Nat) : Nat × Flags := fpCvt false true .rne x

/-- Widening FP operations: singles a and b (a a double for the .w forms), the old double c. -/
def opfWide (m : Mode) (f6 a b c : Nat) : Option VRes :=
  let (x, fx) := if f6 = 0x34 || f6 = 0x36 then (a, 0) else fpWiden a
  let (y, fy) := fpWiden b
  let r (v : Nat × Flags) : Option VRes := some { val := v.1, fl := v.2 ||| fx ||| fy }
  match f6 with
  | 0x30 => r (fpAdd true m x y)
  | 0x32 => r (fpAdd true m x (fpSgnj true 1 y y))
  | 0x34 => r (fpAdd true m x y)
  | 0x36 => r (fpAdd true m x (fpSgnj true 1 y y))
  | 0x38 => r (fpMul true m x y)
  | 0x3C => r (fpFma true m false false y x c)
  | 0x3D => r (fpFma true m true true y x c)
  | 0x3E => r (fpFma true m false true y x c)
  | 0x3F => r (fpFma true m true false y x c)
  | _ => none

/-- A conversion of an FP number to an integer of n bits, or back. -/
def cvtToInt (d : Bool) (m : Mode) (n : Nat) (signed : Bool) (x : Nat) : VRes :=
  let (v, fl) := fpToInt d m n signed x
  { val := lowBits n v, fl }
def cvtFromInt (d : Bool) (m : Mode) (n : Nat) (signed : Bool) (x : Nat) : VRes :=
  let (v, fl) := fpRound d m (FNum.ofQ (Q.int (asInt signed n x)))
  { val := v, fl }

/-- Round to odd of a double to a single. -/
def cvtOdd (x : Nat) : VRes :=
  let (v, fl) := fpCvt true false .rtz x
  { val := if fl.getLsbD 0 then v ||| 1 else v, fl }

/-- The exponent and the fraction of a subnormal, normalized. -/
def normalize (s : Nat) : Nat → Int → Nat → Int × Nat
  | 0, e, f => (e, f)
  | k + 1, e, f => if f / 2 ^ (s - 1) % 2 = 1 then (e, 2 * f % 2 ^ s) else normalize s k (e - 1) (2 * f % 2 ^ s)

/-- The 7-bit entry of the reciprocal table: the reciprocal of the midpoint of an interval of 1/128. -/
def recEntry (i : Nat) : Nat := (roundInt .rmm false (Q.of 65536 (257 + 2 * i))) - 128
/-- The 7-bit entry of the reciprocal square root table, from the exponent's low bit and 6 bits of the fraction. -/
def rsqEntry (i : Nat) : Nat :=
  let j := i % 64
  let q : Q := if i < 64 then Q.of (65536 * 64) (129 + 2 * j) else Q.of (65536 * 128) (129 + 2 * j)
  (roundInt .rmm false (sqrtRep q)) - 128

/-- VFREC7. -/
def fpRec7 (d : Bool) (m : Mode) (x : Nat) : VRes :=
  let s := fpFrac d
  let eBits := if d then 11 else 8
  let neg := x / 2 ^ (s + eBits) % 2 = 1
  let bias : Int := ((2 ^ (eBits - 1) - 1 : Nat) : Int)
  let e0 : Int := ((x / 2 ^ s % 2 ^ eBits : Nat) : Int)
  let f0 := x % 2 ^ s
  match fpNum d x with
  | .nan => { val := fpNan d, fl := flagIf (fpSnan d x) flagNV }
  | .inf n => { val := fpSign d n }
  | .fin n q =>
    if q.isZero then { val := (fpFmt d).infCode + fpSign d n, fl := flagDZ }
    else
      let (e, f) := if e0 = 0 then normalize s s 0 f0 else (e0, f0)
      if e0 = 0 && e ≠ 0 && e ≠ -1 then
        let toMax := m = .rtz || (m = .rdn && !neg) || (m = .rup && neg)
        { val := (fpFmt d).infCode - (if toMax then 1 else 0) + fpSign d n, fl := flagNX ||| flagOF }
      else
        let sig := recEntry (f / 2 ^ (s - 7)) * 2 ^ (s - 7)
        let oe := 2 * bias - 1 - e
        let half := sig / 2 + 2 ^ (s - 1)
        { val := fpSign d n + (if oe = 0 then half else if oe = -1 then half / 2 else oe.toNat * 2 ^ s + sig) }

/-- VFRSQRT7. -/
def fpRsqrt7 (d : Bool) (x : Nat) : VRes :=
  let s := fpFrac d
  let eBits := if d then 11 else 8
  let bias : Int := ((2 ^ (eBits - 1) - 1 : Nat) : Int)
  let e0 : Int := ((x / 2 ^ s % 2 ^ eBits : Nat) : Int)
  let f0 := x % 2 ^ s
  match fpNum d x with
  | .nan => { val := fpNan d, fl := flagIf (fpSnan d x) flagNV }
  | .inf n => if n then { val := fpNan d, fl := flagNV } else { val := 0 }
  | .fin n q =>
    if q.isZero then { val := (fpFmt d).infCode + fpSign d n, fl := flagDZ }
    else if n then { val := fpNan d, fl := flagNV }
    else
      let (e, f) := if e0 = 0 then normalize s s 0 f0 else (e0, f0)
      let sig := rsqEntry ((e % 2).toNat * 64 + f / 2 ^ (s - 6)) * 2 ^ (s - 7)
      { val := ((3 * bias - 1 - e) / 2).toNat * 2 ^ s + sig }

/-- VFUNARY0 of its vs1 code on a single-width, widening or narrowing operand; SEW is n bits, the FP operand or result
is of the width the code asks for. The answer holds the log2 of the destination width relative to SEW, of the source
relative to SEW, and the function; none where no such conversion exists for SEW. -/
def cvtOf (code n : Nat) (m : Mode) : Option (Int × Int × (Nat → VRes)) :=
  let d := n = 64
  let fpSew := n = 32 || n = 64
  let k := code % 8
  if code < 8 then
    (if !fpSew then none
     else
       match k with
       | 0 => some (0, 0, cvtToInt d m n false)
       | 1 => some (0, 0, cvtToInt d m n true)
       | 2 => some (0, 0, cvtFromInt d m n false)
       | 3 => some (0, 0, cvtFromInt d m n true)
       | 6 => some (0, 0, cvtToInt d .rtz n false)
       | 7 => some (0, 0, cvtToInt d .rtz n true)
       | _ => none)
  else if code < 16 then
    (match k with
     | 0 => if n = 32 then some (1, 0, cvtToInt false m 64 false) else none
     | 1 => if n = 32 then some (1, 0, cvtToInt false m 64 true) else none
     | 2 => if n = 16 || n = 32 then some (1, 0, cvtFromInt (n = 32) m n false) else none
     | 3 => if n = 16 || n = 32 then some (1, 0, cvtFromInt (n = 32) m n true) else none
     | 4 => if n = 32 then some (1, 0, fun x => let r := fpWiden x; { val := r.1, fl := r.2 }) else none
     | 6 => if n = 32 then some (1, 0, cvtToInt false .rtz 64 false) else none
     | 7 => if n = 32 then some (1, 0, cvtToInt false .rtz 64 true) else none
     | _ => none)
  else if code < 24 then
    (let w := n = 32
     let intOk := n = 16 || n = 32
     match k with
     | 0 => if intOk then some (0, 1, cvtToInt w m n false) else none
     | 1 => if intOk then some (0, 1, cvtToInt w m n true) else none
     | 2 => if w then some (0, 1, cvtFromInt false m 64 false) else none
     | 3 => if w then some (0, 1, cvtFromInt false m 64 true) else none
     | 4 => if w then some (0, 1, fun x => let r := fpCvt true false m x; { val := r.1, fl := r.2 }) else none
     | 5 => if w then some (0, 1, cvtOdd) else none
     | 6 => if intOk then some (0, 1, cvtToInt w .rtz n false) else none
     | _ => if intOk then some (0, 1, cvtToInt w .rtz n true) else none)
  else none

/-! ## Decoding of OP-V -/

/-- An instruction of OP-V with a legal vtype. -/
structure VOp where
  w : Nat
  t : VType
  deriving DecidableEq, Repr

def VOp.f6 (o : VOp) : Nat := fld o.w 31 26
def VOp.vm (o : VOp) : Bool := fld o.w 25 25 = 1
def VOp.vs2 (o : VOp) : Nat := fld o.w 24 20
def VOp.vs1 (o : VOp) : Nat := fld o.w 19 15
def VOp.vd (o : VOp) : Nat := fld o.w 11 7
def VOp.f3 (o : VOp) : Nat := fld o.w 14 12
def VOp.n (o : VOp) : Nat := o.t.sew
def VOp.lg (o : VOp) : Nat := o.t.sewLog
/-- The form takes a vector as its other operand. -/
def VOp.vv (o : VOp) : Bool := o.f3 < 3

/-- Operand b of element i: vs1's element, or the scalar. -/
def VOp.b (o : VOp) (h : Hart) (i : Nat) : Nat :=
  match o.f3 with
  | 3 => lowBits o.n (sext o.vs1 5)
  | 4 => (h.getX o.vs1).toNat % 2 ^ o.n
  | 6 => (h.getX o.vs1).toNat % 2 ^ o.n
  | 5 => h.fp (o.n = 64) o.vs1
  | _ => h.velem o.vs1 o.n i

/-- Operand b as an amount or index: an immediate is unsigned, a register whole. -/
def VOp.amount (o : VOp) (h : Hart) : Nat := if o.f3 = 3 then o.vs1 else (h.getX o.vs1).toNat

/-- The destination and sources of elements of those widths may lie where they do: groups aligned, the destination not
v0 when masked, and no overlap of unlike widths other than the allowed ones. -/
def VOp.placed (o : VOp) (dLog s2Log s1Log : Nat) : Bool :=
  let t := o.t
  alignedAt o.vd (t.emul dLog) && alignedAt o.vs2 (t.emul s2Log) &&
  (o.vm || o.vd ≠ 0) && overlapOk o.vd (t.emul dLog) dLog o.vs2 (t.emul s2Log) s2Log &&
  (!o.vv || (alignedAt o.vs1 (t.emul s1Log) && overlapOk o.vd (t.emul dLog) dLog o.vs1 (t.emul s1Log) s1Log))

/-- The same for an instruction whose vs1 field is no register. -/
def VOp.placedUnary (o : VOp) (dLog sLog : Nat) : Bool :=
  ({ o with w := o.w / 2 ^ 15 * 2 ^ 15 + (4 * 2 ^ 12 + o.w % 2 ^ 12) } : VOp).placed dLog sLog sLog

/-- The sources of a mask-writing instruction may lie where they do. -/
def VOp.placedMask (o : VOp) : Bool :=
  let e := o.t.lmulLog
  alignedAt o.vs2 e && (!o.vv || alignedAt o.vs1 e) && overlapOk o.vd 0 0 o.vs2 e o.lg &&
  (!o.vv || overlapOk o.vd 0 0 o.vs1 e o.lg)

/-- The destination overlaps neither vs2's group nor, for a vector form, vs1's, nor the mask. -/
def VOp.apart (o : VOp) (e2 e1 : Int) : Bool :=
  let nd := groupRegs o.t.lmulLog
  alignedAt o.vd o.t.lmulLog && alignedAt o.vs2 e2 && (o.vm || o.vd ≠ 0) && !overlaps o.vd nd o.vs2 (groupRegs e2) &&
  (!o.vv || (alignedAt o.vs1 e1 && !overlaps o.vd nd o.vs1 (groupRegs e1)))

/-- An element-wise result if the instruction may be where it is. -/
def VOp.when (c : Bool) (h : Hart) : Option Hart := if c then some h else none

/-- Element i of vs2, zero beyond VLMAX. -/
def VOp.elem2 (o : VOp) (h : Hart) (i : Nat) : Nat := if i < o.t.vlmax then h.velem o.vs2 o.n i else 0

/-- VRGATHER, VRGATHEREI16. -/
def VOp.gather (o : VOp) (h : Hart) (free : FreeNo) (idx : Nat → Nat) (e1 : Int) : Option Hart :=
  VOp.when (o.apart o.t.lmulLog e1) (h.vmap free o.t o.vd o.lg o.vm fun i => { val := o.elem2 h (idx i) })

/-- VSLIDEUP and VSLIDEDOWN. -/
def VOp.slideUp (o : VOp) (h : Hart) (free : FreeNo) : Option Hart :=
  let k := o.amount h
  VOp.when (o.apart o.t.lmulLog 0) (h.vmap free o.t o.vd o.lg o.vm fun i =>
    { val := if i < k then h.velem o.vd o.n i else h.velem o.vs2 o.n (i - k) })
def VOp.slideDown (o : VOp) (h : Hart) (free : FreeNo) : Option Hart :=
  let k := o.amount h
  VOp.when (o.placed o.lg o.lg o.lg) (h.vmap free o.t o.vd o.lg o.vm fun i => { val := o.elem2 h (i + k) })

/-- VSLIDE1UP and VSLIDE1DOWN, and their FP forms, with the scalar x. -/
def VOp.slide1 (o : VOp) (h : Hart) (free : FreeNo) (up : Bool) (x : Nat) : Option Hart :=
  if up then
    VOp.when (o.apart o.t.lmulLog 0) (h.vmap free o.t o.vd o.lg o.vm fun i =>
      { val := if i = 0 then x else h.velem o.vs2 o.n (i - 1) })
  else
    VOp.when (o.placed o.lg o.lg o.lg) (h.vmap free o.t o.vd o.lg o.vm fun i =>
      { val := if i + 1 = h.vl.toNat then x else o.elem2 h (i + 1) })

/-- VMERGE and VMV.V, and their FP forms. -/
def VOp.merge (o : VOp) (h : Hart) (free : FreeNo) : Option Hart :=
  let b := o.b h
  if o.vm then
    VOp.when (o.vs2 = 0 && o.placed o.lg o.lg o.lg) (h.vmap free o.t o.vd o.lg true fun i => { val := b i })
  else
    VOp.when (o.placed o.lg o.lg o.lg) (h.vmap free o.t o.vd o.lg true fun i =>
      { val := if h.vbit 0 i then b i else h.velem o.vs2 o.n i })

/-- A narrowing shift's or clip's result from a wide element a. -/
def narrowValue (f6 n vxrm a b : Nat) : VRes :=
  let sh := b % (2 * n)
  match f6 with
  | 0x2C => { val := a / 2 ^ sh % 2 ^ n }
  | 0x2D => { val := lowBits n (sext a (2 * n) / ((2 ^ sh : Nat) : Int)) }
  | 0x2E => vclamp false n (vround vxrm ((a : Nat) : Int) sh)
  | _ => vclamp true n (vround vxrm (sext a (2 * n)) sh)

/-- A reduction: vd's element 0 from vs1's element 0 and the active elements of vs2, of those widths. -/
def VOp.reduce (o : VOp) (h : Hart) (free : FreeNo) (dn : Nat) (f : Nat → List Nat → VRes) : Option Hart :=
  if !alignedAt o.vs2 o.t.lmulLog || h.vstart ≠ 0 then none
  else if h.vl = 0 then some h
  else
    let r := f (h.velem o.vs1 dn 0) ((h.body o.vm).map fun i => h.velem o.vs2 o.n i)
    some ((h.vscalar free o.t o.vd dn r.val).noteRes [r])

def Hart.vxrm (h : Hart) : Nat := h.vcsr.toNat / 2

/-- OPIVV, OPIVX and OPIVI. -/
def rvOpi (o : VOp) (h : Hart) (free : FreeNo) : Option Hart :=
  let b := o.b h
  let shiftB (i : Nat) : Nat := if o.f3 = 3 then o.vs1 else b i
  let a (i : Nat) : Nat := h.velem o.vs2 o.n i
  let vv := o.f3 = 0
  let vi := o.f3 = 3
  let carry (i : Nat) : Int := if !o.vm && h.vbit 0 i then 1 else 0
  let sum (i : Nat) : Int := (a i : Int) + b i + carry i
  let dif (i : Nat) : Int := (a i : Int) - b i - carry i
  let same := o.placed o.lg o.lg o.lg
  match o.f6 with
  | 0x0C =>
    if vv then o.gather h free b o.t.lmulLog else o.gather h free (fun _ => o.amount h) 0
  | 0x0E =>
    if vv then o.gather h free (fun i => h.velem o.vs1 16 i) (o.t.emul 4) else o.slideUp h free
  | 0x0F => if vv then none else o.slideDown h free
  | 0x10 => VOp.when (!o.vm && same) (h.vmap free o.t o.vd o.lg true fun i => { val := lowBits o.n (sum i) })
  | 0x11 => VOp.when o.placedMask (h.vmask free false o.vd true fun i => (((2 ^ o.n : Nat) : Int) ≤ sum i, 0))
  | 0x12 => VOp.when (!vi && !o.vm && same) (h.vmap free o.t o.vd o.lg true fun i => { val := lowBits o.n (dif i) })
  | 0x13 => VOp.when (!vi && o.placedMask) (h.vmask free false o.vd true fun i => (dif i < 0, 0))
  | 0x17 => o.merge h free
  | 0x2C | 0x2D | 0x2E | 0x2F =>
    VOp.when (o.lg < 6 && o.placed o.lg (o.lg + 1) o.lg)
      (h.vmap free o.t o.vd o.lg o.vm fun i => narrowValue o.f6 o.n h.vxrm (h.velem o.vs2 (2 * o.n) i) (shiftB i))
  | 0x30 | 0x31 =>
    if !vv || 6 ≤ o.lg then none
    else
      o.reduce h free (2 * o.n) fun x xs =>
        { val := lowBits (2 * o.n) (xs.foldl (fun t y => t + asInt (o.f6 = 0x31) o.n y) (x : Int)) }
  | _ =>
    if o.f6 = 0x27 && vi then
      -- VMV<nr>R.V, which moves whole registers whatever vtype says, stands in rvVector
      none
    else if (vv && (o.f6 = 0x03 || o.f6 = 0x1E || o.f6 = 0x1F)) ||
        (vi && (o.f6 = 0x02 || (0x04 ≤ o.f6 && o.f6 ≤ 0x07) || o.f6 = 0x1A || o.f6 = 0x1B || o.f6 = 0x22 || o.f6 = 0x23))
    then none
    else if (opiCompare o.f6 o.n 0 0).isSome then
      VOp.when o.placedMask (h.vmask free o.t.ma o.vd o.vm fun i => ((opiCompare o.f6 o.n (a i) (b i)).getD false, 0))
    else
      let shifts := o.f6 = 0x25 || (0x28 ≤ o.f6 && o.f6 ≤ 0x2B)
      VOp.when (same && (opiValue o.f6 o.n 0 0 0).isSome)
        (h.vmap free o.t o.vd o.lg o.vm fun i =>
          (opiValue o.f6 o.n h.vxrm (a i) (if shifts then shiftB i else b i)).getD { val := 0 })

/-- VWXUNARY0, VXUNARY0 and VMUNARY0. -/
def rvOpmUnary (o : VOp) (h : Hart) (free : FreeNo) : Option Hart :=
  let vl := h.vl.toNat
  let act := h.body o.vm
  let first := act.find? fun i => h.vbit o.vs2 i
  match o.f6 with
  | 0x10 =>
    (match o.vs1 with
     | 0 => VOp.when o.vm ({ h.setX o.vd (sx o.n (h.velem o.vs2 o.n 0)) with vstart := 0 })
     | 16 => VOp.when (h.vstart = 0) (h.setX o.vd (BitVec.ofNat 64 (act.filter fun i => h.vbit o.vs2 i).length))
     | 17 =>
       VOp.when (h.vstart = 0)
         (h.setX o.vd (match first with | some i => BitVec.ofNat 64 i | none => BitVec.allOnes 64))
     | _ => none)
  | 0x12 =>
    let k := o.vs1 / 2
    if k = 0 || 3 < k then none
    else
      let sLog := o.lg - (4 - k)
      VOp.when (7 - k ≤ o.lg && o.placedUnary o.lg sLog)
        (h.vmap free o.t o.vd o.lg o.vm fun i =>
          { val := lowBits o.n (asInt (o.vs1 % 2 = 1) (2 ^ sLog) (h.velem o.vs2 (2 ^ sLog) i)) })
  | _ =>
    let apartMask := o.vd ≠ o.vs2 && (o.vm || o.vd ≠ 0) && h.vstart = 0
    let before (i : Nat) : Bool := match first with | some k => i < k | none => true
    (match o.vs1 with
     | 1 => VOp.when apartMask (h.vmask free o.t.ma o.vd o.vm fun i => (before i, 0))
     | 2 => VOp.when apartMask (h.vmask free o.t.ma o.vd o.vm fun i => (first = some i, 0))
     | 3 => VOp.when apartMask (h.vmask free o.t.ma o.vd o.vm fun i => (before i || first = some i, 0))
     | 16 =>
       VOp.when (h.vstart = 0 && alignedAt o.vd o.t.lmulLog && (o.vm || o.vd ≠ 0) &&
           !overlaps o.vd (groupRegs o.t.lmulLog) o.vs2 1)
         (h.vmap free o.t o.vd o.lg o.vm fun i =>
           { val := ((List.range (min i vl)).filter fun j => (o.vm || h.vbit 0 j) && h.vbit o.vs2 j).length % 2 ^ o.n })
     | 17 =>
       VOp.when (o.vs2 = 0 && alignedAt o.vd o.t.lmulLog && (o.vm || o.vd ≠ 0))
         (h.vmap free o.t o.vd o.lg o.vm fun i => { val := i % 2 ^ o.n })
     | _ => none)

/-- VCOMPRESS. -/
def rvCompress (o : VOp) (h : Hart) (free : FreeNo) : Option Hart :=
  let kept := (List.range h.vl.toNat).filter fun i => h.vbit o.vs1 i
  let regs := groupRegs o.t.lmulLog
  VOp.when (o.vm && h.vstart = 0 && alignedAt o.vd o.t.lmulLog && alignedAt o.vs2 o.t.lmulLog &&
      !overlaps o.vd regs o.vs2 regs && !overlaps o.vd regs o.vs1 1)
    (h.vwrite free o.vd o.n regs kept.length o.t.ta o.t.ma (fun _ => true) fun i => h.velem o.vs2 o.n (kept.getD i 0))

/-- OPMVV and OPMVX. -/
def rvOpm (o : VOp) (h : Hart) (free : FreeNo) : Option Hart :=
  let vv := o.f3 = 2
  let b := o.b h
  let a (i : Nat) : Nat := h.velem o.vs2 o.n i
  if o.f6 < 8 then
    (if !vv then none
     else o.reduce h free o.n fun x xs => { val := xs.foldl (redOp o.f6 o.n) x })
  else if o.f6 = 0x0E || o.f6 = 0x0F then
    (if vv then none else o.slide1 h free (o.f6 = 0x0E) (lowBits o.n (sext (h.getX o.vs1).toNat 64)))
  else if o.f6 = 0x10 && !vv then
    VOp.when (o.vm && o.vs2 = 0) (h.vscalar free o.t o.vd o.n ((h.getX o.vs1).toNat % 2 ^ o.n))
  else if o.f6 = 0x10 || o.f6 = 0x12 || o.f6 = 0x14 then (if vv then rvOpmUnary o h free else none)
  else if o.f6 = 0x17 then (if vv then rvCompress o h free else none)
  else if 0x18 ≤ o.f6 && o.f6 ≤ 0x1F then
    VOp.when (vv && o.vm) (h.vmask free false o.vd true fun i => (maskOp o.f6 (h.vbit o.vs2 i) (h.vbit o.vs1 i), 0))
  else if 0x30 ≤ o.f6 then
    let wideA := 0x34 ≤ o.f6 && o.f6 ≤ 0x37
    let n2 := if wideA then 2 * o.n else o.n
    VOp.when (o.lg < 6 && (opmWide o.f6 o.n 0 0 0).isSome && !(vv && o.f6 = 0x3E) &&
        o.placed (o.lg + 1) (if wideA then o.lg + 1 else o.lg) o.lg)
      (h.vmap free o.t o.vd (o.lg + 1) o.vm fun i =>
        (opmWide o.f6 o.n (h.velem o.vs2 n2 i) (b i) (h.velem o.vd (2 * o.n) i)).getD { val := 0 })
  else
    VOp.when ((opmValue o.f6 o.n 0 0 0 0).isSome && o.placed o.lg o.lg o.lg)
      (h.vmap free o.t o.vd o.lg o.vm fun i =>
        (opmValue o.f6 o.n h.vxrm (a i) (b i) (h.velem o.vd o.n i)).getD { val := 0 })

/-- Takes two elements of a list, by free choices, and puts their sum in their place, until one is left: a sum in any
order (log 18). -/
def freeSum (add : Nat → Nat → Nat × Flags) (free : FreeNo) : Nat → List Nat → Flags → VRes
  | 0, xs, fl => { val := xs.headD 0, fl }
  | k + 1, xs, fl =>
    match xs with
    | [] => { val := 0, fl }
    | [x] => { val := x, fl }
    | xs =>
      let i := Config.reduceOrder (free * 2 ^ 22 + 2 * k) % xs.length
      let ys := xs.eraseIdx i
      let j := Config.reduceOrder (free * 2 ^ 22 + 2 * k + 1) % ys.length
      let (r, f) := add (xs.getD i 0) (ys.getD j 0)
      freeSum add free k (r :: ys.eraseIdx j) (fl ||| f)

/-- A sum in element order. -/
def orderedSum (add : Nat → Nat → Nat × Flags) (x : Nat) (xs : List Nat) : VRes :=
  xs.foldl (fun (r : VRes) y => let (v, f) := add r.val y; { val := v, fl := r.fl ||| f }) { val := x }

/-- FP reductions. -/
def rvOpfReduce (o : VOp) (h : Hart) (free : FreeNo) (m : Mode) : Option Hart :=
  let d := o.n = 64
  match o.f6 with
  | 0x01 => o.reduce h free o.n fun x xs => freeSum (fpAdd d m) free xs.length (x :: xs) 0
  | 0x03 => o.reduce h free o.n fun x xs => orderedSum (fpAdd d m) x xs
  | 0x05 => o.reduce h free o.n fun x xs => orderedSum (fpMinMax d false) x xs
  | 0x07 => o.reduce h free o.n fun x xs => orderedSum (fpMinMax d true) x xs
  | _ =>
    if o.n ≠ 32 then none
    else
      o.reduce h free 64 fun x xs =>
        let ws := xs.map fpWiden
        let fl := ws.foldl (fun a r => a ||| r.2) 0
        let r := if o.f6 = 0x31 then freeSum (fpAdd true m) free xs.length (x :: ws.map Prod.fst) 0
          else orderedSum (fpAdd true m) x (ws.map Prod.fst)
        { r with fl := r.fl ||| fl }

/-- OPFVV and OPFVF. -/
def rvOpf (o : VOp) (h : Hart) (free : FreeNo) : Option Hart :=
  match rmOf h.frm 7 with
  | none => none
  | some m =>
    let vv := o.f3 = 1
    let d := o.n = 64
    let fpSew := o.n = 32 || o.n = 64
    let b := o.b h
    let a (i : Nat) : Nat := h.velem o.vs2 o.n i
    let same := o.placed o.lg o.lg o.lg
    if o.f6 = 0x12 then
      (if !vv then none
       else
         match cvtOf o.vs1 o.n m with
         | none => none
         | some (dl, sl, f) =>
           let dLog := (o.lg + dl).toNat
           let sLog := (o.lg + sl).toNat
           VOp.when (o.placedUnary dLog sLog)
             (h.vmap free o.t o.vd dLog o.vm fun i => f (h.velem o.vs2 (2 ^ sLog) i)))
    else if !fpSew then none
    else if o.f6 = 0x01 || o.f6 = 0x03 || o.f6 = 0x05 || o.f6 = 0x07 || o.f6 = 0x31 || o.f6 = 0x33 then
      (if vv then rvOpfReduce o h free m else none)
    else if o.f6 = 0x0E || o.f6 = 0x0F then (if vv then none else o.slide1 h free (o.f6 = 0x0E) (b 0))
    else if o.f6 = 0x10 then
      (if vv then VOp.when (o.vm && o.vs1 = 0) ({ h.putFp d o.vd (a 0) with vstart := 0 })
       else VOp.when (o.vm && o.vs2 = 0) (h.vscalar free o.t o.vd o.n (b 0)))
    else if o.f6 = 0x13 then
      (if !vv then none
       else
         let f : Option (Nat → VRes) :=
           match o.vs1 with
           | 0 => some fun x => let r := fpSqrt d m x; { val := r.1, fl := r.2 }
           | 4 => some (fpRsqrt7 d)
           | 5 => some (fpRec7 d m)
           | 16 => some fun x => { val := fpClass d x }
           | _ => none
         match f with
         | none => none
         | some f =>
           VOp.when (o.placedUnary o.lg o.lg)
             (h.vmap free o.t o.vd o.lg o.vm fun i => f (a i)))
    else if o.f6 = 0x17 then (if vv then none else o.merge h free)
    else if (opfCompare d o.f6 0 0).isSome then
      VOp.when (!(vv && (o.f6 = 0x1D || o.f6 = 0x1F)) && o.placedMask)
        (h.vmask free o.t.ma o.vd o.vm fun i => (opfCompare d o.f6 (a i) (b i)).getD (false, 0))
    else if 0x30 ≤ o.f6 then
      let wideA := o.f6 = 0x34 || o.f6 = 0x36
      let n2 := if wideA then 64 else 32
      VOp.when (o.n = 32 && (opfWide m o.f6 0 0 0).isSome && o.placed 6 (if wideA then 6 else 5) 5)
        (h.vmap free o.t o.vd 6 o.vm fun i =>
          (opfWide m o.f6 (h.velem o.vs2 n2 i) (b i) (h.velem o.vd 64 i)).getD { val := 0 })
    else
      VOp.when (!(vv && (o.f6 = 0x21 || o.f6 = 0x27)) && (opfValue d m o.f6 0 0 0).isSome && same)
        (h.vmap free o.t o.vd o.lg o.vm fun i => (opfValue d m o.f6 (a i) (b i) (h.velem o.vd o.n i)).getD { val := 0 })

/-- VMV<nr>R.V: whole registers from vstart on, whatever vl says. -/
def rvMoveWhole (h : Hart) (w : Nat) : Option Hart :=
  let n := fld w 19 15 + 1
  let vd := fld w 11 7
  let vs2 := fld w 24 20
  if fld w 25 25 = 0 || !(n = 1 || n = 2 || n = 4 || n = 8) || vd % n ≠ 0 || vs2 % n ≠ 0 then none
  else
    let sew := match h.vt with | some t => t.sew | none => 8
    some (h.vwrite 0 vd sew n (n * 1024 / sew) false false (fun _ => true) fun i => h.velem vs2 sew i)

/-- OP-V; none is an illegal instruction. -/
def rvVector (h : Hart) (free : FreeNo) (w : Nat) : Option Hart :=
  if fld w 14 12 = 7 then rvVset h w
  else if fld w 14 12 = 3 && fld w 31 26 = 0x27 then rvMoveWhole h w
  else
    match h.vt with
    | none => none
    | some t =>
      let o : VOp := ⟨w, t⟩
      match fld w 14 12 with
      | 0 | 3 | 4 => rvOpi o h free
      | 2 | 6 => rvOpm o h free
      | _ => rvOpf o h free

/-! ## Vector loads and stores (29 R327) -/

/-- The log2 of the element width a load or store names; none for a scalar one. -/
def vWidth (f3 : Nat) : Option Nat :=
  match f3 with
  | 0 => some 3
  | 5 => some 4
  | 6 => some 5
  | 7 => some 6
  | _ => none

/-- A load or store of elements: where element i's field f lies, in memory and in registers. -/
structure VAccess where
  /-- bytes of an element -/
  bytes : Nat
  /-- elements from vstart on -/
  evl : Nat
  fields : Nat
  addr : Nat → Nat → Nat
  vd : Nat
  /-- registers of one field's group -/
  regs : Nat
  vm : Bool
  ta : Bool
  ma : Bool
  /-- ends quietly at a failing element other than the first -/
  faultOnly : Bool

/-- The active accesses of a load or store, in element and field order. -/
def VAccess.list (x : VAccess) (h : Hart) : List (Nat × Nat) :=
  ((List.range x.evl).filter fun i => h.vstart.toNat ≤ i && (x.vm || h.vbit 0 i)).flatMap fun i =>
    (List.range x.fields).map fun f => (i, f)

/-- What a vector load reads: the values read, the elements read whole, and why it stopped. -/
def vload (x : VAccess) (e ctx : Nat) : State → List (Nat × Nat) → List (Nat × Nat × Nat) →
    State × List (Nat × Nat × Nat) × Option (Nat × HartEnd)
  | s, [], acc => (s, acc.reverse, none)
  | s, (i, f) :: rest, acc =>
    match hartLoad s e ctx (x.addr i f) x.bytes with
    | .error z => (s, acc.reverse, some (i, z))
    | .ok (s', v) => vload x e ctx s' rest ((i, f, v) :: acc)

/-- Writes the loaded values into their groups, for elements below vl. -/
def VAccess.fill (x : VAccess) (h : Hart) (free : FreeNo) (vl : Nat) (vals : List (Nat × Nat × Nat)) : Hart :=
  let v := h.vstart
  let h' := (List.range x.fields).foldl (fun (g : Hart) f =>
    { g.vwrite (free * 8 + f) (x.vd + f * x.regs) (8 * x.bytes) x.regs vl x.ta x.ma (fun i => x.vm || h.vbit 0 i)
        (fun i => ((vals.find? fun t => t.1 = i && t.2.1 = f).map fun t => t.2.2).getD 0) with vstart := v }) h
  { h' with vstart := 0 }

/-- A vector load. -/
def VAccess.load (x : VAccess) (s : State) (e ctx : Nat) (h : Hart) : Except HartEnd (State × Hart) :=
  match vload x e ctx s (x.list h) [] with
  | (s', vals, none) => .ok (s', x.fill h s.free x.evl vals)
  | (s', vals, some (i, z)) =>
    match x.faultOnly, z with
    | true, .fault _ _ _ | true, .poison _ | true, .misaligned _ _ =>
      if i = 0 then .error z
      else .ok (s', { x.fill h s.free i vals with vl := BitVec.ofNat 64 i })
    | _, _ => .error z

/-- What a vector store writes: the state after the elements written, and the element at which it stopped and why. -/
def vstore (x : VAccess) (e ctx : Nat) (h : Hart) : State → List (Nat × Nat) → State × Option (Nat × HartEnd)
  | s, [] => (s, none)
  | s, (i, f) :: rest =>
    match hartStore s e ctx (x.addr i f) x.bytes (h.velem (x.vd + f * x.regs) (8 * x.bytes) i) with
    | .error z => (s, some (i, z))
    | .ok s' => vstore x e ctx h s' rest

/-- A vector store. -/
def VAccess.store (x : VAccess) (s : State) (e ctx : Nat) (h : Hart) : Except HartEnd (State × Hart) :=
  match vstore x e ctx h s (x.list h) with
  | (s', none) => .ok (s', { h with vstart := 0 })
  | (_, some (_, z)) => .error z

/-- The access a vector load or store stands for; none is an illegal instruction. -/
def vAccess (h : Hart) (w : Nat) (store : Bool) : Option VAccess :=
  let nf := fld w 31 29 + 1
  let mop := fld w 27 26
  let vm := fld w 25 25 = 1
  let r2 := fld w 24 20
  let base := (h.getX (fld w 19 15)).toNat
  let vd := fld w 11 7
  let at' (off : Nat) : Nat := (base + off) % 2 ^ 64
  match vWidth (fld w 14 12) with
  | none => none
  | some wLog =>
    if fld w 28 28 = 1 then none
    else if mop = 0 && r2 = 8 then
      -- whole registers
      (if !vm || !(nf = 1 || nf = 2 || nf = 4 || nf = 8) || vd % nf ≠ 0 || (store && wLog ≠ 3) then none
       else
         let b := 2 ^ (wLog - 3)
         some { bytes := b, evl := nf * 128 / b, fields := 1, addr := fun i _ => at' (i * b), vd, regs := nf, vm := true,
                ta := false, ma := false, faultOnly := false })
    else
      match h.vt with
      | none => none
      | some t =>
        let vl := h.vl.toNat
        if mop = 0 && r2 = 11 then
          (if nf ≠ 1 || !vm || wLog ≠ 3 then none
           else
             some { bytes := 1, evl := (vl + 7) / 8, fields := 1, addr := fun i _ => at' i, vd, regs := 1, vm := true,
                    ta := true, ma := false, faultOnly := false })
        else if mop = 0 && !(r2 = 0 || (r2 = 16 && !store)) then none
        else
          let indexed := mop = 1 || mop = 3
          let dLog := if indexed then t.sewLog else wLog
          let e := if indexed then t.lmulLog else t.emul wLog
          let ie := t.emul wLog
          let regs := groupRegs e
          let b := 2 ^ (dLog - 3)
          if !alignedAt vd e || 8 < nf * regs || 32 < vd + nf * regs || (!store && !vm && vd = 0) then none
          else if indexed && (!alignedAt r2 ie || (!store && !overlapOk vd e dLog r2 ie wLog) ||
              (!store && 1 < nf && overlaps vd (nf * regs) r2 (groupRegs ie))) then none
          else
            let stride : Nat := (h.getX r2).toNat
            let addr (i f : Nat) : Nat :=
              if indexed then at' (h.velem r2 (2 ^ wLog) i + f * b)
              else if mop = 2 then at' (i * stride + f * b)
              else at' (i * nf * b + f * b)
            some { bytes := b, evl := vl, fields := nf, addr, vd, regs, vm, ta := t.ta, ma := t.ma
                   faultOnly := mop = 0 && r2 = 16 }

/-- A vector load or store. -/
def rvVecMem (s : State) (e ctx : Nat) (h : Hart) (w : Nat) (store : Bool) : Except HartEnd (State × Hart) :=
  match vAccess h w store with
  | none => .error .trap
  | some x => if store then x.store s e ctx h else x.load s e ctx h

/-- What a vector load or store that does not complete has done before it stops: the elements before the failing one are
accessed, those of a store written, and vstart names the failing element of a store (29 R330). -/
def vecPartial (s : State) (e ctx : Nat) (h : Hart) (w : Nat) : State × Hart :=
  let store := fld w 6 0 = 0x27
  match (if (store || fld w 6 0 = 0x07) && (vWidth (fld w 14 12)).isSome then vAccess h w store else none) with
  | none => (s, h)
  | some x =>
    if store then
      match vstore x e ctx h s (x.list h) with
      | (s', some (i, _)) => (s', { h with vstart := BitVec.ofNat 64 i })
      | _ => (s, h)
    else ((vload x e ctx s (x.list h) []).1, h)

end Sys2Proof.Machine
end

