-- ==== Sys2Proof/Machine/StackEngine.lean ====
section
/-! DEFINITION. RUN jobs: the start of a kernel, one RISC-V instruction of a stack engine's hart, Joholt's three custom
instructions and the limit (29 R326 to R328, R333). -/

namespace Sys2Proof.Machine

/-! ## One instruction of the hart -/

/-- The bytes of the instruction at the hart's pc: its 32-bit form and its length (29 R326). -/
def hartFetch (s : State) (e ctx pc : Nat) : Except HartEnd (State × Nat × Nat) :=
  match hartRead s e ctx pc 2 .fetch with
  | .error x => .error x
  | .ok (s, lo) =>
    if lo % 4 = 3 then
      match hartRead s e ctx ((pc + 2) % 2 ^ 64) 2 .fetch with
      | .error x => .error x
      | .ok (s, hi) => .ok (s, lo + 2 ^ 16 * hi, 4)
    else
      match expand16 lo with
      | some w => .ok (s, w, 2)
      | none => .error .trap

/-- An instruction's effect on the hart and memory, or why it does not complete. -/
abbrev HartEff := Except HartEnd (State × Hart)

/-- Writes an integer register and goes on. -/
def retire (s : State) (h : Hart) (rd : Nat) (v : Dword) : HartEff := .ok (s, h.setX rd v)

/-- LB to LWU, and the load of an address. -/
def rvLoad (s : State) (e ctx : Nat) (h : Hart) (w : Nat) : HartEff :=
  let f3 := fld w 14 12
  let a := (h.getX (fld w 19 15) + rvImmI w).toNat
  if f3 = 7 then .error .trap
  else
    let n := 2 ^ (f3 % 4)
    match hartLoad s e ctx a n with
    | .error x => .error x
    | .ok (s, v) => retire s h (fld w 11 7) (if f3 < 4 then sx (8 * n) v else BitVec.ofNat 64 v)

/-- SB to SD. -/
def rvStore (s : State) (e ctx : Nat) (h : Hart) (w : Nat) : HartEff :=
  let f3 := fld w 14 12
  let a := (h.getX (fld w 19 15) + rvImmS w).toNat
  if 3 < f3 then .error .trap
  else (hartStore s e ctx a (2 ^ f3) (h.getX (fld w 24 20)).toNat).map fun s => (s, h)

/-- FLW, FLD, FSW and FSD, and the vector loads and stores. -/
def rvFpMem (s : State) (e ctx : Nat) (h : Hart) (w : Nat) (store : Bool) : HartEff :=
  let f3 := fld w 14 12
  let d := f3 = 3
  let n := 2 ^ f3
  if (vWidth f3).isSome then rvVecMem s e ctx h w store
  else if f3 ≠ 2 && f3 ≠ 3 then .error .trap
  else if store then
    let a := (h.getX (fld w 19 15) + rvImmS w).toNat
    (hartStore s e ctx a n (h.getF (fld w 24 20)).toNat).map fun s => (s, h)
  else
    let a := (h.getX (fld w 19 15) + rvImmI w).toNat
    (hartLoad s e ctx a n).map fun r => (r.1, h.putFp d (fld w 11 7) r.2)

/-- LR, SC and the AMOs (29 R327). -/
def rvAtomic (s : State) (e ctx : Nat) (h : Hart) (w : Nat) : HartEff :=
  let f3 := fld w 14 12
  let f5 := fld w 31 27
  let n := 2 ^ f3
  let a := (h.getX (fld w 19 15)).toNat
  let rd := fld w 11 7
  let src := (h.getX (fld w 24 20)).toNat % 2 ^ (8 * n)
  -- the read, an acquire where aq is set, and the write, a release where rl is set (R327; 11 R153)
  let take (s : State) : State := hartNote s e ctx a n .load (decide (fld w 26 26 = 1))
  let put (s : State) (m : Mapped) (v : Nat) : State := hartWrite s e ctx a m (natBytes n v) (decide (fld w 25 25 = 1))
  if f3 ≠ 2 && f3 ≠ 3 then .error .trap
  else if f5 = 2 then
    if fld w 24 20 ≠ 0 then .error .trap
    else
      match hartAtomicAt s e ctx a n .load with
      | .error x => .error x
      | .ok m =>
        let s := take s
        let v := bytesNat (s.mem.homeBytes m.pa n)
        retire s { h with reservation := some (m.pa / 64) } rd (sx (8 * n) v)
  else if f5 = 3 then
    match hartAtomicAt s e ctx a n .store with
    | .error x => .error x
    | .ok m =>
      let h' := { h with reservation := none }
      if h.reservation = some (m.pa / 64) then retire (put s m src) h' rd 0
      else retire s h' rd 1
  else
    match amoOp (8 * n) f5 0 0 with
    | none => .error .trap
    | some _ =>
      match hartAtomicAt s e ctx a n .store with
      | .error x => .error x
      | .ok m =>
        let s := take (hartDirty s e ctx a n)
        let old := bytesNat (s.mem.homeBytes m.pa n)
        retire (put s m ((amoOp (8 * n) f5 old src).getD 0)) h rd (sx (8 * n) old)

/-- OP-IMM and OP-IMM-32. -/
def rvOpImm (s : State) (h : Hart) (w : Nat) (w32 : Bool) : HartEff :=
  let f3 := fld w 14 12
  let a := h.getX (fld w 19 15)
  let top := if w32 then fld w 31 25 else fld w 31 26 * 2
  let shift := f3 = 1 || f3 = 5
  if shift && !(top = 0 || (f3 = 5 && top = 0x20)) then .error .trap
  else if w32 && !shift && f3 ≠ 0 then .error .trap
  else
    let b : Dword := if shift then BitVec.ofNat 64 (fld w 25 20) else rvImmI w
    retire s h (fld w 11 7) (intOp w32 f3 (shift && top = 0x20) a b)

/-- OP and OP-32. -/
def rvOp (s : State) (h : Hart) (w : Nat) (w32 : Bool) : HartEff :=
  let f3 := fld w 14 12
  let f7 := fld w 31 25
  let a := h.getX (fld w 19 15)
  let b := h.getX (fld w 24 20)
  let rd := fld w 11 7
  if f7 = 1 then
    if w32 && (f3 = 1 || f3 = 2 || f3 = 3) then .error .trap else retire s h rd (mulOp w32 f3 a b)
  else if f7 ≠ 0 && !(f7 = 0x20 && (f3 = 0 || f3 = 5)) then .error .trap
  else if w32 && !(f3 = 0 || f3 = 1 || f3 = 5) then .error .trap
  else retire s h rd (intOp w32 f3 (f7 = 0x20) a b)

/-- Zicsr (29 R326): M-mode reaches its own CSRs too. -/
def rvCsr (s : State) (e : Nat) (h : Hart) (w : Nat) : HartEff :=
  let f3 := fld w 14 12
  let n := fld w 31 20
  let r1 := fld w 19 15
  let src : Dword := if 4 < f3 then BitVec.ofNat 64 r1 else h.getX r1
  let own := h.machine && (h.csr s.clock n).isNone
  match (if own then h.machineCsr e s.clock n else h.csr s.clock n) with
  | none => .error .trap
  | some old =>
    let new : Dword := if f3 % 4 = 1 then src else if f3 % 4 = 2 then old ||| src else old &&& ~~~src
    let h' := if f3 % 4 = 1 || r1 ≠ 0 then (if own then h.setMachineCsr s.clock n new else h.setCsr n new) else some h
    match h' with
    | none => .error .trap
    | some h' => retire s h' (fld w 11 7) old

/-- MRET: the mode of MPP, with the interrupt enable of MPIE, at mepc (PRESUMED, log 85). -/
def Hart.mret (h : Hart) : Hart :=
  let st := h.mstatus.toNat
  let toM := fld st 12 11 = 3
  { h with
    machine := toM, pc := h.mepc
    mstatus := BitVec.ofNat 64 (fld st 7 7 * 2 ^ 3 + 2 ^ 7 + fld st 21 21 * 2 ^ 21 + if toM then fld st 17 17 * 2 ^ 17 else 0) }

/-- SYSTEM: ECALL, which ends a job with DONE, and EBREAK are exceptions; MRET is M-mode's; WFI ends at once, but is illegal
in U-mode under TW. -/
def rvSystem (s : State) (e : Nat) (h : Hart) (w : Nat) : HartEff :=
  let f3 := fld w 14 12
  if f3 = 0 then
    (if w = 0x00000073 then .error .done else if w = 0x00100073 then .error .breakpoint
     else if w = 0x10500073 then (if !h.machine && h.mstatus.getLsbD 21 then .error .trap else .ok (s, h))
     else if w = 0x30200073 && h.machine then .ok (s, h.mret) else .error .trap)
  else if f3 = 4 then .error .trap
  else rvCsr s e h w

/-- FENCE and FENCE.I: a FENCE of earlier reads before all is an acquiring fence, one of all before later writes a releasing
one (29 R327). -/
def rvFence (s : State) (e : Nat) (h : Hart) (w : Nat) : HartEff :=
  let all (k : Nat) : Bool := k % 4 = 3
  if fld w 14 12 = 0 then
    .ok (engineFence s e (fld w 25 25 = 1 && all (fld w 23 20)) (all (fld w 27 24) && fld w 20 20 = 1), h)
  else if fld w 14 12 = 1 then .ok (s, h)
  else .error .trap

/-- FMADD, FMSUB, FNMSUB and FNMADD by their major opcode. -/
def rvFma (s : State) (h : Hart) (w : Nat) : HartEff :=
  let d := fld w 26 25 = 1
  match rmOf h.frm (fld w 14 12) with
  | none => .error .trap
  | some m =>
    if 1 < fld w 26 25 then .error .trap
    else
      let k := fld w 3 2
      let (r, fl) := fpFma d m (k = 2 || k = 3) (k = 1 || k = 3) (h.fp d (fld w 19 15)) (h.fp d (fld w 24 20))
        (h.fp d (fld w 31 27))
      .ok (s, (h.putFp d (fld w 11 7) r).orFlags fl)

/-- OP-FP. -/
def rvFp (s : State) (h : Hart) (w : Nat) : HartEff :=
  let d := fld w 25 25 = 1
  let f5 := fld w 31 27
  let rm := fld w 14 12
  let rd := fld w 11 7
  let r1 := fld w 19 15
  let r2 := fld w 24 20
  let a := h.fp d r1
  let b := h.fp d r2
  let toF (r : Nat × Flags) : HartEff := .ok (s, (h.putFp d rd r.1).orFlags r.2)
  let rounded (f : Mode → HartEff) : HartEff :=
    match rmOf h.frm rm with
    | none => .error .trap
    | some m => f m
  if 1 < fld w 26 25 then .error .trap
  else
    match f5 with
    | 0x00 => rounded fun m => toF (fpAdd d m a b)
    | 0x01 => rounded fun m => toF (fpAdd d m a (fpSgnj d 1 b b))
    | 0x02 => rounded fun m => toF (fpMul d m a b)
    | 0x03 => rounded fun m => toF (fpDiv d m a b)
    | 0x0B => rounded fun m => if r2 ≠ 0 then .error .trap else toF (fpSqrt d m a)
    | 0x04 => if 2 < rm then .error .trap else toF (fpSgnj d rm a b, 0)
    | 0x05 => if 1 < rm then .error .trap else toF (fpMinMax d (rm = 1) a b)
    | 0x08 =>
      rounded fun m =>
        if r2 ≠ (if d then 0 else 1) then .error .trap
        else toF (fpCvt (!d) d m (h.fp (!d) r1))
    | 0x14 =>
      if 2 < rm then .error .trap
      else
        let (r, fl) := fpCmp d rm a b
        .ok (s, (h.setX rd (if r then 1 else 0)).orFlags fl)
    | 0x18 =>
      rounded fun m =>
        if 3 < r2 then .error .trap
        else
          let n := if r2 < 2 then 32 else 64
          let (v, fl) := fpToInt d m n (r2 % 2 = 0) a
          .ok (s, (h.setX rd (sx n (lowBits n v))).orFlags fl)
    | 0x1A =>
      rounded fun m =>
        if 3 < r2 then .error .trap
        else
          let n := if r2 < 2 then 32 else 64
          let x := (h.getX r1).toNat
          let v : Int := if r2 % 2 = 0 then sext x n else ((x % 2 ^ n : Nat) : Int)
          toF (fpRound d m (FNum.ofQ (Q.int v)))
    | 0x1C =>
      if r2 ≠ 0 then .error .trap
      else if rm = 0 then retire s h rd (sx (fpWidth d) (h.getF r1).toNat)
      else if rm = 1 then retire s h rd (BitVec.ofNat 64 (fpClass d a))
      else .error .trap
    | 0x1E =>
      if r2 ≠ 0 || rm ≠ 0 then .error .trap else .ok (s, h.putFp d rd (h.getX r1).toNat)
    | _ => .error .trap

/-- One instruction of the 32-bit form w and length len, at the hart's pc. The pc moves past it unless it says otherwise. -/
def rvExec (s : State) (e ctx : Nat) (h0 : Hart) (w len : Nat) : HartEff :=
  let next := h0.pc + BitVec.ofNat 64 len
  let h := { h0 with pc := next }
  let rd := fld w 11 7
  let a := h.getX (fld w 19 15)
  let even (x : Dword) : Dword := x &&& ~~~(1 : Dword)
  match fld w 6 0 with
  | 0x37 => retire s h rd (rvImmU w)
  | 0x17 => retire s h rd (h0.pc + rvImmU w)
  | 0x6F => retire s { h with pc := h0.pc + rvImmJ w } rd next
  | 0x67 => if fld w 14 12 ≠ 0 then .error .trap else retire s { h with pc := even (a + rvImmI w) } rd next
  | 0x63 =>
    match branchTaken (fld w 14 12) a (h.getX (fld w 24 20)) with
    | none => .error .trap
    | some t => .ok (s, if t then { h with pc := h0.pc + rvImmB w } else h)
  | 0x03 => rvLoad s e ctx h w
  | 0x23 => rvStore s e ctx h w
  | 0x13 => rvOpImm s h w false
  | 0x1B => rvOpImm s h w true
  | 0x33 => rvOp s h w false
  | 0x3B => rvOp s h w true
  | 0x0F => rvFence s e h w
  | 0x73 => rvSystem s e h w
  | 0x2F => rvAtomic s e ctx h w
  | 0x07 => rvFpMem s e ctx h w false
  | 0x27 => rvFpMem s e ctx h w true
  | 0x43 => rvFma s h w
  | 0x47 => rvFma s h w
  | 0x4B => rvFma s h w
  | 0x4F => rvFma s h w
  | 0x53 => rvFp s h w
  | 0x57 =>
    match rvVector h s.free w with
    | some h => .ok (s, h)
    | none => .error .trap
  | _ => .error .trap

/-! ## RUN jobs (29 R333) -/

/-- The RUN job an engine runs, its kernel not ended. -/
def runJob (s : State) (e : Nat) : Option Job :=
  match (s.engine e).running with
  | some j => if j.kind = 0 && j.ended.isNone then some j else none
  | none => none

/-- JOB_RUN (29 R333): the kernel starts in U-mode at ARG0. -/
def execJobRun (engine : Nat) (s : State) : Out :=
  match nextCard s engine 0 with
  | none => .refused (.notEnabled "JOB_RUN")
  | some j =>
    let d (n : Nat) : Dword := BitVec.ofNat 64 (j.arg n)
    let h : Hart := { Hart.reset with
      pc := d 0 &&& ~~~(1 : Dword), x := [(2, d 1), (10, d 2), (11, d 3)], cycle := s.clock, machine := false
      mtvec := (s.engine engine).hart.mtvec, mie := (s.engine engine).hart.mie, mscratch := (s.engine engine).hart.mscratch }
    let s := takeCard s engine { j with begun := true }
    .next (s.setEngine engine { s.engine engine with hart := h })

/-- Takes an exception or interrupt into M-mode, as the RISC-V privileged architecture gives (29 R326; PRESUMED, log 85): the
mode it comes from stands in MPP, and an interrupt enters a vectored table at four times its code. -/
def Hart.enterMachine (h : Hart) (cause tval : Nat) : Hart :=
  let st := h.mstatus.toNat
  let base := h.mtvec &&& ~~~(3 : Dword)
  { h with
    machine := true, mepc := h.pc, mcause := BitVec.ofNat 64 cause, mtval := BitVec.ofNat 64 tval
    mstatus := BitVec.ofNat 64 (fld st 3 3 * 2 ^ 7 + (if h.machine then 3 * 2 ^ 11 else 0) + fld st 17 17 * 2 ^ 17 + fld st 21 21 * 2 ^ 21)
    pc := if 2 ^ 63 ≤ cause && h.mtvec.getLsbD 0 then base + BitVec.ofNat 64 (4 * (cause - 2 ^ 63)) else base }

/-- Ends a kernel with a status, cause and address (29 R331, R333): its hart enters the firmware. -/
def endKernel (s : State) (e : Nat) (j : Job) (status cause ea mcause tval : Nat) : State :=
  let n := s.engine e
  s.setEngine e { n with running := some { j with ended := some (status, cause, ea) }, hart := n.hart.enterMachine mcause tval }

/-- The engine whose turn it is runs a kernel: the engine and its job. -/
def turnOf (s : State) : Option (Nat × Job) :=
  match s.near.turn with
  | none => none
  | some e => (runJob s e).map fun j => (e, j)

/-- The RISC-V exception code of an access: for a fetch, a load and a store. -/
def accessCode (k : Access) (fetch load store : Nat) : Nat :=
  match k with
  | .fetch => fetch
  | .store => store
  | _ => load

/-- The exception code of a failed access: a page fault where translation or permission fails, else an access fault. -/
def faultCode (cause : Nat) (k : Access) : Nat :=
  if 0x042 ≤ cause && cause ≤ 0x045 then accessCode k 12 13 15 else accessCode k 1 5 7

/-- What an instruction of a kernel gives the machine: it retires, or the kernel ends, or it waits for a migration. -/
def hartOutcome (s : State) (e : Nat) (j : Job) (name : String) : HartEff → Out
  | .ok (s', h) => .next (s'.setEngine e { s'.engine e with hart := { h with instret := h.instret + 1 } })
  | .error .done => .next (endKernel s e j 0 0 0 8 0)
  | .error (.fault c ea k) =>
    .next (endKernel s e j 1 c ea (faultCode c k) ea)
  | .error (.poison ea) => .next (endKernel s e j 2 0x047 ea 19 ea)
  | .error (.misaligned ea k) => .next (endKernel s e j 9 0x0C8 0 (accessCode k 0 4 6) ea)
  | .error .breakpoint => .next (endKernel s e j 9 0x0C8 0 3 (s.engine e).hart.pc.toNat)
  | .error .trap => .next (endKernel s e j 9 0x0C8 0 2 0)
  | .error (.page ea p a b) =>
    if agentWaits s (engineDie e) a b (.job j.serial) then .refused (.notEnabled name)
    else .next (startMigration s (engineDie e) j.ctx ea p a b (Agent.job j.serial))

/-- What an instruction of the firmware, in M-mode, gives the machine: it retires, or takes an exception to M-mode's own
handler; under MPRV it may wait for a migration (29 R326; PRESUMED, log 85). -/
def firmwareOutcome (s : State) (e ctx : Nat) (name : String) : HartEff → Out
  | .ok (s', h) => .next (s'.setEngine e { s'.engine e with hart := { h with instret := h.instret + 1 } })
  | .error x =>
    let enter (cause tval : Nat) : Out :=
      .next (s.setEngine e { s.engine e with hart := (s.engine e).hart.enterMachine cause tval })
    match x with
    | .done => enter 11 0
    | .fault c ea k => enter (faultCode c k) ea
    | .poison ea => enter 19 ea
    | .misaligned ea k => enter (accessCode k 0 4 6) ea
    | .breakpoint => enter 3 (s.engine e).hart.pc.toNat
    | .trap => enter 2 0
    | .page ea p a b =>
      if agentWaits s (engineDie e) a b (hartAgent s e) then .refused (.notEnabled name)
      else .next (startMigration s (engineDie e) ctx ea p a b (hartAgent s e))

/-- A stack engine of the partition whose hart is in M-mode and runs no kernel: its firmware may go on. -/
def firmwareRuns (s : State) (e : Nat) : Bool := e < 4 * s.sys.stacks && (runJob s e).isNone && (s.engine e).hart.machine

/-- STACK_ENGINE_INSTRUCTION (29 R326, R327, R330, R333): the next instruction of an engine's kernel, or of its firmware.
What it has accessed before a failure stays done. -/
def execStackEngineInstruction (engine : Nat) (s : State) : Out :=
  let run := runJob s engine
  if run.isNone && !firmwareRuns s engine then .refused (.notEnabled "STACK_ENGINE_INSTRUCTION")
  else
    let ctx := match run with | some j => j.ctx | none => ((s.engine engine).running.map Job.ctx).getD 0
    let outcome (s : State) (x : HartEff) : Out := match run with
      | some j => hartOutcome s engine j "STACK_ENGINE_INSTRUCTION" x
      | none => firmwareOutcome s engine ctx "STACK_ENGINE_INSTRUCTION" x
    let h := (s.engine engine).hart
    match hartFetch s engine ctx h.pc.toNat with
    | .error x => outcome s (.error x)
    | .ok (s, w, len) =>
      match rvExec s engine ctx h w len with
      | .ok r => outcome s (.ok r)
      | .error x =>
        let (s, h) := vecPartial s engine ctx h w
        outcome (s.setEngine engine { s.engine engine with hart := h }) (.error x)

/-- RUN_LIMIT_EXPIRE (29 R333): the first engine whose kernel's cycle count is beyond its limit. -/
def execRunLimitExpire (s : State) : Out :=
  let overNow (e : Nat) : Option (Nat × Job) :=
    match runJob s e with
    | some j => if j.arg 4 ≠ 0 && j.arg 4 < (s.clock - (s.engine e).hart.cycle) * 4 / 5 then some (e, j) else none
    | none => none
  match (List.range 64).findSome? overNow with
  | none => .refused (.notEnabled "RUN_LIMIT_EXPIRE")
  | some (e, j) => .next (endKernel s e j 9 0x0C8 0 (2 ^ 63 + 7) 0)

/-! ## Joholt's custom instructions (29 R328) -/

/-- Moves the hart of an engine past a custom instruction. -/
def Hart.pass (h : Hart) : Hart := { h with pc := h.pc + 4 }

/-- The 40 bytes of a descriptor as ARG0 to ARG4. -/
def readDescriptor (s : State) (e ctx a : Nat) : Except HartEnd (State × List Nat) :=
  (List.range 5).foldl (fun acc k =>
    match acc with
    | .error x => .error x
    | .ok (s, xs) =>
      match hartLoad s e ctx ((a + 8 * k) % 2 ^ 64) 8 with
      | .error x => .error x
      | .ok (s, v) => .ok (s, xs ++ [v])) (.ok (s, []))

/-- A sequence that failed at its start. -/
def failedSequence (s : State) (e status : Nat) : State × Nat :=
  let q : BankSeq :=
    { number := s.serial, engine := e, stack := stackOfEngine e, scalar := 0, xs := [], ys := [], banks := []
      poisoned := false, finished := true, status, spoiled := [], dropped := false
      used := [] }
  ((s.setSerial (s.serial + 1)).setNear { s.near with sequences := s.near.sequences ++ [q] }, s.serial)

/-- BSQ_START (29 R328, R339). A descriptor that R339 rejects, or whose rows do not translate, gives a sequence that has
failed with the status of R331 (DEDUCED, log 19); the handle is the lowest free one (DESIGN CHOICE, log 86). -/
def execBsqStart (rd rs1 : BitVec 5) (s : State) : Out :=
  match turnOf s with
  | none => .refused (.notEnabled "BSQ_START")
  | some (e, j) =>
    let h := (s.engine e).hart
    if 4 ≤ h.handles.length then hartOutcome s e j "BSQ_START" (retire s h.pass rd.toNat (BitVec.allOnes 64))
    else
      match readDescriptor s e j.ctx (h.getX rs1.toNat).toNat with
      | .error x => hartOutcome s e j "BSQ_START" (.error x)
      | .ok (s, args) =>
        let handle := ((List.range 4).find? fun k => (h.handles.get k).isNone).getD 0
        let started (r : State × Nat) : Out :=
          hartOutcome r.1 e j "BSQ_START"
            (retire r.1 { h.pass with handles := h.handles.set handle r.2 } rd.toNat (BitVec.ofNat 64 handle))
        match (if 2 ^ 40 ≤ nth args 2 then Checked.bad 8 0x0C8 0 else checkRows s (.job j.serial) e j.ctx (nth args)) with
        | .bad st _ _ => started (failedSequence s e st)
        | .page ea p a b => hartOutcome s e j "BSQ_START" (.error (.page ea p a b))
        | .ok xs ys =>
          let s := noteRows s e j.ctx xs.length (nth args)
          started (startSequence s e (BitVec.ofNat 32 (nth args 2)) xs ys (rowEntries s e j.ctx xs.length (nth args)))

/-- The value BSQ_POLL gives for a sequence. -/
def pollValue (q : BankSeq) : Nat :=
  if !q.finished then 0
  else if q.status ≠ 0 then 2 + 256 * q.status
  else if q.poisoned then 2 + 256 * 2 else 1

/-- BSQ_POLL (29 R328). -/
def execBsqPoll (rd rs1 : BitVec 5) (s : State) : Out :=
  match turnOf s with
  | none => .refused (.notEnabled "BSQ_POLL")
  | some (e, j) =>
    let h := (s.engine e).hart
    let handle := (h.getX rs1.toNat).toNat
    match (h.handles.get handle).bind fun k => sequenceOf s k with
    | none => hartOutcome s e j "BSQ_POLL" (retire s h.pass rd.toNat 3)
    | some q =>
      let v := pollValue q
      let h' := h.pass.setX rd.toNat (BitVec.ofNat 64 v)
      if v = 0 then hartOutcome s e j "BSQ_POLL" (.ok (s, h'))
      else
        let s := s.setNear { s.near with sequences := s.near.sequences.filter fun x => x.number ≠ q.number }
        hartOutcome s e j "BSQ_POLL" (.ok (s, { h' with handles := h.handles.erase handle }))

/-- JCARD_LD (29 R328). -/
def execJcardLd (rd rs1 : BitVec 5) (s : State) : Out :=
  match turnOf s with
  | none => .refused (.notEnabled "JCARD_LD")
  | some (e, j) =>
    let h := (s.engine e).hart
    hartOutcome s e j "JCARD_LD"
      (retire s h.pass rd.toNat (BitVec.ofNat 64 (j.dword ((h.getX rs1.toNat).toNat % 8))))

end Sys2Proof.Machine
end

