-- ==== Sys2Proof/Machine/Pooling.lean ====
section
/-! DEFINITION. Pooled lookups at the capacity tier, their messages, and pooling maintenance (21 R261 to R264; 29 R342,
R343; 31 R351, R352). -/

namespace Sys2Proof.Machine

/-! ## Rows of a table -/

/-- The partition's chip that holds a capacity-tier address (29 R342). -/
def chipOf (pa : Nat) : Nat := (pa - 2 ^ 40) / 2 ^ 39

/-- The physical pieces of n bytes at va, each in the capacity tier, reached through a valid PTE or a capacity PTE and
with no migration (21 R261); else the cause of FAULT. A row in HBM, the fabric or another region is 0x04A (DESIGN CHOICE,
log 21). -/
def rowPieces (s : State) (core ctx va n : Nat) (k : Access) : Except Nat (List (Nat × Nat)) :=
  (splitPages (n / 4096 + 2) va n).foldl (fun acc e =>
    match acc with
    | .error c => .error c
    | .ok ps =>
      let leaf : Except Nat (BitVec 64 × Nat) :=
        if e.1 % 2 ^ 64 / 2 ^ 56 ≠ 0 && e.1 % 2 ^ 64 / 2 ^ 56 ≠ 255 then .error 0x042
        else
          match leafOf s core ctx (e.1 % 2 ^ 57) (k = .store) with
          | .bad c => .error c
          | .capacity p _ big => .ok (p, leafPa p (if big then 16 else 12) (e.1 % 2 ^ 57))
          | .leaf p _ log => .ok (p, leafPa p log (e.1 % 2 ^ 57))
      match leaf with
      | .error c => .error c
      | .ok (p, pa) =>
        match permission p k with
        | some c => .error c
        | none => if s.sys.target pa = .capacity then .ok (ps ++ [(pa, e.2)]) else .error 0x04A) (.ok [])

/-- The virtual address of a row (21 R261). -/
def rowAddress (d : PoolDesc) (row : Nat) : Nat := va57 (d.tbase.toNat + row * d.rstride)

/-- The bytes of pieces in the buffer's memory, not in L2 (21 R264), and whether poison lies in them. -/
def bufferRead (s : State) (ps : List (Nat × Nat)) : List Byte × Bool :=
  (ps.flatMap fun p => (List.range p.2).map fun k => s.mem.ram.read (p.1 + k), ps.any fun p => s.mem.poisonIn p.1 p.2)

/-- The elements of a row, widened exactly (09 R112; 21 R261). -/
def rowWords (d : PoolDesc) (bs : List Byte) : List Word :=
  if d.fmt = 10 then
    (List.range d.rowlen).map fun i =>
      let r := bs.drop (34 * (i / 32))
      widenScaled 10 (recordCode 10 r (i % 32)) (recordScale 10 r (i % 32))
  else if d.fmt = 9 then (List.range d.rowlen).map fun i => bf16Word (recAt bs (2 * i) 2)
  else (List.range d.rowlen).map fun i => BitVec.ofNat 32 (recAt bs (4 * i) 4)

/-! ## EMBG (21 R262, R263) -/

/-- What the checks of a batch give. -/
inductive Prep where
  | plan (p : PoolPlan)
  | fail (status cause ea : Nat)
  | page (ea : Nat) (pte : BitVec 64) (a : Nat) (big : Bool)

/-- Words of memory read by an EMBG. Poison in them ends the command with POISON and no results (DESIGN CHOICE,
log 21). -/
def poolWords (s : State) (who : Agent) (core ctx a n : Nat) : Except Prep (List Nat) :=
  match (engineRead s core ctx (va57 a) (4 * n)).of s who with
  | .bad c => .error (.fail (statusOf c) c (va57 a))
  | .park p t b => .error (.page (va57 a) p t b)
  | .ok bs poison => if poison then .error (.fail 2 0x047 (va57 a)) else .ok ((List.range n).map fun k => recAt bs (4 * k) 4)

/-- A list never falls. -/
def rising : List Nat → Bool
  | [] => true
  | x :: xs => (match xs with | [] => true | y :: _ => x ≤ y) && rising xs

/-- Reads and checks the batch of an EMBG (21 R262): offsets, indices and weights, RANGE, then ORDER, then the rows. -/
def prepare (s : State) (who : Agent) (core ctx : Nat) (d : PoolDesc) : Prep :=
  match poolWords s who core ctx d.offs.toNat (d.nbags + 1) with
  | .error e => e
  | .ok offs =>
    let n := nth offs d.nbags
    if nth offs 0 ≠ 0 || !rising offs || 65536 < n then .fail 4 0 0
    else
      match poolWords s who core ctx d.idx.toNat n, (if d.weighted then poolWords s who core ctx d.wts.toNat n else .ok []) with
      | .error e, _ => e
      | _, .error e => e
      | .ok idx, .ok wts =>
        if idx.any fun i => d.nrows ≤ i then .fail 4 0 0
        else if d.presort && !rising idx then .fail 3 0 0
        else
          let rows := (sortAsc idx).map fun r => (r, rowPieces s core ctx (rowAddress d r) (poolRowBytes d) .load)
          match rows.findSome? fun r => match r.2 with | .error c => some (c, rowAddress d r.1) | .ok _ => none with
          | some (c, ea) => .fail (statusOf c) c ea
          | none =>
            let places : Map (List (Nat × Nat)) := rows.filterMap fun r => match r.2 with | .ok p => some (r.1, p) | _ => none
            .plan { offs, idx, wts := wts.map fun x => BitVec.ofNat 32 x, places, used := [] }

/-- Notes the reads of a batch (11 R135): its offsets, then its indices and weights. -/
def noteBatch (s : State) (core ctx : Nat) (d : PoolDesc) : State :=
  let at' := va57 d.offs.toNat
  let s := noteEngine s core ctx at' (4 * (d.nbags + 1))
  match engineRead s core ctx at' (4 * (d.nbags + 1)) with
  | .ok bs false =>
    let n := recAt bs (4 * d.nbags) 4
    if 65536 < n then s
    else
      let s := noteEngine s core ctx (va57 d.idx.toNat) (4 * n)
      if d.weighted then noteEngine s core ctx (va57 d.wts.toNat) (4 * n) else s
  | _ => s

/-- Notes the reads of a plan's rows, and the entries with which they are translated (11 R135, R137). -/
def notePlan (s : State) (core ctx : Nat) (d : PoolDesc) (p : PoolPlan) : State × PoolPlan :=
  let s := p.places.foldl (fun s e => noteRange s core ctx (rowAddress d e.1) (poolRowBytes d) false) s
  (s, { p with used := p.places.flatMap fun e =>
          (entriesFor s core ctx (rowAddress d e.1) (poolRowBytes d)).map fun x => (e.1, x) })

/-- The chip that holds a row of a plan: that of its first byte. -/
def PoolPlan.chip (p : PoolPlan) (row : Nat) : Nat :=
  chipOf (((p.places.get row).getD []).map Prod.fst |>.headD (2 ^ 40))

/-- The chips that hold rows of a plan. -/
def PoolPlan.chips (p : PoolPlan) : List Nat := sortAsc (p.places.keys.map p.chip)

/-- The positions of a bag in the order of the fold: ascending (index, position). -/
def PoolPlan.positions (p : PoolPlan) (bag : Nat) : List Nat :=
  let qs := (List.range (nth p.offs (bag + 1) - nth p.offs bag)).map fun k => nth p.offs bag + k
  (sortAsc (qs.map fun q => nth p.idx q * 2 ^ 17 + q)).map fun x => x % 2 ^ 17

/-- The rows of a bag, and its home chip (29 R342). -/
def PoolPlan.rowsOf (p : PoolPlan) (bag : Nat) : List Nat := (p.positions bag).map fun q => nth p.idx q
def PoolPlan.home (p : PoolPlan) (bag : Nat) : Option Nat := (p.rowsOf bag).head?.map p.chip

/-- The pooled vector of a bag from fetched rows (21 R263), with whether a row was poisoned. -/
def foldBag (d : PoolDesc) (p : PoolPlan) (rows : Map PoolRow) (bag : Nat) : List Word × Bool :=
  (p.positions bag).foldl (fun (acc : List Word × Bool) q =>
    match rows.get (nth p.idx q) with
    | none => acc
    | some r =>
      let w : Word := if d.weighted then p.wts.getD q 0 else oneF
      ((acc.1.zip (rowWords d r.bytes)).map fun e => (ffma w e.2 e.1).1, acc.2 || r.poison))
    (List.replicate d.rowlen 0#32, false)

/-- An accepted command of queue POOL by core and serial. -/
def poolCommand (s : State) (core serial : Nat) : Option Command :=
  (s.core core).commands.find? fun c => c.serial = serial && c.queue = 1 && c.result.isNone

/-- An earlier command of the core's queue POOL that has not reached a chip yet (21 R264). -/
def owesBefore (s : State) (core serial chip : Nat) : Bool :=
  owedFirst (s.core core) 1 serial || ((s.core core).commands.filter fun c => c.queue = 1 && c.serial < serial).any fun c =>
    c.result.isNone &&
      (match c.work, c.plan with
       | .embg _, some p => p.chips.contains chip && !c.listed.contains chip
       | _, _ => true)

/-- An AFTER command waits for its predecessors to publish (21 R241). -/
def poolHeld (s : State) (core : Nat) (c : Command) : Bool :=
  c.after && (headCommand s core 1).map Command.serial ≠ some c.serial

/-- Waits for a migration, or starts it. -/
def poolPage (s : State) (core : Nat) (c : Command) (name : String) (ea : Nat) (p : BitVec 64) (a : Nat) (b : Bool) : Out :=
  match awaitPage s (.command c.serial) core c.ctx (.page ea p a b) with
  | some s => .next s
  | none => .refused (.notEnabled name)

/-! ## Messages of the pooling links (31 R351) -/

/-- The clocks a chip has to answer. -/
def linkLimit : Nat := 2 ^ 24

/-- The module's number of a chip of the partition (01 R20; 31 R351). -/
def chipNumber (s : State) (chip : Nat) : Nat := s.sys.record.chips.getD chip chip

/-- Sends a message over a chip's link under a tag, its payload in beats of 16 bytes. -/
def sendPool (s : State) (op chip tag : Nat) (operand : List Nat) (payload : List Byte) : State :=
  s.emit (.pool { vendor := 0x1F3C, op, chip := chipNumber s chip, tag, len := (payload.length + 15) / 16, operand, payload })

/-- Takes the next tag of a link, which counts from 0 to 4,095 and starts again (DESIGN CHOICE, log 82). -/
def takeTag (s : State) (chip : Nat) : State × Nat :=
  let t := (s.sys.poolTags.get chip).getD 0
  (s.setSys { s.sys with poolTags := s.sys.poolTags.set chip ((t + 1) % 4096) }, t)

/-- Sends a command's request to a chip, which must answer within 2^24 clocks. -/
def askChip (s : State) (core serial op chip : Nat) (operand : List Nat) (payload : List Byte) : State :=
  let (s, tag) := takeTag s chip
  updateCommand (sendPool s op chip tag operand payload) core serial fun c =>
    { c with asked := c.asked.set chip (s.clock + linkLimit), tags := c.tags.set chip tag }

/-- A chip's message of a command under the tag of its request; its time runs anew, or ends with its answer. -/
def chipSends (s : State) (core : Nat) (c : Command) (op chip : Nat) (operand : List Nat) (payload : List Byte)
    (overs : Bool) : State :=
  updateCommand (sendPool s op chip ((c.tags.get chip).getD 0) operand payload) core c.serial fun c =>
    { c with asked := if overs then c.asked.erase chip else c.asked.set chip (s.clock + linkLimit) }

/-- The fields of a descriptor as its 64 bytes (21 R261). -/
def PoolDesc.bytes (d : PoolDesc) : List Byte :=
  natBytes 8 d.tbase.toNat ++ natBytes 4 d.nrows ++
    natBytes 4 (d.rowlen + d.fmt * 2 ^ 16 + d.presort.toNat * 2 ^ 20 + d.weighted.toNat * 2 ^ 21) ++ natBytes 4 d.rstride ++
    natBytes 4 0 ++ natBytes 8 d.idx.toNat ++ natBytes 8 d.offs.toNat ++ natBytes 8 d.wts.toNat ++ natBytes 8 d.out.toNat ++
    natBytes 4 d.nbags ++ natBytes 4 0

/-- The payload of a LIST (21 R262; 31 R351): the descriptor's fields, the offsets, the chip's share of the list, as given
with PRESORT and else sorted without duplicates, and the weights of its positions (their order is a DESIGN CHOICE, log 82). -/
def listPayload (d : PoolDesc) (p : PoolPlan) (chip : Nat) : List Byte :=
  let mine := p.idx.filter fun r => p.chip r = chip
  let share := if d.presort then mine else sortAsc mine
  let weights := ((List.range p.idx.length).filter fun q => p.chip (nth p.idx q) = chip).map fun q => (p.wts.getD q 0#32).toNat
  d.bytes ++ (p.offs ++ share ++ if d.weighted then weights else []).flatMap (natBytes 4)

/-- LIST (21 R262; 31 R351): the batch is checked before its first message; the chip then fetches its distinct rows, each
once, at this instant (29 R343). -/
def execPoolList (core serial chip : Nat) (s : State) : Out :=
  match poolCommand s core serial with
  | none => .refused (.notEnabled "LIST")
  | some c =>
    match c.work with
    | .embg d =>
      if poolHeld s core c then .refused (.notEnabled "LIST")
      else
        let s := if c.plan.isSome then s else noteBatch s core c.ctx d
        match (match c.plan with | some p => Prep.plan p | none => prepare s (.command serial) core c.ctx d) with
        | .page ea p a b => poolPage s core c "LIST" ea p a b
        | .fail st cause ea => .next (updateCommand s core serial fun c => { c with result := some (st, cause, ea) })
        | .plan p =>
          if c.listed.contains chip || !p.chips.contains chip || owesBefore s core serial chip then
            .refused (.notEnabled "LIST")
          else
            let (s, p) := if c.plan.isSome then (s, p) else notePlan s core c.ctx d p
            let mine := p.places.filter fun e => p.chip e.1 = chip
            let rows := mine.foldl (fun (m : Map PoolRow) e =>
              let (bs, bad) := bufferRead s e.2
              m.set e.1 { bytes := bs, poison := bad, forwarded := false }) c.rows
            .next (updateCommand (askChip s core serial 0x01 chip [] (listPayload d p chip)) core serial fun c =>
              { c with plan := some p, started := true, listed := c.listed ++ [chip], rows })
    | _ => .refused (.notEnabled "LIST")

/-- FWD (29 R342; 31 R351): a fetched row goes to the home chips of the bags that use it and lie elsewhere. -/
def execPoolFwd (core serial row : Nat) (s : State) : Out :=
  match poolCommand s core serial with
  | none => .refused (.notEnabled "FWD")
  | some c =>
    match c.work, c.plan, c.rows.get row with
    | .embg d, some p, some r =>
      let away := (List.range d.nbags).filter fun b => (p.rowsOf b).contains row && p.home b ≠ some (p.chip row)
      if r.forwarded || away.isEmpty then .refused (.notEnabled "FWD")
      else
        let s := away.foldl (fun s b =>
          chipSends s core c 0x05 (p.chip row) [chipNumber s ((p.home b).getD 0), b] r.bytes false) s
        .next (updateCommand s core serial fun c => { c with rows := c.rows.set row { r with forwarded := true } })
    | _, _, _ => .refused (.notEnabled "FWD")

/-- Writes a vector to OUT (21 R263), its granules poisoned when a row was; or the cause, or the page it waits for. -/
def writeBag (s : State) (who : Agent) (core ctx : Nat) (d : PoolDesc) (bag : Nat) (v : List Word) (poison : Bool) :
    Except Stop State :=
  let a := va57 (d.out.toNat + 4 * d.rowlen * bag)
  match (engineMeet s core ctx a (4 * d.rowlen)).of s who with
  | .bad c => .error (.cause c a)
  | .park p t b => .error (.page a p t b)
  | .ok _ =>
    let s := (engineWrite s who core ctx a (v.flatMap fun x => natBytes 4 x.toNat)).1
    .ok (if poison then enginePoison s core ctx a (4 * d.rowlen) else s)

/-- VEC (21 R263; 31 R351): the home chip of a bag returns its vector, and Millrace writes it. -/
def execPoolVec (core serial bag : Nat) (s : State) : Out :=
  match poolCommand s core serial with
  | none => .refused (.notEnabled "VEC")
  | some c =>
    match c.work, c.plan with
    | .embg d, some p =>
      match p.home bag with
      | none => .refused (.notEnabled "VEC")
      | some home =>
        let here (row : Nat) : Bool :=
          match c.rows.get row with
          | some r => r.forwarded || p.chip row = home
          | none => false
        if d.nbags ≤ bag || c.bags.contains bag || !((p.rowsOf bag).all here) then .refused (.notEnabled "VEC")
        else
          let (v, bad) := foldBag d p c.rows bag
          match writeBag s (.command serial) core c.ctx d bag v bad with
          | .error (.page ea q a b) => poolPage s core c "VEC" ea q a b
          | .error (.cause x ea) => .next (updateCommand s core serial fun c => { c with result := some (statusOf x, x, ea) })
          | .ok s =>
            .next (updateCommand (chipSends s core c 0x02 home [bag] (v.flatMap fun x => natBytes 4 x.toNat) false) core serial fun c =>
              { c with bags := c.bags ++ [bag] })
    | _, _ => .refused (.notEnabled "VEC")

/-- The status a chip's STAT of an EMBG carries (21 R242), and the command's DUPS (21 R262). -/
def statOf (c : Command) (p : PoolPlan) (chip : Nat) : List Nat :=
  [if c.rows.any fun r => p.chip r.1 = chip && r.2.poison then 2 else 0, p.idx.length - p.places.length]

/-- STAT (31 R351): a chip that has returned the bags it is home to answers with its status; so does the chip of an EMBW
once it has replaced its row. -/
def execPoolStat (core serial chip : Nat) (s : State) : Out :=
  match poolCommand s core serial with
  | none => .refused (.notEnabled "STAT")
  | some c =>
    match c.work, c.plan, c.reply with
    | .embg d, some p, _ =>
      let mine := (List.range d.nbags).filter fun b => p.home b = some chip
      if !c.listed.contains chip || c.answered.contains chip || !(mine.all fun b => c.bags.contains b) then
        .refused (.notEnabled "STAT")
      else
        .next (updateCommand (chipSends s core c 0x03 chip (statOf c p chip) [] true) core serial fun c =>
          { c with answered := c.answered ++ [chip] })
    | .embw _ _ _, _, some (st, cause, ea) =>
      if !c.listed.contains chip then .refused (.notEnabled "STAT")
      else
        .next (updateCommand (chipSends s core c 0x03 chip [st, 0] [] true) core serial fun c =>
          { c with answered := c.answered ++ [chip], result := some (st, cause, ea) })
    | _, _, _ => .refused (.notEnabled "STAT")

/-- Ends an EMBG whose chips have all answered (21 R262, R263): empty bags and DUPS are written; the status. -/
def finishPool (s : State) (core : Nat) (c : Command) (d : PoolDesc) (p : PoolPlan) : Done :=
  let empty := (List.range d.nbags).filter fun b => (p.home b).isNone
  let r := empty.foldl (fun (r : Except (Stop × State) State) b =>
    match r with
    | .error e => .error e
    | .ok s =>
      match writeBag s (.command c.serial) core c.ctx d b (List.replicate d.rowlen 0#32) false with
      | .error e => .error (e, s)
      | .ok s => .ok s) (.ok s)
  let dupsAt := va57 (d.addr.toNat + 0x3C)
  match r with
  | .error (.cause x ea, s) => .ended s (statusOf x) x ea
  | .error (e, _) => .waits e
  | .ok s =>
    match (engineMeet s core c.ctx dupsAt 4).of s (.command c.serial) with
    | .bad x => .ended s (statusOf x) x dupsAt
    | .park q a b => .waits (.page dupsAt q a b)
    | .ok _ =>
      let s := (engineWrite s (.command c.serial) core c.ctx dupsAt (natBytes 4 (p.idx.length - p.places.length))).1
      .ended s (if c.rows.any fun r => r.2.poison then 2 else 0) 0 0

/-! ## EMBW (21 R264) -/

/-- Replaces the bytes of pieces in the buffer's memory in one step, and invalidates their L2 lines: what the lines hold
beside the row is written back first, since no rule discards it (DEDUCED, log 22). -/
def replaceRow (s : State) (ps : List (Nat × Nat)) (bs : List Byte) : State :=
  let inRow (a : Nat) : Bool := ps.any fun p => p.1 ≤ a && a < p.1 + p.2
  let inLines (a : Nat) : Bool := ps.any fun p => p.1 / 128 ≤ a / 128 && a / 128 ≤ (p.1 + p.2 - 1) / 128
  let m := s.mem.flushL2 fun a => inLines a && !inRow a
  let m := { m with l2 := m.l2.filter fun e => !inRow e.1 }
  let addrs := ps.flatMap fun p => (List.range p.2).map fun k => p.1 + k
  let m := { m with ram := (addrs.zip bs).foldl (fun r e => r.write e.1 e.2) m.ram }
  s.setMem (ps.foldl (fun m p => m.unpoison p.1 p.2) m)

/-- REPL (21 R264; 31 R351): the row goes to its chip, which replaces it in one step at its buffer and then answers; a
poisoned source poisons it. -/
def execPoolRepl (core serial : Nat) (s : State) : Out :=
  match poolCommand s core serial with
  | none => .refused (.notEnabled "REPL")
  | some c =>
    match c.work with
    | .embw d row src =>
      let n := poolRowBytes d
      let ended (st cause ea : Nat) : Out :=
        .next (updateCommand s core serial fun c => { c with started := true, result := some (st, cause, ea) })
      if poolHeld s core c || c.started then .refused (.notEnabled "REPL")
      else if d.nrows ≤ row then ended 4 0 0
      else
        match rowPieces s core c.ctx (rowAddress d row) n .store with
        | .error cause => ended (statusOf cause) cause (rowAddress d row)
        | .ok ps =>
          match scratchAt s c.team src.toNat n with
          | none => ended 1 0x046 src.toNat
          | some k =>
            let at' := (ps.map Prod.fst).headD (2 ^ 40)
            let chip := chipOf at'
            if owesBefore s core serial chip then .refused (.notEnabled "REPL")
            else
              let bad := s.mem.scratchPoisoned k n
              let s := noteRange s core c.ctx (rowAddress d row) n true
              let bs := scratchSeen s c.team k n
              let s := replaceRow s ps bs
              let s := if bad then s.setMem (ps.foldl (fun m p => (List.range (p.2 / 16 + 2)).foldl (fun m j =>
                  let g := p.1 / 16 + j
                  if 16 * g < p.1 + p.2 then m.poisonSet g else m) m) s.mem) else s
              let s := askChip s core serial 0x04 chip [at' - 2 ^ 40 - chip * 2 ^ 39] bs
              .next (updateCommand s core serial fun c =>
                { c with started := true, listed := [chip], reply := some (if bad then 2 else 0, 0, 0) })
    | _ => .refused (.notEnabled "REPL")

/-- A chip has let its time pass. -/
def Command.late (c : Command) (clock : Nat) : Bool :=
  c.queue = 1 && c.result.isNone && c.asked.any fun e => e.2 ≤ clock

/-- POOL_LINK_TIMEOUT (31 R351): the first command with a chip that has given no answer within 2^24 clocks ends with LINK;
so does a maintenance request (DEDUCED, log 81). -/
def execPoolLinkTimeout (s : State) : Out :=
  match s.cores.findSome? fun e => (e.2.commands.find? fun c => c.late s.clock).map fun c => (e.1, c.serial) with
  | some (core, serial) => .next (updateCommand s core serial fun c => { c with result := some (6, 0x0C9, 0) })
  | none =>
    if (s.sys.pbmPhase = 2 || s.sys.pbmPhase = 3) && s.sys.pbmTill ≤ s.clock then
      .next (s.setSys { s.sys with pbmPhase := 4, pbmStatus := 6 })
    else .refused (.notEnabled "POOL_LINK_TIMEOUT")

/-! ## Maintenance (31 R352) -/

/-- The base of the maintenance range and its bytes; none when it leaves the chip or the chip is not the partition's. -/
def pbmRange (d : SysDie) : Option (Nat × Nat) :=
  let off := d.pbmOff.toNat / 4096 * 4096
  let n := d.pbmPages.toNat * 4096
  if d.pbmChip.toNat < d.record.chips.length && off + n ≤ 2 ^ 39 then some (2 ^ 40 + d.pbmChip.toNat * 2 ^ 39 + off, n)
  else none

/-- MAINT (31 R351): the posted request goes to its chip, with the operation, offset and length of R352. -/
def execPoolMaint (s : State) : Out :=
  if s.sys.pbmPhase ≠ 1 then .refused (.notEnabled "MAINT")
  else
    let chip := s.sys.pbmChip.toNat
    let (s, tag) := takeTag s chip
    let s := sendPool s 0x06 chip tag [s.sys.pbmOp.toNat, s.sys.pbmOff.toNat / 4096 * 4096, s.sys.pbmPages.toNat] []
    .next (s.setSys { s.sys with pbmPhase := 2, pbmAt := 0, pbmTag := tag, pbmTill := s.clock + linkLimit })

/-- SCRUB (31 R352): uncorrectable granules stay or become poisoned; finding one gives POISON. -/
def execPoolScrub (s : State) : Out :=
  if s.sys.pbmPhase ≠ 2 || s.sys.pbmOp.toNat ≠ 0 then .refused (.notEnabled "SCRUB")
  else
    match pbmRange s.sys with
    | none => .next (s.setSys { s.sys with pbmPhase := 3, pbmStatus := 1 })
    | some (a, n) =>
      let bad := s.mem.poison.any fun g => a ≤ 16 * g.1 && 16 * g.1 < a + n
      .next (s.setSys { s.sys with pbmPhase := 3, pbmStatus := if bad then 2 else 0 })

/-- Every byte of a range becomes 0 in the buffer's memory, without poison and with no copy in L2. -/
def zeroRange (m : MemSys) (a n : Nat) : MemSys :=
  let inRange (x : Nat) : Bool := a ≤ x && x < a + n
  { m with ram := m.ram.filter fun e => !inRange e.1, l2 := m.l2.filter fun e => !inRange e.1
           poison := m.poison.filter fun e => !inRange (16 * e.1) }

/-- ZERO (31 R352): the next 4 KiB block of the range is replaced by zeros in one step, as a row is (29 R343); its lines in
L2 are invalidated as those of a replaced row are (21 R264; DEDUCED, log 66). -/
def execPoolZero (s : State) : Out :=
  if s.sys.pbmPhase ≠ 2 || s.sys.pbmOp.toNat ≠ 1 then .refused (.notEnabled "ZERO")
  else
    match pbmRange s.sys with
    | none => .next (s.setSys { s.sys with pbmPhase := 3, pbmStatus := 1 })
    | some (a, n) =>
      let k := s.sys.pbmAt
      let overs := n ≤ 4096 * (k + 1)
      let s := if 4096 * k < n then s.setMem (zeroRange s.mem (a + 4096 * k) 4096) else s
      .next (s.setSys { s.sys with pbmAt := k + 1, pbmPhase := if overs then 3 else 2, pbmStatus := 0 })

/-- MDONE (31 R351): the chip reports the status. -/
def execPoolMdone (s : State) : Out :=
  if s.sys.pbmPhase ≠ 3 then .refused (.notEnabled "MDONE")
  else
    let s := sendPool s 0x07 s.sys.pbmChip.toNat s.sys.pbmTag [s.sys.pbmStatus] []
    .next (s.setSys { s.sys with pbmPhase := 4 })

/-- MAINTENANCE_DONE (31 R352): the completion word is written at its physical address, a release at system scope that
knows of no scratchpad write, and GO reads 0. -/
def execMaintenanceDone (s : State) : Out :=
  if s.sys.pbmPhase ≠ 4 then .refused (.notEnabled "MAINTENANCE_DONE")
  else
    let a := s.sys.pbmDone.toNat / 8 * 8
    let word := completionWord 0x21 s.sys.pbmStatus s.sys.pbmSeq
    let s' := s.setSys { s.sys with pbmPhase := 0, pbmGo := false }
    match s.sys.target a with
    | .hbm | .capacity | .fabric =>
      .next (if s.mem.isRevoked a then s'
        else carry (storePhysical s' dispCore a (natBytes 8 word)) { sig := BitVec.allOnes 512, know := [] } a)
    | _ => .next s'

end Sys2Proof.Machine
end

