-- ==== Sys2Proof/Machine/Publish.lean ====
section
/-! DEFINITION. The publication of Millrace commands (21 R241, R242). -/

namespace Sys2Proof.Machine

/-- How the work of the oldest command of a queue ends; none while its messages or its job are not over. -/
def workDone (s : State) (core : Nat) (c : Command) : Option Done :=
  match c.result with
  | some (st, cause, ea) => some (.ended s st cause ea)
  | none =>
    match c.work with
    | .embg d =>
      (match (match c.plan with | some p => Prep.plan p | none => prepare s (.command c.serial) core c.ctx d) with
       | .page ea p a b => some (.waits (.page ea p a b))
       | .fail st cause ea => some (.ended s st cause ea)
       | .plan p => if p.chips.all fun x => c.answered.contains x then some (finishPool s core c d p) else none)
    | .embw _ _ _ => none
    | .sjob _ _ _ => none
    | _ => some (performWork s core c)

/-- MILLRACE_PUBLISH (21 R241): the oldest command of queue COPY, POOL or STACK finishes and publishes. A ring copy has
claimed its slot; pooling and jobs end by their own messages, and a job whose card's page has arrived is handed over (21
R265). -/
def execMillracePublish (core queue : Nat) (s : State) : Out :=
  let wait : Out := .refused (.notEnabled "MILLRACE_PUBLISH")
  let page (c : Command) (e : Stop) : Out :=
    match awaitPage s (.command c.serial) core c.ctx e with
    | some s => .next s
    | none => wait
  match headCommand s core queue with
  | none => wait
  | some c =>
    if 2 < queue || ((ringOfWork c.work).isSome && c.claimed.isNone) then wait
    else if queue = 2 then
      if c.result.isSome then .next (handJobs (publishStack s core 1024) core 1024)
      else match handJob s core with
        | some s => .next s
        | none => wait
    else
      match wordPage s core c with
      | some (ea, p, a, b) => page c (.page ea p a b)
      | none =>
        match workDone s core c with
        | none => wait
        | some (.waits e) => page c e
        | some (.ended s st cause ea) => .next (publish s core c 0x10 st cause ea (failedStatus st))

end Sys2Proof.Machine
end

