-- ==== Sys2Proof/Machine/Registers.lean ====
section
/-! DEFINITION. The device registers: what each block's registers read and what a write sets (00 R5; 03 R33; 11 R133,
R138, R155; 27 R318; 31 R346, R347, R352, R353, R356). -/

namespace Sys2Proof.Machine

/-! ## Places -/

/-- A register slot: 8 bytes at an 8-byte aligned physical address. -/
inductive RegSlot where
  /-- submission ring n, offset within its registers (03 R33) -/
  | ring (n off : Nat)
  | queue (n off : Nat)
  | context (n off : Nat)
  /-- reducing window w of context n (11 R155) -/
  | window (n w off : Nat)
  /-- event registers of context n (27 R318) -/
  | event (n off : Nat)
  /-- fault unit of die d (11 R138) -/
  | fault (d off : Nat)
  | flush (off : Nat)
  | health (off : Nat)
  | pooling (off : Nat)
  deriving DecidableEq, Repr

/-- The slot at an 8-byte aligned address of the system region; none outside the register blocks (31 R346). -/
def regSlot (d : SysDie) (pa : Nat) : Option RegSlot :=
  let base := 0xF000000000000
  if pa < base then none
  else
    let o := pa - base
    if o < 0x10000 then
      (if o < 0x200 then some (.ring (o / 0x20) (o % 0x20))
       else if 0x1000 ≤ o && o < 0x1800 then some (.queue ((o - 0x1000) / 0x20) (o % 0x20))
       else if 0x2000 ≤ o && o < 0x2400 then some (.context ((o - 0x2000) / 0x40) (o % 0x40))
       else if 0x3000 ≤ o && o < 0x3800 then some (.window ((o - 0x3000) / 0x80) (o % 0x80 / 0x20) (o % 0x20))
       else if 0x4000 ≤ o && o < 0x4400 then some (.event ((o - 0x4000) / 0x40) (o % 0x40))
       else none)
    else if o < 0x50000 then
      (let die := o / 0x10000 - 1
       if die < d.dies then some (.fault die (o % 0x10000)) else none)
    else if o < 0x60000 then some (.flush (o - 0x50000))
    else if o < 0x70000 then some (.health (o - 0x60000))
    else if o < 0x80000 then some (.pooling (o - 0x70000))
    else none

/-- A bit as a number. -/
def bitNat (b : Bool) : Nat := if b then 1 else 0

/-! ## What registers read (00 R5) -/

/-- Spare cores left in the partition: the clusters none of whose cores is retired (01 R12; 31 R356). -/
def spareCores (d : SysDie) : Nat :=
  ((List.range (4 * d.dies)).filter fun c =>
    !((List.range 17).any fun s => ((d.phys.get (c * 17 + s)).map PhysCore.retired).getD false)).length

/-- Spare L2 slices left on a die, of 8 (01 R12). -/
def slicesLeft (d : SysDie) (die : Nat) : Nat := (d.slices.get die).getD 8

/-- HEALTH (31 R356). -/
def healthWord (d : SysDie) : Nat :=
  let any := d.tshare || d.l2spare || d.hbmspare || d.cerate || d.replace
  bitNat any + 2 * bitNat d.tshare + 4 * bitNat d.l2spare + 8 * bitNat d.hbmspare + 16 * bitNat d.cerate +
    32 * bitNat d.ready + d.stage.toNat * 2 ^ 8 + spareCores d % 32 * 2 ^ 16 +
    (((List.range d.dies).map fun k => slicesLeft d k).foldl (· + ·) 0) % 64 * 2 ^ 24

/-- The 64 bits of a register slot. -/
def readSlot (s : State) : RegSlot → Nat
  | .ring n off =>
    let r := s.subRing n
    (if off = 0 then r.base.toNat / 4096 * 4096
     else if off = 8 then r.log.toNat
     else if off = 0x10 then r.head.toNat + r.tail.toNat * 2 ^ 32
     else bitNat r.en + 2 * bitNat r.overrun + 4 * bitNat r.rdfault + 16 * r.ctx.toNat)
  | .queue n off =>
    let q := s.queue n
    (if off = 0 then q.ctx.toNat + 16 * q.cls.toNat + 64 * bitNat q.en + 128 * bitNat q.fault + 256 * bitNat q.budget
     else if off = 8 then q.bload.toNat else if off = 0x10 then q.brem.toNat else 0)
  | .context n off =>
    let c := s.context n
    (if off = 0 then bitNat c.preempt + 2 * bitNat c.resume + 4 * bitNat c.stopped + 8 * bitNat c.reset
     else if off = 8 then c.dl.toNat
     else if off = 0x10 then c.save.toNat / 64 * 64
     else if off = 0x18 then c.slim.toNat / 64 * 64
     else if off = 0x20 then c.hart.toNat + c.id.toNat * 2 ^ 12
     else if off = 0x28 then c.ppn.toNat + c.asid.toNat * 2 ^ 44 + c.mode.toNat * 2 ^ 60
     else 0)
  | .window n k off =>
    let x := (s.context n).window k
    (if off = 0 then x.base.toNat / 4096 * 4096
     else if off = 8 then x.log.toNat + x.op.toNat * 2 ^ 8 + bitNat x.en * 2 ^ 15 else 0)
  | .event n off =>
    let c := s.context n
    (if off = 0 then bitNat c.hen + c.hbase.toNat / 2 * 2
     else if off = 8 then c.evbase.toNat / 4096 * 4096
     else if off = 0x10 then c.evlog.toNat + bitNat c.evlost * 2 ^ 16
     else if off = 0x18 then c.evhead.toNat + c.evtail.toNat * 2 ^ 32
     else if off = 0x20 then c.rval.toNat
     else if off = 0x28 then c.resIdx.toNat + bitNat c.resKill * 2 ^ 32
     else 0)
  | .fault d off =>
    let u := s.faultUnit d
    (if off < 0x60 then
       let r := u.ring (off / 0x20)
       let o := off % 0x20
       if o = 0 then r.base.toNat / 4096 * 4096
       else if o = 8 then r.log.toNat
       else if o = 0x10 then r.head.toNat + r.tail.toNat * 2 ^ 32
       else 0
     else if off = 0x60 then min 1024 u.migrations.length + bitNat u.starved * 2 ^ 16 + bitNat u.donefull * 2 ^ 17
     else if off = 0x68 then u.hart.toNat + u.id.toNat * 2 ^ 12
     else 0)
  | .flush off =>
    let d := s.sys
    (if off = 0 then d.flushBase.toNat / 4096 * 4096
     else if off = 8 then d.flushPages.toNat
     else if off = 0x10 then bitNat d.flushGo + 2 * bitNat d.flushDone
     else if off = 0x18 then s.mem.revoked.length
     else if 0x100 ≤ off && off < 0x500 then
       (match s.mem.revoked[(off - 0x100) / 16]? with
        | some e => if off % 16 = 0 then e.1 else e.2 / 4096 - 1
        | none => 0)
     else 0)
  | .health off =>
    (if off = 0 then healthWord s.sys
     else if off = 8 then (s.sys.cecnt.zip (List.range 4)).foldl (fun v e => v + e.1 * 2 ^ (16 * e.2)) 0
     else if off = 0x10 then s.sys.hlthHart.toNat + s.sys.hlthId.toNat * 2 ^ 12
     else 0)
  | .pooling off =>
    let d := s.sys
    (if off = 0 then d.pbmOff.toNat / 4096 * 4096
     else if off = 8 then d.pbmPages.toNat
     else if off = 0x10 then d.pbmChip.toNat + 16 * d.pbmOp.toNat + 256 * bitNat d.pbmGo
     else if off = 0x18 then d.pbmDone.toNat / 8 * 8
     else if off = 0x20 then d.pbmSeq.toNat
     else 0)

/-! ## What a write sets (00 R5) -/

/-- A write to a slot: the value, and whether it writes the low and the high word. -/
structure RegWrite where
  v : Nat
  lo : Bool
  hi : Bool

/-- The field of bits hi to lo after a write: a field keeps the bits of a word that is not written. -/
def RegWrite.field (x : RegWrite) (hi lo old : Nat) : Nat :=
  let n := hi + 1 - lo
  (List.range n).foldl (fun a k =>
    let written := if lo + k < 32 then x.lo else x.hi
    let src := if written then x.v / 2 ^ (lo + k) % 2 else old / 2 ^ k % 2
    a + src * 2 ^ k) 0

def RegWrite.flag (x : RegWrite) (bit : Nat) (old : Bool) : Bool := x.field bit bit (bitNat old) = 1

/-- A W1C bit (00 R5). -/
def RegWrite.clear (x : RegWrite) (bit : Nat) (old : Bool) : Bool :=
  old && !((if bit < 32 then x.lo else x.hi) && x.v / 2 ^ bit % 2 = 1)

/-- Writes an address field kept at its own bits. -/
def RegWrite.addr (x : RegWrite) (hi lo old : Nat) : Nat := x.field hi lo (old / 2 ^ lo) * 2 ^ lo

/-- Ring registers: SRHEAD has a row of its own (03 R33, R35). -/
def writeRing (s : State) (n off : Nat) (x : RegWrite) : State :=
  let r := s.subRing n
  if off = 0 then s.setSubRing n { r with base := BitVec.ofNat 57 (x.addr 56 12 r.base.toNat) }
  else if off = 8 then s.setSubRing n { r with log := BitVec.ofNat 4 (x.field 3 0 r.log.toNat) }
  else if off = 0x18 then
    s.setSubRing n { r with en := x.flag 0 r.en, overrun := x.clear 1 r.overrun, rdfault := x.clear 2 r.rdfault
                            ctx := BitVec.ofNat 4 (x.field 7 4 r.ctx.toNat) }
  else s

/-- Job-queue registers: JQBLOAD has a row of its own (03 R33, R38). -/
def writeQueue (s : State) (n off : Nat) (x : RegWrite) : State :=
  let q := s.queue n
  if off = 0 then
    s.setQueue n { q with ctx := BitVec.ofNat 4 (x.field 3 0 q.ctx.toNat), cls := BitVec.ofNat 2 (x.field 5 4 q.cls.toNat)
                          en := x.flag 6 q.en, fault := x.clear 7 q.fault, budget := x.flag 8 q.budget }
  else s

/-- CTXCTL (03 R33, R49, R52): each 1 acts on its bit, RESET first, then PREEMPT, then RESUME (log 60); a 0 leaves a
request as it stands. -/
def writeCtl (s : State) (n : Nat) (x : RegWrite) : State :=
  let c := s.context n
  let s := s.setContext n { c with reset := x.clear 3 c.reset }
  let s := if x.flag 0 false then preemptContext s n else s
  if x.flag 1 false then resumeContext s n else s

/-- Context registers (03 R33; 11 R133). -/
def writeContext (s : State) (n off : Nat) (x : RegWrite) : State :=
  let c := s.context n
  if off = 0 then writeCtl s n x
  else if off = 8 then s.setContext n { c with dl := BitVec.ofNat 32 (x.field 31 0 c.dl.toNat) }
  else if off = 0x10 then s.setContext n { c with save := BitVec.ofNat 57 (x.addr 56 6 c.save.toNat) }
  else if off = 0x18 then s.setContext n { c with slim := BitVec.ofNat 57 (x.addr 56 6 c.slim.toNat) }
  else if off = 0x20 then
    s.setContext n { c with hart := BitVec.ofNat 12 (x.field 11 0 c.hart.toNat)
                            id := BitVec.ofNat 12 (x.field 23 12 c.id.toNat) }
  else if off = 0x28 then
    let mode := x.field 63 60 c.mode.toNat
    s.setContext n { c with ppn := BitVec.ofNat 44 (x.field 43 0 c.ppn.toNat)
                            asid := BitVec.ofNat 16 (x.field 59 44 c.asid.toNat)
                            mode := if mode = 10 then 10 else c.mode }
  else s

/-- Reducing-window registers (11 R155). -/
def writeWindow (s : State) (n k off : Nat) (x : RegWrite) : State :=
  let c := s.context n
  let old := c.window k
  let put (y : Window) : State := s.setContext n { c with windows := c.windows.set k y }
  if off = 0 then put { old with base := BitVec.ofNat 57 (x.addr 56 12 old.base.toNat) }
  else if off = 8 then
    put { old with log := BitVec.ofNat 5 (x.field 4 0 old.log.toNat), op := BitVec.ofNat 2 (x.field 9 8 old.op.toNat)
                   en := x.flag 15 old.en }
  else s

/-- Event registers: CTXRES has a row of its own (27 R318). -/
def writeEventReg (s : State) (n off : Nat) (x : RegWrite) : State :=
  let c := s.context n
  if off = 0 then s.setContext n { c with hen := x.flag 0 c.hen, hbase := BitVec.ofNat 57 (x.addr 56 1 c.hbase.toNat) }
  else if off = 8 then s.setContext n { c with evbase := BitVec.ofNat 52 (x.addr 51 12 c.evbase.toNat) }
  else if off = 0x10 then
    s.setContext n { c with evlog := BitVec.ofNat 4 (x.field 3 0 c.evlog.toNat), evlost := x.clear 16 c.evlost }
  else if off = 0x18 then s.setContext n { c with evtail := BitVec.ofNat 32 (x.field 63 32 c.evtail.toNat) }
  else if off = 0x20 then s.setContext n { c with rval := BitVec.ofNat 32 (x.field 31 0 c.rval.toNat) }
  else s

/-- Fault-unit registers: the heads of rings 0 and 1 have a row of their own (11 R138; 31 R347). -/
def writeFault (s : State) (d off : Nat) (x : RegWrite) : State :=
  let u := s.faultUnit d
  if off < 0x60 then
    let n := off / 0x20
    let o := off % 0x20
    let r := u.ring n
    let put (y : FaultRing) : State := s.setFaultUnit d { u with rings := u.rings.set n y }
    if o = 0 then put { r with base := BitVec.ofNat 52 (x.addr 51 12 r.base.toNat) }
    else if o = 8 then put { r with log := BitVec.ofNat 4 (x.field 3 0 r.log.toNat) }
    else if o = 0x10 && n = 2 then put { r with tail := BitVec.ofNat 32 (x.field 63 32 r.tail.toNat) }
    else s
  else if off = 0x60 then
    s.setFaultUnit d { u with starved := x.clear 16 u.starved, donefull := x.clear 17 u.donefull }
  else if off = 0x68 then
    s.setFaultUnit d { u with hart := BitVec.ofNat 12 (x.field 11 0 u.hart.toNat)
                              id := BitVec.ofNat 12 (x.field 23 12 u.id.toNat) }
  else s

/-- Flush registers: L2FCMD and REVCLR have rows of their own (31 R353). -/
def writeFlush (s : State) (off : Nat) (x : RegWrite) : State :=
  let d := s.sys
  if off = 0 then s.setSys { d with flushBase := BitVec.ofNat 52 (x.addr 51 12 d.flushBase.toNat) }
  else if off = 8 then s.setSys { d with flushPages := BitVec.ofNat 32 (x.field 31 0 d.flushPages.toNat) }
  else s

/-- Health registers (31 R356). -/
def writeHealth (s : State) (off : Nat) (x : RegWrite) : State :=
  let d := s.sys
  if off = 0x10 then
    s.setSys { d with hlthHart := BitVec.ofNat 12 (x.field 11 0 d.hlthHart.toNat)
                      hlthId := BitVec.ofNat 12 (x.field 23 12 d.hlthId.toNat) }
  else s

/-- Pooling maintenance registers: a write of PBMCMD while busy is ignored; GO with a reserved OP starts nothing
(31 R352). -/
def writePooling (s : State) (off : Nat) (x : RegWrite) : State :=
  let d := s.sys
  if off = 0 then s.setSys { d with pbmOff := BitVec.ofNat 39 (x.addr 38 12 d.pbmOff.toNat) }
  else if off = 8 then s.setSys { d with pbmPages := BitVec.ofNat 27 (x.field 26 0 d.pbmPages.toNat) }
  else if off = 0x10 then
    if d.pbmGo then s
    else
      let op := x.field 5 4 d.pbmOp.toNat
      let go := x.flag 8 false && op < 2
      s.setSys { d with pbmChip := BitVec.ofNat 3 (x.field 2 0 d.pbmChip.toNat), pbmOp := BitVec.ofNat 2 op
                        pbmGo := go, pbmPhase := if go then 1 else 0 }
  else if off = 0x18 then s.setSys { d with pbmDone := BitVec.ofNat 52 (x.addr 51 3 d.pbmDone.toNat) }
  else if off = 0x20 then s.setSys { d with pbmSeq := BitVec.ofNat 48 (x.field 47 0 d.pbmSeq.toNat) }
  else s

/-- Writes a slot; RO fields and reserved bits ignore it (00 R5). -/
def writeSlot (s : State) (x : RegWrite) : RegSlot → State
  | .ring n off => writeRing s n off x
  | .queue n off => writeQueue s n off x
  | .context n off => writeContext s n off x
  | .window n k off => writeWindow s n k off x
  | .event n off => writeEventReg s n off x
  | .fault d off => writeFault s d off x
  | .flush off => writeFlush s off x
  | .health off => writeHealth s off x
  | .pooling off => writePooling s off x

/-- A write that another row of the table performs: SRHEAD, JQBLOAD, FURHEAD, CTXRES, L2FCMD and REVCLR. -/
def ownRow (x : RegWrite) : RegSlot → Bool
  | .ring _ 0x10 => x.lo
  | .queue _ 8 => true
  | .event _ 0x28 => true
  | .fault _ off => off < 0x60 && off / 0x20 < 2 && off % 0x20 = 0x10 && x.lo
  | .flush off => off = 0x10 || off = 0x20
  | _ => false

/-- REGISTER_WRITE (00 R5; 31 R346, R354): a write of 4 or 8 bytes, aligned to its width, to a register block, by a hart at
supervisor privilege. -/
def execRegisterWrite (pa width : Nat) (v : BitVec 64) (s : State) : Out :=
  if !s.sys.ready || !(width = 4 || width = 8) || pa % width ≠ 0 then .refused (.notEnabled "REGISTER_WRITE")
  else
    let high := pa % 8 = 4
    let x : RegWrite :=
      { v := if high then v.toNat % 2 ^ 32 * 2 ^ 32 else v.toNat, lo := !high, hi := high || width = 8 }
    match regSlot s.sys (pa / 8 * 8) with
    | none => .refused (.notEnabled "REGISTER_WRITE")
    | some r => if ownRow x r then .refused (.notEnabled "REGISTER_WRITE") else .next (writeSlot s x r)

/-- The value a load of n bytes at a physical address of a register block reads (00 R5). -/
def readRegister (s : State) (pa n : Nat) : Option Nat :=
  (regSlot s.sys (pa / 8 * 8)).map fun r => readSlot s r / 2 ^ (8 * (pa % 8)) % 2 ^ (8 * n)

end Sys2Proof.Machine
end

