-- ==== Sys2Proof/Machine/System.lean ====
section
/-! DEFINITION. The system die's traffic: TLB invalidation, the L2 flush, revoked ranges, PCIe requests and the accesses
of the Umadioz harts (11 R137, R159, R160; 31 R344 to R353). -/

namespace Sys2Proof.Machine

/-! ## Invalidation (11 R137; 31 R345) -/

/-- Performs at their homes the stores that went through TLB entries: those dirty in an L1 and those a Sluice holds
(11 R137). -/
def performThrough (s : State) (es : List TlbEntry) : State :=
  let hit (pa : Nat) : Bool := es.any fun e =>
    let p := leafPa e.pte e.log e.base
    p ≤ pa && pa < p + 2 ^ e.log
  let l1s := dedup [] (s.mem.l1.map fun e => e.1 / 2 ^ 52)
  let sluices := dedup [] (s.mem.sluice.map SluiceEntry.core)
  let s := sluices.foldl (fun s c => sendEntries s c fun e => hit (128 * e.line)) s
  s.setMem (l1s.foldl (fun m c => m.flushL1 c hit) s.mem)

/-- The entries a test names leave every TLB, once the accesses that used them are performed. -/
def invalidate (s : State) (named : TlbEntry → Bool) : State :=
  let s := performThrough s (s.mem.tlb.filter named)
  s.setMem { s.mem with tlb := s.mem.tlb.filter fun e => !named e }

/-- An access that used a named entry has not been performed yet: a row of a posted EMBG not yet fetched, or a row of a
running bank-unit sequence (11 R137; 21 R262; 29 R339). -/
def usesPending (s : State) (named : TlbEntry → Bool) : Bool :=
  (s.cores.any fun e => e.2.commands.any fun c =>
    c.result.isNone && (match c.plan with
      | some p => p.used.any fun u => named u.2 && !c.listed.contains (p.chip u.1)
      | none => false)) ||
    s.near.sequences.any fun q => !q.finished && q.used.any named

/-- A fence that names entries completes once the accesses that used them have been performed (11 R137). -/
def fenceBy (name : String) (s : State) (named : TlbEntry → Bool) : Out :=
  byHart name s (if usesPending s named then .refused (.notEnabled name) else .next (invalidate s named))

/-- SFENCE_VMA (11 R137): the entries the operands name leave every TLB; with an ASID, global entries may stay. -/
def execSfenceVma (va asid : Option Nat) (s : State) : Out :=
  let named (e : TlbEntry) : Bool :=
    (match va with | some v => e.base ≤ v % 2 ^ 57 && v % 2 ^ 57 < e.base + 2 ^ e.log | none => true) &&
      (match asid with | some a => e.asid = a && !pteBit e.pte 5 | none => true)
  fenceBy "SFENCE_VMA" s named

/-- HFENCE (31 R345): every entry leaves, whatever the operands. -/
def execHfence (s : State) : Out := fenceBy "HFENCE" s fun _ => true

/-! ## The L2 flush (31 R353) -/

/-- L2_FLUSH (31 R353): a write of L2FCMD; while busy it is ignored. -/
def execL2Flush (v : Word) (s : State) : Out :=
  byHart "L2_FLUSH" s (.next (if s.sys.flushGo then s
    else s.setSys { s.sys with flushGo := v.getLsbD 0, flushDone := s.sys.flushDone && !v.getLsbD 1 }))

/-- L2_FLUSH_DONE (31 R347, R353): the dirty lines of the range are written back, DONE is set and a message sent. -/
def execL2FlushDone (s : State) : Out :=
  if !s.sys.flushGo then .refused (.notEnabled "L2_FLUSH_DONE")
  else
    let a := s.sys.flushBase.toNat / 4096 * 4096
    let n := s.sys.flushPages.toNat * 4096
    let s := s.setMem (s.mem.flushL2 fun x => a / 128 ≤ x / 128 && x < a + n)
    let s := s.setSys { s.sys with flushGo := false, flushDone := true }
    .next (sendMsi s s.sys.hlthHart.toNat s.sys.hlthId.toNat)

/-! ## Revoked ranges (11 R159, R160; 31 R353) -/

/-- REVCLR (31 R353). -/
def execRevclr (v : Word) (s : State) : Out :=
  byHart "REVCLR" s (.next (if v.getLsbD 0 then s.setMem { s.mem with revoked := [] } else s))

/-- Joins neighbours of an ascending list of ranges that touch. -/
def joinRanges : List (Nat × Nat) → List (Nat × Nat)
  | [] => []
  | r :: rest =>
    match joinRanges rest with
    | [] => [r]
    | q :: qs => if q.1 ≤ r.1 + r.2 then (r.1, max (r.1 + r.2) (q.1 + q.2) - r.1) :: qs else r :: q :: qs

/-- The least gap between neighbours. -/
def leastGap : List (Nat × Nat) → Option Nat
  | r :: q :: qs =>
    let g := q.1 - (r.1 + r.2)
    (match leastGap (q :: qs) with | some x => some (min g x) | none => some g)
  | _ => none

/-- Joins the first neighbours whose gap is g, with the gap between them. -/
def joinGap (g : Nat) : List (Nat × Nat) → List (Nat × Nat)
  | r :: q :: qs =>
    if q.1 - (r.1 + r.2) = g then (r.1, q.1 + q.2 - r.1) :: qs else r :: joinGap g (q :: qs)
  | rs => rs

/-- Inserts a range by its base. -/
def insertRange (r : Nat × Nat) : List (Nat × Nat) → List (Nat × Nat)
  | [] => [r]
  | q :: qs => if r.1 ≤ q.1 then r :: q :: qs else q :: insertRange r qs

/-- Enters a page in the revoked-range table: adjacent ranges merge, and a full table merges its two closest ranges. -/
def revokePage (rs : List (Nat × Nat)) (page : Nat) : List (Nat × Nat) :=
  let rs := joinRanges (insertRange (page * 4096, 4096) rs)
  if rs.length ≤ 64 then rs else (match leastGap rs with | some g => joinGap g rs | none => rs)

/-- Removes a range from a list of ranges. -/
def cutExtents (ds : List Extent) (base size : Nat) : List Extent :=
  ds.flatMap fun d =>
    let e := d.base + d.size
    if base + size ≤ d.base || e ≤ base then [d]
    else
      (if d.base < base then [{ base := d.base, size := base - d.base }] else []) ++
        (if base + size < e then [{ base := base + size, size := e - (base + size) }] else [])

/-- The parts of a range that the decoders map. -/
def mappedParts (ds : List Decoder) (base size : Nat) : List Extent :=
  ds.filterMap fun d =>
    let a := max d.base base
    let e := min (d.base + d.size) (base + size)
    if a < e then some { base := a, size := e - a } else none

/-- A decoder maps part of a range. -/
def SysDie.mapsPart (d : SysDie) (base size : Nat) : Bool :=
  d.decoders.any fun x => x.base < base + size && base < x.base + x.size

/-- An extent leaves the decoders (11 R159): what L2 still holds of it dirty is dropped, and each page that held such a line is
revoked; only then is there an event, since a flushed release leaves no dirty line. -/
def releaseExtent (s : State) (base size : Nat) (forced : Bool) : State :=
  let inside (a : Nat) : Bool := base ≤ a && a < base + size
  let pages := sortAsc ((s.mem.l2.filter fun e => inside e.1).map fun e => e.1 / 4096)
  let s := s.setMem { s.mem with l2 := s.mem.l2.filter fun e => !inside e.1
                                 revoked := pages.foldl revokePage s.mem.revoked }
  let s := s.setSys { s.sys with extents := cutExtents s.sys.extents base size
                                 departed := cutExtents s.sys.departed base size ++ mappedParts s.sys.decoders base size }
  if !forced && pages.isEmpty then s
  else
    let hit := (List.range 16).filter fun c => s.teams.any fun t => t.2.ctx = c
    let s := hit.foldl (fun s c => contextEvent s c 0x144 0 0 0) s
    sendMsi s s.sys.hlthHart.toNat s.sys.hlthId.toNat

/-- EXTENT_FORCED_RELEASE (11 R159): the extent leaves the decoders unflushed. -/
def execExtentForcedRelease (base size : Nat) (s : State) : Out :=
  if !s.sys.mapsPart base size then .refused (.notEnabled "EXTENT_FORCED_RELEASE")
  else .next (releaseExtent s base size true)

/-- A hart commits a decoder of a host port of the partition, of its 8 (31 R350; as an operation of the hart, log 30). -/
def commitDecoder (s : State) (x : Decoder) : State :=
  if s.sys.record.hosts.contains x.port && x.n < 8 && 2 ^ 48 ≤ x.base && x.base + x.size ≤ 2 ^ 49 then
    s.setSys { s.sys with decoders := x :: s.sys.decoders.filter fun d => !(d.port = x.port && d.n = x.n)
                          departed := cutExtents s.sys.departed x.base x.size }
  else s

/-- A hart takes an extent of dynamic capacity (31 R350; log 30). -/
def takeExtent (s : State) (base size : Nat) : State :=
  s.setSys { s.sys with extents := { base, size } :: cutExtents s.sys.extents base size
                        departed := cutExtents s.sys.departed base size }

/-! ## PCI Express (31 R348, R349) -/

/-- The number under which a root port's accesses are made. -/
def portCore (port : Nat) : Nat := 600 + port

/-- The context of a request: its PASID, or the port's default. -/
def portCtx (s : State) (port : Nat) (pasid : Option Nat) : Option Nat :=
  match pasid with
  | some n => some n
  | none => (s.sys.record.ports.find? fun p => p.1 = port).map Prod.snd

/-- The state of a root port; at reset no control is set (31 R348; log 90). -/
def SysDie.rootPort (d : SysDie) (port : Nat) : RootPort :=
  (d.rootPorts.get port).getD
    { controls := { validate := false, redirect := false, completions := false, forward := false, egress := false, barred := [], dpc := 0 }
      contained := false }

/-- A port logs an error of a request under AER; DPC of uncorrectable errors contains it, and the requests that wait there are
gone (31 R348; log 90). -/
def logError (s : State) (port : Nat) : State :=
  let s := s.emit (.aer port)
  let x := s.sys.rootPort port
  if x.controls.dpc = 2 then
    s.setSys { s.sys with rootPorts := s.sys.rootPorts.set port { x with contained := true }
                          inbound := s.sys.inbound.filter fun r => r.port ≠ port }
  else s

/-- A request between ports passes under the ACS controls of the port it comes from: upstream forwarding lets one to the port
itself go up, and egress control bars some other ports unless requests are redirected through the system die (31 R348; log 90). -/
def SysDie.peerAllowed (d : SysDie) (src dst : Nat) : Bool :=
  let c := (d.rootPort src).controls
  if src = dst then c.forward else c.redirect || !(c.egress && c.barred.contains dst)

/-- What an inbound request does at a physical address (31 R348, R349): memory answers; a request to another port's window
passes to it through the system die under ACS, and what its device answers is free. -/
def portAccess (s : State) (r : InboundRequest) : State :=
  let core := portCore r.port
  let deny := s.emit (.pcie r.port false [])
  let n := match r.write with | some bs => bs.length | none => r.count
  match s.sys.target r.addr with
  | .window p =>
    if !s.sys.peerAllowed r.port p then (logError s r.port).emit (.pcie r.port false [])
    else
      (match r.write with
       | some bs => (deviceWrite s p r.addr bs).emit (.pcie r.port true [])
       | none => s.emit (.pcie r.port true (deviceBytes s p r.addr n)))
  | _ =>
    if (absentCause s r.addr).isSome || (absentCause s (r.addr + n - 1)).isSome then deny
    else
      match r.write with
      | some bs => (storePhysical s core r.addr bs).emit (.pcie r.port true [])
      | none => if s.mem.poisonIn r.addr n then deny else s.emit (.pcie r.port true (s.mem.homeBytes r.addr n))

/-- The requests that wait for a migration, without one of those given. -/
def dropInbound (s : State) (r : InboundRequest) : State :=
  forgetUnread (s.setSys { s.sys with inbound := s.sys.inbound.erase r }) (.port r.port)

/-- INBOUND_REQUEST (31 R348, R349). A request that source validation fails is an ACS violation; an MSI goes to its IMSIC file. A
request already translated through ATS carries a physical address. One that meets a capacity PTE starts or joins its migration,
waits, and then completes (log 92). -/
def execInboundRequest (r : InboundRequest) (s : State) : Out :=
  match s.sys.record.ports.find? fun p => p.1 = r.port, portCtx s r.port r.pasid with
  | none, _ => .refused (.notEnabled "INBOUND_REQUEST")
  | _, none => .refused (.notEnabled "INBOUND_REQUEST")
  | some _, some ctx =>
    let core := portCore r.port
    let deny (s : State) : Out := .next ((dropInbound s r).emit (.pcie r.port false []))
    let barred (ms : List (Mapped × Nat)) : Bool := ms.any fun m =>
      match s.sys.target m.1.pa with | .window p => !s.sys.peerAllowed r.port p | _ => false
    if s.sys.contained r.port then .refused (.notEnabled "INBOUND_REQUEST")
    else if (s.sys.rootPort r.port).controls.validate && !r.valid then deny (logError s r.port)
    else
    match r.msi with
    | some (hart, file, id) =>
      .next (if s.sys.record.harts.contains hart && file < 9 then (deliverMsi s hart file id).emit (.msi hart id) else s)
    | none =>
    if 16 ≤ ctx then deny (logError s r.port)
    else if r.translated then .next (portAccess s r)
    else
      match (match r.write with
             | some bs => engineMeet s core ctx r.addr bs.length
             | none => meet s core ctx r.addr r.count .load).of s (.port r.port) with
      | .bad _ => deny s
      | .park p a b =>
        if migrating s 0 a b && s.sys.inbound.contains r then .refused (.notEnabled "INBOUND_REQUEST")
        else
          let s := startMigration s 0 ctx r.addr p a b (Agent.port r.port)
          .next (s.setSys { s.sys with inbound := s.sys.inbound.erase r ++ [r] })
      | .ok ms =>
        if barred ms then deny (logError s r.port)
        else
        match r.write with
        | some bs =>
          .next ((dropInbound (engineWrite s (.port r.port) core ctx r.addr bs).1 r).emit (.pcie r.port true []))
        | none =>
          if piecesPoisoned s ms then deny s
          else
            let bytes := readPieces s core ms
            .next ((dropInbound (noteRange s core ctx r.addr r.count false) r).emit (.pcie r.port true bytes))

/-- ATS_REQUEST (31 R349): the translated address with its permissions, or no access: for a PASID of 16 or above, which is
logged, for a capacity PTE and where translation or read permission fails. Write access that is granted sets the page's D
bit (11 R135). -/
def execAtsRequest (r : AtsRequest) (s : State) : Out :=
  match s.sys.record.ports.find? fun p => p.1 = r.port, portCtx s r.port r.pasid with
  | none, _ => .refused (.notEnabled "ATS_REQUEST")
  | _, none => .refused (.notEnabled "ATS_REQUEST")
  | some _, some ctx =>
    if s.sys.contained r.port then .refused (.notEnabled "ATS_REQUEST")
    else if 16 ≤ ctx then .next ((logError s r.port).emit (.ats r.port none))
    else
      match reach s (portCore r.port) ctx r.addr .load with
      | .ok m =>
        let w := r.write && (match reach s (portCore r.port) ctx r.addr .store with | .ok _ => true | _ => false)
        .next ((noteAccess s (portCore r.port) ctx r.addr w).emit (.ats r.port (some (m.pa, true, w))))
      | _ => .next (s.emit (.ats r.port none))

/-! ## Umadioz harts (31 R344) -/

/-- The new value of a hart's access of n bytes, given whether its reservation holds; none where nothing is written. -/
def hartResult (op : HartOp) (n : Nat) (held : Bool) (old : Nat) : Option Nat :=
  let pick (v : BitVec 64) (signed greater : Bool) : Nat :=
    let x := v.toNat % 2 ^ (8 * n)
    let less := if signed then decide (sext old (8 * n) ≤ sext x (8 * n)) else decide (old ≤ x)
    if less = greater then x else old
  match op with
  | .store v => some v.toNat
  | .amoAdd v => some (old + v.toNat)
  | .amoSwap v => some v.toNat
  | .amoAnd v => some (old &&& v.toNat)
  | .amoOr v => some (old ||| v.toNat)
  | .amoXor v => some (old ^^^ v.toNat)
  | .amoMin v => some (pick v true false)
  | .amoMax v => some (pick v true true)
  | .amoMinu v => some (pick v false false)
  | .amoMaxu v => some (pick v false true)
  | .amoCas e new => if old = e.toNat then some new.toNat else none
  | .sc v => if held then some v.toNat else none
  | .load | .lr | .fence | .fenceAcq | .fenceRel | .hdmDecoder _ _ _ _ | .extentAdd _ _ | .extentRelease _ _ | .portControls _ | .portRelease
  | .bmcRead | .bmcWrite _ | .imsic _ _ _ | .topei _ _ | .mapped _ _ => none

/-- What an access answers its hart, given the old value. -/
def hartAnswer (op : HartOp) (held : Bool) (old : Nat) : Option Nat :=
  match op with
  | .store _ | .fence | .fenceAcq | .fenceRel | .hdmDecoder _ _ _ _ | .extentAdd _ _ | .extentRelease _ _ | .portControls _ | .portRelease
  | .bmcRead | .bmcWrite _ | .imsic _ _ _ | .topei _ _ | .mapped _ _ => none
  | .sc _ => some (if held then 0 else 1)
  | _ => some old

/-- An access reads the memory it names. -/
def hartReads : HartOp → Bool
  | .store _ | .sc _ | .fence | .fenceAcq | .fenceRel => false
  | _ => true

/-- A hart's reservation after an access: a load-reserve takes one, a store-conditional ends it. -/
def reserve (s : State) (hart pa : Nat) (op : HartOp) : State :=
  match op with
  | .lr => s.setSys { s.sys with reservations := s.sys.reservations.set hart (pa / 64) }
  | .sc _ => s.setSys { s.sys with reservations := s.sys.reservations.erase hart }
  | _ => s

/-- The order of a hart's accesses (29 R327; 31 R344). -/
def SysDie.order (d : SysDie) (hart : Nat) : AgentOrder := (d.orders.get hart).getD {}

def setHartOrder (s : State) (hart : Nat) (o : AgentOrder) : State :=
  s.setSys { s.sys with orders := s.sys.orders.set hart o }

/-- A plain load or store, which alone may be misaligned (31 R344; RVA23, PRESUMED, log 87). -/
def hartPlain : HartOp → Bool
  | .load | .store _ => true
  | _ => false

/-- An access that faults at the hart: a misaligned atomic, a revoked byte, an end outside memory, or poison it would read. -/
def hartFaults (s : State) (a : HartAccess) : Bool :=
  (!hartPlain a.op && a.pa % a.width ≠ 0) || ((List.range a.width).any fun k => (absentCause s (a.pa + k)).isSome) ||
    (hartReads a.op && s.mem.poisonIn a.pa a.width)

/-- A hart's access to the memory of the partition, at the home of its bytes: with aq its read is an acquire, with rl its write a
release (29 R327). -/
def hartMemory (s : State) (a : HartAccess) : State :=
  if hartFaults s a then s
  else
    let old := bytesNat (s.mem.homeBytes a.pa a.width)
    let held := s.sys.reservations.get a.hart = some (a.pa / 64)
    let s' := match hartAnswer a.op held old with
      | some v => s.emit (.hart a.hart (BitVec.ofNat 64 v))
      | none => s
    let s' := reserve s' a.hart a.pa a.op
    let s' := if hartReads a.op then setHartOrder s' a.hart ((s.sys.order a.hart).read s [a.pa, a.pa + a.width - 1] a.aq) else s'
    match hartResult a.op a.width held old with
    | some v => (s'.sys.order a.hart).wrote (storePhysical s' (umadiozCore a.hart) a.pa (natBytes a.width v)) a.pa a.rl
    | none => s'

/-- An address of the configuration space of a root port of the partition, or of the register space of one of its CXL host ports
(31 R346). -/
def portSpace (d : SysDie) (pa : Nat) : Bool :=
  (d.record.ports.any fun e => 0xF000010000000 + e.1 * 2 ^ 28 ≤ pa && pa < 0xF000010000000 + (e.1 + 1) * 2 ^ 28) ||
    d.record.hosts.any fun q => 0xF000050000000 + q * 2 ^ 20 ≤ pa && pa < 0xF000050000000 + (q + 1) * 2 ^ 20

/-- The number under which a hart's access to a port's own registers is made: no root port's link has it. -/
def ownSpace : Nat := 4

/-- A hart's access to a device behind a port, or to a port's own registers. -/
def hartDevice (s : State) (a : HartAccess) (port : Nat) : State :=
  match hartResult a.op a.width false 0, a.op with
  | _, .load => s.emit (.hart a.hart (BitVec.ofNat 64 (bytesNat (deviceBytes s port a.pa a.width))))
  | some v, .store _ => deviceWrite s port a.pa (natBytes a.width v)
  | _, _ => s

/-! ## IMSIC (31 R344, after the RISC-V AIA, PRESUMED, log 87) -/

/-- The identities of 64 that a register of an interrupt file shows, from 32 × k on. -/
def fileBits (m : Map Unit) (k : Nat) : Nat :=
  (List.range 64).foldl (fun a j => if (m.get (32 * k + j)).isSome then a + 2 ^ j else a) 0

def putFileBits (m : Map Unit) (k v : Nat) : Map Unit :=
  (List.range 64).foldl (fun m j =>
    if 32 * k + j = 0 then m else if v.testBit j then m.set (32 * k + j) () else m.erase (32 * k + j)) m

/-- The identity that a file has on top: the lowest pending and enabled one, below the threshold where that is not 0. -/
def ImsicFile.top (x : ImsicFile) : Nat :=
  ((x.pending.filter fun e => (x.enabled.get e.1).isSome && (x.threshold = 0 || e.1 < x.threshold)).map Prod.fst).headD 0

/-- A register of an interrupt file: eidelivery, eithreshold, and the even ones of eip and eie. -/
def ImsicFile.reg (x : ImsicFile) (reg : Nat) : Option Nat :=
  if reg = 0x70 then some (if x.deliver then 1 else 0)
  else if reg = 0x72 then some x.threshold
  else if 0x80 ≤ reg && reg < 0xC0 && reg % 2 = 0 then some (fileBits x.pending (reg - 0x80))
  else if 0xC0 ≤ reg && reg < 0x100 && reg % 2 = 0 then some (fileBits x.enabled (reg - 0xC0))
  else none

def ImsicFile.setReg (x : ImsicFile) (reg v : Nat) : ImsicFile :=
  if reg = 0x70 then { x with deliver := v % 2 = 1 }
  else if reg = 0x72 then { x with threshold := v % 2048 }
  else if reg < 0xC0 then { x with pending := putFileBits x.pending (reg - 0x80) v }
  else { x with enabled := putFileBits x.enabled (reg - 0xC0) v }

/-- A hart's access to a register of one of its files; one that does not exist, or without privilege, changes nothing. -/
def hartImsic (s : State) (a : HartAccess) (file reg : Nat) (v : Option (BitVec 64)) : State :=
  let x := s.imsicFile a.hart file
  match a.supervisor && file < 9, x.reg reg, v with
  | true, some old, none => s.emit (.hart a.hart (BitVec.ofNat 64 old))
  | true, some _, some v => s.setSys { s.sys with imsic := s.sys.imsic.set (16 * a.hart + file) (x.setReg reg v.toNat) }
  | _, _, _ => s

/-- A hart reads the top identity of one of its files, as its number and as its priority, or claims it: it pends no more. -/
def hartTopei (s : State) (a : HartAccess) (file : Nat) (claims : Bool) : State :=
  let x := s.imsicFile a.hart file
  if !(a.supervisor && file < 9) then s
  else
    let s := s.emit (.hart a.hart (BitVec.ofNat 64 (x.top * 65537)))
    if claims then
      s.setSys { s.sys with imsic := s.sys.imsic.set (16 * a.hart + file) { x with pending := x.pending.erase x.top } }
    else s

/-! ## The harts' own translation (31 R344, after the RISC-V privileged architecture, PRESUMED, log 87) -/

/-- A PTE as a hart reads it at a physical address; none where the access fails. -/
def hartPte (s : State) (pa : Nat) : Option (BitVec 64) :=
  match s.sys.target pa with
  | .window _ => none
  | _ =>
    if (absentCause s pa).isSome || s.mem.poisonIn pa 8 then none
    else some (BitVec.ofNat 64 (bytesNat (s.mem.homeBytes pa 8)))

/-- A walk of tables of some levels whose PTEs read gives, from the table at a page: the leaf and log2 of its page's size. Bits
60 to 54 are ignored (31 R344); PBMT and NAPOT are as Svpbmt and Svnapot have them. The root's index takes what bits the
address has left. -/
def hartLevels (read : Nat → Option (BitVec 64)) (va top : Nat) : Nat → Nat → Option (BitVec 64 × Nat)
  | 0, _ => none
  | lvl + 1, ppn =>
    let shift := 12 + 9 * lvl
    let index := if lvl + 1 = top then va / 2 ^ shift else va / 2 ^ shift % 512
    match read (ppn * 4096 + 8 * index) with
    | none => none
    | some p =>
      if !pteBit p 0 || (pteBit p 2 && !pteBit p 1) then none
      else if pteBit p 1 || pteBit p 3 then
        if pteBit p 61 && pteBit p 62 then none
        else if pteBit p 63 then (if lvl = 0 && ptePpn p % 16 = 8 then some (p, 16) else none)
        else if ptePpn p % 2 ^ (9 * lvl) ≠ 0 then none
        else some (p, shift)
      else if pteBit p 4 || pteBit p 6 || pteBit p 7 || pteBit p 61 || pteBit p 62 || pteBit p 63 then none
      else hartLevels read va top lvl (ptePpn p)

/-- A leaf lets a hart read or write: by R, or by X with MXR, and by W; A is set, and D for a write (Svade). -/
def hartPermits (p : BitVec 64) (mxr reads writes : Bool) : Bool :=
  (!reads || pteBit p 1 || (mxr && pteBit p 3)) && (!writes || pteBit p 2) && pteBit p 6 && (!writes || pteBit p 7)

/-- The guest stage: a guest's physical address of up to two bits more than the tables translate, as a user's access. -/
def guestStage (s : State) (w : HartWalk) (root gpa : Nat) (reads writes : Bool) : Option Nat :=
  if 2 ^ (14 + 9 * w.levels) ≤ gpa then none
  else
    match hartLevels (hartPte s) gpa w.levels w.levels (root / 4 * 4) with
    | none => none
    | some (p, log) => if pteBit p 4 && hartPermits p w.guestMxr reads writes then some (leafPa p log gpa) else none

/-- The second stage of an access, if it has one. -/
def stageTwo (s : State) (w : HartWalk) (reads writes : Bool) (at' : Nat) : Option Nat :=
  match w.guest with
  | none => some at'
  | some root => guestStage s w root at' reads writes

/-- The physical address of a hart's access: first its own tables, with PTEs that the guest stage translates as reads, then the
guest stage. -/
def hartPlace (s : State) (w : HartWalk) (supervisor reads writes : Bool) (va : Nat) : Option Nat :=
  match w.first with
  | none => stageTwo s w reads writes va
  | some root =>
    let n := 12 + 9 * w.levels
    -- the bits above the translated ones are copies of the uppermost of them
    if lowBits 64 (sext (va % 2 ^ n) n) ≠ va then none
    else
      match hartLevels (fun a => (stageTwo s { w with guestMxr := false } true false a).bind (hartPte s)) (va % 2 ^ n) w.levels w.levels root with
      | none => none
      | some (p, log) =>
        if (pteBit p 4 = !supervisor || (supervisor && w.sum)) && hartPermits p w.mxr reads writes then
          stageTwo s w reads writes (leafPa p log (va % 2 ^ n))
        else none

/-- A memory operation writes, or may write. -/
def hartWrites : HartOp → Bool
  | .load | .lr => false
  | _ => true

/-- A memory operation of a hart. -/
def hartAccesses : HartOp → Bool
  | .load | .store _ | .amoAdd _ | .amoSwap _ | .amoAnd _ | .amoOr _ | .amoXor _ | .amoMin _ | .amoMax _ | .amoMinu _ | .amoMaxu _
  | .amoCas _ _ | .lr | .sc _ => true
  | _ => false

/-- The BMC's access to the health block over MCTP, at any time (31 R346): a read changes nothing. -/
def bmcAccess (s : State) (off : Nat) : Option (BitVec 64) → State
  | none => s.emit (.mctp (BitVec.ofNat 64 (readSlot s (.health (off / 8 * 8)))))
  | some v => writeSlot s { v := v.toNat, lo := true, hi := true } (.health (off / 8 * 8))

/-- An access of a hart to a physical address (31 R344, R346): a system-scope access at the home of its bytes, by a hart of the partition once it is
released. A load of a register block at supervisor privilege reads the register; a device window, a port's configuration
space and CXL register space, each of a port of the partition, answer what their devices do and take what is stored (log 90).
Committing a decoder, taking or releasing an extent, and setting a port's controls are stores to those spaces (R348, R350).
Register writes are rows of their own. An access that has no target, meets a revoked range, lacks privilege, is an atomic not
aligned or consumes poison faults at the hart: it changes nothing. The BMC reads and writes the health block alone. -/
def hartPhysical (a : HartAccess) (s : State) : Out :=
  let name := "HART_MEMORY_ACCESS"
  match a.op with
  | .bmcRead => .next (bmcAccess s a.pa none)
  | .bmcWrite v => .next (bmcAccess s a.pa (some v))
  | _ =>
  if !s.sys.ready || !(s.sys.record.harts.contains a.hart) || !([1, 2, 4, 8].contains a.width) then
    .refused (.notEnabled name)
  else
    match a.op with
    | .fence => .next (setHartOrder s a.hart ((s.sys.order a.hart).fenced true true))
    | .fenceAcq => .next (setHartOrder s a.hart ((s.sys.order a.hart).fenced true false))
    | .fenceRel => .next (setHartOrder s a.hart ((s.sys.order a.hart).fenced false true))
    | .hdmDecoder n base size dynamic => .next (commitDecoder s { port := a.pa, n, base, size, dynamic })
    | .extentAdd base size => .next (takeExtent s base size)
    | .extentRelease base size => .next (releaseExtent s base size false)
    | .portControls x =>
      .next (if s.sys.record.ports.any fun e => e.1 = a.pa then
        s.setSys { s.sys with rootPorts := s.sys.rootPorts.set a.pa { s.sys.rootPort a.pa with controls := x } } else s)
    | .portRelease =>
      .next (if s.sys.contained a.pa then
        s.setSys { s.sys with rootPorts := s.sys.rootPorts.set a.pa { s.sys.rootPort a.pa with contained := false } } else s)
    | .imsic file reg v => .next (hartImsic s a file reg v)
    | .topei file claims => .next (hartTopei s a file claims)
    | .mapped _ _ => .refused (.notEnabled name)
    | _ =>
      match s.sys.target a.pa with
      | .none => .next s
      | .window p => .next (hartDevice s a p)
      | .system =>
        (match regSlot s.sys (a.pa / 8 * 8), a.op with
         | some _, .load =>
           .next (match readRegister s a.pa a.width with
             | some v => if a.supervisor then s.emit (.hart a.hart (BitVec.ofNat 64 v)) else s
             | none => s)
         | some _, _ => .refused (.notEnabled name)
         | none, _ =>
           .next (if portSpace s.sys a.pa then hartDevice s a ownSpace else s))
      | _ => .next (hartMemory s a)

/-- HART_MEMORY_ACCESS (31 R344, R346): an access of a hart at a physical address, or at one that its tables translate; one that
they do not faults at the hart and changes nothing. An access that crosses a page is a row for each of its parts. -/
def execHartMemoryAccess (a : HartAccess) (s : State) : Out :=
  match a.op with
  | .mapped w op =>
    if !s.sys.ready || !(s.sys.record.harts.contains a.hart) || !([1, 2, 4, 8].contains a.width) ||
        !([3, 4, 5].contains w.levels) || !hartAccesses op || a.pa / 4096 ≠ (a.pa + a.width - 1) / 4096 then
      .refused (.notEnabled "HART_MEMORY_ACCESS")
    else
      match hartPlace s w a.supervisor (hartReads op) (hartWrites op) a.pa with
      | some pa => hartPhysical { a with op, pa } s
      | none => .next s
  | _ => hartPhysical a s

end Sys2Proof.Machine
end

