-- ==== Sys2Proof/Machine/Health.lean ====
section
/-! DEFINITION. Power-up and reset, firmware and attestation, storage errors, repair, power and time (01 R12, R19; 05 R74;
23 R280; 27 R320; 31 R354 to R358). -/

namespace Sys2Proof.Machine

/-! ## Storage errors (27 R320) -/

/-- Poisons v register words of the lanes given that are live (05 R74): a dead one has no storage (R71). -/
def Crew.poisonLanes (c : Crew) (reg : Nat) (ls : List Nat) : Crew :=
  { c with regs := ls.foldl (fun (m : Map LaneReg) l =>
      m.modify (32 * reg + l) fun w => if w.live then { w with poison := true } else w) c.regs }

/-- A v register may be held as one entry of the uniform pool: its 32 lanes are live and equal (05 R73). -/
def Crew.isUniform (c : Crew) (reg : Nat) : Bool :=
  (List.range 32).all fun l => c.isLive reg l && c.word reg l = c.word reg 0

/-- Every live thread of a crew whose state is lost parks with 0x104 at its PC; in handler mode it holds the cause where it
stands (27 R312, R320). -/
def loseCrew (s : State) (key : Nat) : State :=
  match s.crews.get key with
  | none => s
  | some c =>
    let hs := c.liveLanes.filter fun l => (c.thread l).handler
    let ls := c.liveLanes.filter fun l => !(c.thread l).handler
    let gone := maskOf ls
    let c := hs.foldl (fun c l => c.hold 0x104 (c.thread l).pc) c
    let c := { c with lost := true, conv := c.conv.map fun e => (e.1, { e.2 with arrived := e.2.arrived &&& ~~~gone }) }
    let sleepers := (s.sleepers.map fun e =>
      (e.1, if e.2.crew = key then { e.2 with lanes := e.2.lanes &&& ~~~gone } else e.2)).filter fun e =>
        !(e.2.crew = key && e.2.lanes = 0)
    let s := (s.setCrew key c).setSleepers sleepers
    starveCheck (releaseCheck (raiseWaiters s key (ls.map fun l => { lane := l, cause := 0x104 })) key) key

/-- An operation on a crew that exists. -/
def onCrew (s : State) (key : Nat) (f : Crew → State) : Out :=
  match s.crews.get key with
  | some c => .next (f c)
  | none => .refused (.notEnabled "SOFT_ERROR")

/-- SOFT_ERROR (05 R74; 23 R280; 27 R320, R321; 31 R356). -/
def execSoftError (e : SoftError) (s : State) : Out :=
  let no : Out := .refused (.notEnabled "SOFT_ERROR")
  match e with
  | .vreg crew reg k =>
    if k < 8 then onCrew s crew fun c => s.setCrew crew (c.poisonLanes reg ((List.range 4).map fun j => 4 * k + j)) else no
  | .uniform crew reg =>
    (match s.crews.get crew with
     | some c => if c.isUniform reg then .next (s.setCrew crew (c.poisonLanes reg (List.range 32))) else no
     | none => no)
  | .greg crew n => onCrew s crew fun c => s.setCrew crew { c with gregs := c.gregs.set n { val := c.greg n, poison := true } }
  | .returnStack crew lane entry =>
    onCrew s crew fun c =>
      let t := c.thread lane
      let stack := (t.stack.zip (List.range 8)).map fun r => if r.2 = entry then { r.1 with poison := true } else r.1
      if (c.threads.get lane).isSome then s.setCrew crew (c.setThread lane { t with stack }) else s
  | .pcTable crew => onCrew s crew fun _ => loseCrew s crew
  | .convergence crew => onCrew s crew fun _ => loseCrew s crew
  | .token crew => onCrew s crew fun _ => loseCrew s crew
  | .slot team core n =>
    (match s.tctxs.get (tctxKey team core) with
     | some t => .next (s.setTctx team core { t with slots := t.slots.set n { (t.slots.get n).getD .start with bad := true } })
     | none => no)
  | .joint team core n =>
    (match s.tctxs.get (tctxKey team core) with
     | some t => .next (s.setTctx team core { t with joints := t.joints.set n { (t.joints.get n).getD .empty with bad := true } })
     | none => no)
  | .barrier team =>
    if (s.teams.get team).isSome then .next (s.setTeams (s.teams.modify team fun t => { t with barBad := true })) else no
  | .icache core line =>
    .next (s.setMem { s.mem with icache := s.mem.icache.filter fun x => !(x.1 / 2 ^ 52 = core && x.1 % 2 ^ 52 / 128 = line) })
  | .l1 core granule =>
    let dirty := s.mem.l1.any fun x => x.1 / 2 ^ 52 = core && x.1 % 2 ^ 52 / 16 = granule
    .next (if dirty then s.setMem ((s.mem.flushL1 core fun a => a / 16 = granule).poisonSet granule) else s)
  | .scratch core granule =>
    if core < 256 && granule < 2 ^ 15 then .next (s.setMem (s.mem.poisonScratch (core * 2 ^ 15 + granule))) else no
  | .accumulator core tile row k =>
    if core < 256 && tile < 64 && row < 64 && k < 16 then
      .next (s.setMem { s.mem with accPoison := s.mem.accPoison.set (((core * 64 + tile) * 64 + row) * 16 + k) () })
    else no
  | .memory granule =>
    (match s.sys.target (16 * granule) with
     | .hbm | .capacity | .fabric => .next (s.setMem (s.mem.poisonSet granule))
     | _ => no)
  | .tlb => .next (s.setMem { s.mem with tlb := s.mem.tlb.drop 1 })
  | .corrected field => if field < 4 then .next (countCorrected s field 1) else no

/-- CECNT_WINDOW (31 R356): the window of 2^32 clocks ends and the counts start again. -/
def execCecntWindow (s : State) : Out :=
  if s.clock < s.sys.window + 2 ^ 32 then .refused (.notEnabled "CECNT_WINDOW")
  else .next (s.setSys { s.sys with cecnt := [0, 0, 0, 0], window := s.clock })

/-! ## Repair (01 R12, R19; 31 R357) -/

/-- Surviving cores of a physical cluster. -/
def aliveIn (d : SysDie) (cluster : Nat) : Nat := ((List.range 17).filter fun k => d.inService cluster k).length

/-- A cluster whose cores cannot serve its logical cores at twice their share (01 R19). -/
def clusterUnservable (d : SysDie) (cluster : Nat) : Bool := aliveIn d cluster * 2 < 16

def anyUnservable (d : SysDie) : Bool := (List.range (4 * d.dies)).any fun c => clusterUnservable d c

/-- Some core serves more logical cores than the layout gives. -/
def overShared (d : SysDie) : Bool := (List.range (4 * d.dies)).any fun c => aliveIn d c < 16

/-- A loss makes a cluster unservable: no team is placed again, every context is forcibly reset and REPLACE is set
(01 R19; 03 R51; 27 R325). -/
def loseService (s : State) : State :=
  let s := s.setSys { s.sys with unservable := true }
  let s := startRetrains ((List.range 16).foldl forcedReset s)
  if s.sys.replace then s else healthMessage (s.setSys { s.sys with replace := true }) 0

/-- CORE_RETIRE (31 R357; 01 R19): the placer starts no team on the core from now on; once it holds none, which may be at
once, it is retired and its logical cores pass to the spare or are time-shared. A loss that makes the cluster unservable
takes effect at once. -/
def execCoreRetire (cluster slot : Nat) (s : State) : Out :=
  let k := cluster * 17 + slot
  let old : PhysCore := (s.sys.phys.get k).getD { retired := false, retiring := false, running := 0, since := 0 }
  if 4 * s.sys.dies ≤ cluster || 17 ≤ slot || old.retired then .refused (.notEnabled "CORE_RETIRE")
  else
    let gone (s : State) : State :=
      s.setSys { s.sys with phys := s.sys.phys.set k { retired := true, retiring := false, running := 0, since := s.clock } }
    let lost := gone s
    if clusterUnservable lost.sys cluster then .next (gone (if s.sys.unservable then s else loseService s))
    else
      let mine := servedBy s.sys k
      if s.teams.any fun t => t.2.cores.any fun c => mine.contains c then
        (if old.retiring then .refused (.notEnabled "CORE_RETIRE")
         else .next (s.setSys { s.sys with phys := s.sys.phys.set k { old with retiring := true } }))
      else .next (if overShared lost.sys then raiseHealth lost 1 else lost)

/-- The logical slice of a physical line (11 R144). -/
def sliceOf (pa : Nat) : Nat :=
  let f (hi lo : Nat) : Nat := pa / 2 ^ lo % 2 ^ (hi + 1 - lo)
  f 16 7 ^^^ f 26 17 ^^^ f 36 27 ^^^ f 46 37 ^^^ f 51 47

/-- The physical slice that serves a logical slice, of the 256 active ones of each die of the partition (01 R19): consecutive
logical slices share one (DESIGN CHOICE, log 73). -/
def servingSlice (d : SysDie) (slice : Nat) : Nat := slice / clusterShare d

/-- L2_SLICE_REPLACE (31 R357): the lines of a slice of the die, which one is free (log 1), are written back and the
slice is remapped to a spare; with no spare left L2SPARE is set. -/
def execL2SliceReplace (die : Nat) (s : State) : Out :=
  let left := slicesLeft s.sys die
  if s.sys.dies ≤ die || left = 0 then .refused (.notEnabled "L2_SLICE_REPLACE")
  else
    let slice := die * 256 + (Config.freeWord s.free).toNat % 256
    let s := s.setMem (s.mem.flushL2 fun a => servingSlice s.sys (sliceOf a) = slice)
    let s := s.setSys { s.sys with slices := s.sys.slices.set die (left - 1) }
    .next (if left = 1 then raiseHealth s 2 else s)

/-- HBM_SPARE (31 R357): rows or banks are copied and remapped, with no change of data; with none left HBMSPARE is set. -/
def execHbmSpare (stack : Nat) (s : State) : Out :=
  let left := (s.sys.hbmSpares.get stack).getD Config.hbmSpares
  if s.sys.stacks ≤ stack || left = 0 then .refused (.notEnabled "HBM_SPARE")
  else
    let s := s.setSys { s.sys with hbmSpares := s.sys.hbmSpares.set stack (left - 1) }
    .next (if left = 1 then raiseHealth s 3 else s)

/-! ## Power-up, firmware and attestation (31 R354, R355) -/

/-- The BMC event that asks for a recovery image. -/
def recoveryRequest : Nat := 16

/-- Stage 1 checks the image and the record (31 R354): it ends, or asks for a recovery image. -/
def verifyStage (s : State) : State :=
  if Config.verified s.sys.image && Config.verified s.sys.record.digest then
    s.setSys { s.sys with stage := 2, recovery := false }
  else (s.setSys { s.sys with stage := 1, recovery := true }).emit (.bmc recoveryRequest)

/-- The spares left where the kept count and the record's map differ: the lesser (31 R355; DEDUCED, log 91). -/
def sparesLeft (kept : Map Nat) (total : Nat) (map : List (Nat × Nat)) : Map Nat :=
  map.foldl (fun m e => m.set e.1 (min ((m.get e.1).getD total) (total - e.2))) kept

/-- The module right after a reset begins: what the dies, the flash and the record keep stays, memory holds its bytes until
stage 5 writes them, the rest is at reset, and stage 1 runs (31 R354, R355). The clock counts anew (13 R167). -/
def beginReset (s : State) : State :=
  let z := State.reset
  { z with free := s.free, schedule := s.schedule, out := s.out
           mem := { z.mem with ram := s.mem.ram, l2 := s.mem.l2, l1 := s.mem.l1, poison := s.mem.poison, scratch := s.mem.scratch
                               scratchPoison := s.mem.scratchPoison, acc := s.mem.acc, accPoison := s.mem.accPoison }
           sys := { z.sys with record := s.sys.nextRecord, nextRecord := s.sys.nextRecord, image := s.sys.image
                               umadioz := s.sys.umadioz
                               slices := sparesLeft s.sys.slices 8 s.sys.nextRecord.l2Map
                               hbmSpares := sparesLeft s.sys.hbmSpares Config.hbmSpares s.sys.nextRecord.hbmMap
                               phys := s.sys.phys.map fun e => (e.1, { e.2 with retiring := false, running := 0, since := 0 })
                               started := true, stage := 1 } }

/-- HEALTH bits that the parts already lost set again at power-up (31 R356). -/
def surveyHealth (s : State) : State :=
  let s := if overShared s.sys then raiseHealth s 1 else s
  let s := if (List.range s.sys.dies).any fun d => slicesLeft s.sys d = 0 then raiseHealth s 2 else s
  if s.sys.hbmSpares.any fun e => e.2 = 0 then raiseHealth s 3 else s

/-- MODULE_RESET (31 R354): power-up or a module reset begins the stages, whatever the module does. -/
def execModuleReset (s : State) : Out := .next (beginReset s)

/-- The end of the stage that runs (31 R354). Stage 3 of a partition with an unservable cluster never ends (01 R19), nor
does stage 1 that waits for a recovery image; stage 5 has written every byte of SRAM and DRAM. -/
def endStage (s : State) : Option State :=
  if !s.sys.started || s.sys.ready || s.sys.recovery then none
  else
    match s.sys.stage.toNat with
    | 1 => some (verifyStage s)
    | 2 => some (s.setSys { s.sys with stage := 3 })
    | 3 => if anyUnservable s.sys then none else some (surveyHealth (s.setSys { s.sys with stage := 4 }))
    | 4 => some (s.setSys { s.sys with stage := 5 })
    | _ => some ((s.setMem State.reset.mem).setSys { s.sys with stage := 6, ready := true })

/-- RECOVERY_IMAGE (31 R354): the image the BMC sends is verified again. -/
def execRecoveryImage (digest : Nat) (s : State) : Out :=
  if !s.sys.recovery then .refused (.notEnabled "RECOVERY_IMAGE")
  else .next (verifyStage (s.setSys { s.sys with image := digest, recovery := false }))

/-- The measurement blocks: firmware image, record and Umadioz firmware (31 R354). -/
def measurements (d : SysDie) : List Nat :=
  [Config.measure d.image, Config.measure d.record.digest, Config.measure d.umadioz]

/-- ATTESTATION_REQUEST (31 R354). -/
def execAttestationRequest (nonce : Nat) (s : State) : Out :=
  let blocks := measurements s.sys
  .next (s.emit (.spdm (Config.attest nonce blocks) blocks))

/-- LIVE_FIRMWARE_LOAD (31 R354): the new Umadioz firmware is what is measured from now on. -/
def execLiveFirmwareLoad (digest : Nat) (s : State) : Out := .next (s.setSys { s.sys with umadioz := digest })

/-- CONFIGURATION_RECORD_WRITE (31 R355): in force at the next module reset. -/
def execConfigurationRecordWrite (r : ConfigurationRecord) (s : State) : Out :=
  .next (s.setSys { s.sys with nextRecord := r })

/-! ## Power and time (31 R358) -/

/-- PLATFORM_TIME (31 R358): a value below the current one is ignored. -/
def execPlatformTime (v : BitVec 64) (s : State) : Out :=
  if v.toNat < s.sys.time.toNat then .next s else .next (s.setSys { s.sys with time := v })

/-- POWER_CAP_EXCEEDED (31 R358): the cores insert idle clocks. -/
def execPowerCapExceeded (clocks : Nat) (s : State) : Out :=
  .next (s.setSys { s.sys with idle := s.sys.idle + clocks })

end Sys2Proof.Machine
end

