-- ==== Sys2Proof/Machine/Lane.lean ====
section
/-! DEFINITION. Lane arithmetic (chapter 13): the values of the integer, logic, shift, bit-field, compare, select,
address-pair and FP32 instructions, and their meanings in the 32-bit and 16-bit formats. -/

namespace Sys2Proof.Machine

/-! ## Values -/

/-- SHL: 0 when the count is 32 or more (13 R169). -/
def shlVal (a n : Word) : Word := if n.toNat < 32 then a <<< n.toNat else 0#32
/-- SHR, logical (13 R169). -/
def shrVal (a n : Word) : Word := if n.toNat < 32 then a >>> n.toNat else 0#32
/-- SAR, arithmetic (13 R169). -/
def sarVal (a n : Word) : Word :=
  if n.toNat < 32 then a.sshiftRight n.toNat else if a.getLsbD 31 then 0xFFFFFFFF#32 else 0#32
/-- ROL by n mod 32 (13 R169). -/
def rolVal (a n : Word) : Word :=
  let k := n.toNat % 32
  (a <<< k) ||| (a >>> (32 - k))
/-- The high word of a signed product (13 R168). -/
def mulhVal (a b : Word) : Word := BitVec.ofInt 32 (a.toInt * b.toInt / 2 ^ 32)
/-- The high word of an unsigned product (13 R168). -/
def mulhuVal (a b : Word) : Word := BitVec.ofNat 32 (a.toNat * b.toNat / 2 ^ 32)
def iminVal (a b : Word) : Word := if b.toInt < a.toInt then b else a
def imaxVal (a b : Word) : Word := if a.toInt < b.toInt then b else a
def uminVal (a b : Word) : Word := if b.toNat < a.toNat then b else a
def umaxVal (a b : Word) : Word := if a.toNat < b.toNat then b else a
/-- Leading zero bits (13 R170). -/
def clzVal (a : Word) : Word := BitVec.ofNat 32 (if a = 0#32 then 32 else 31 - Nat.log2 a.toNat)
/-- One bits (13 R170). -/
def popcVal (a : Word) : Word := BitVec.ofNat 32 ((List.range 32).filter fun k => a.getLsbD k).length
/-- Bit i moved to bit 31 − i (13 R170). -/
def brevVal (a : Word) : Word :=
  (List.range 32).foldl (fun r k => if a.getLsbD k then r ||| (1#32 <<< (31 - k)) else r) 0#32
/-- BFX (13 R171). -/
def bfxVal (a b : Word) : Word :=
  let field := a.toNat / 2 ^ fieldPos b % 2 ^ fieldLen b
  if fieldSigned b then BitVec.ofInt 32 (sext field (fieldLen b)) else BitVec.ofNat 32 field
/-- BFI (13 R171). -/
def bfiVal (d a b : Word) : Word :=
  let mask := BitVec.ofNat 32 ((2 ^ fieldLen b - 1) * 2 ^ fieldPos b)
  (d &&& ~~~mask) ||| ((a <<< fieldPos b) &&& mask)
/-- ADDW and SCADDW.k (13 R174). -/
def scaddw (k : Nat) (a : BitVec 64) (b : Word) : BitVec 64 := a + BitVec.ofNat 64 k * b.signExtend 64

/-! ## Frames of a shape -/

/-- One source a, no flags. -/
def lane1 (i : Instr) (s : State) (g : Word → Word) : Out := laneOp i s fun p => ([g (w p.a 0)], 0)
/-- Two sources a and b, no flags. -/
def lane2 (i : Instr) (s : State) (g : Word → Word → Word) : Out := laneOp i s fun p => ([g (w p.a 0) (w p.b 0)], 0)
/-- Sources a and b and the old vd, no flags. -/
def lane3 (i : Instr) (s : State) (g : Word → Word → Word → Word) : Out :=
  laneOp i s fun p => ([g (w p.d 0) (w p.a 0) (w p.b 0)], 0)
/-- One FP32 source with flags. -/
def fp1 (i : Instr) (s : State) (g : Word → Word × Flags) : Out :=
  laneOp i s fun p => let r := g (w p.a 0); ([r.1], r.2)
/-- Two FP32 sources with flags. -/
def fp2 (i : Instr) (s : State) (g : Word → Word → Word × Flags) : Out :=
  laneOp i s fun p => let r := g (w p.a 0) (w p.b 0); ([r.1], r.2)
/-- Two FP32 sources and the old vd, with flags. -/
def fp3 (i : Instr) (s : State) (g : Word → Word → Word → Word × Flags) : Out :=
  laneOp i s fun p => let r := g (w p.a 0) (w p.b 0) (w p.d 0); ([r.1], r.2)
/-- FCMP with a condition by its place in the order of 07 R84 (13 R177). -/
def fcmpOp (i : Instr) (cc : Nat) (s : State) : Out :=
  fp2 i s fun a b => let r := fcmp cc a b; (boolWord r.1, r.2)
/-- An address-pair instruction (13 R174). -/
def pairOp (i : Instr) (k : Nat) (s : State) : Out :=
  laneOp i s fun p => (split64 (scaddw k (pair64 p.a) (w p.b 0)), 0)

/-! ## Meanings -/

/-- NOP (13 R165). -/
def execNop (f : N) (s : State) : Out := laneOp (.nop f) s fun _ => ([], 0)
/-- MOV (13 R165). -/
def execMov (f : V3) (s : State) : Out := laneOp (.mov f) s fun p => ([w p.b 0], 0)
/-- MOVI (13 R165). -/
def execMovi (f : VI) (s : State) : Out := laneOp (.movi f) s fun _ => ([immS f.imm], 0)
/-- GMOV (13 R165). -/
def execGmov (f : G9) (s : State) : Out := laneOp (.gmov f) s fun p => ([w p.b 0], 0)
/-- ADD (13 R168). -/
def execAdd (f : V3) (s : State) : Out := lane2 (.add f) s (· + ·)
/-- SUB (13 R168). -/
def execSub (f : V3) (s : State) : Out := lane2 (.sub f) s (· - ·)
/-- MUL (13 R168). -/
def execMul (f : V3) (s : State) : Out := lane2 (.mul f) s (· * ·)
/-- MULHI (13 R168). -/
def execMulhi (f : V3) (s : State) : Out := lane2 (.mulhi f) s mulhVal
/-- MULHU (13 R168). -/
def execMulhu (f : V3) (s : State) : Out := lane2 (.mulhu f) s mulhuVal
/-- IMIN (13 R168). -/
def execImin (f : V3) (s : State) : Out := lane2 (.imin f) s iminVal
/-- IMAX (13 R168). -/
def execImax (f : V3) (s : State) : Out := lane2 (.imax f) s imaxVal
/-- UMIN (13 R168). -/
def execUmin (f : V3) (s : State) : Out := lane2 (.umin f) s uminVal
/-- UMAX (13 R168). -/
def execUmax (f : V3) (s : State) : Out := lane2 (.umax f) s umaxVal
/-- AND (13 R168). -/
def execAnd32 (f : V3) (s : State) : Out := lane2 (.and32 f) s (· &&& ·)
/-- OR (13 R168). -/
def execOr32 (f : V3) (s : State) : Out := lane2 (.or32 f) s (· ||| ·)
/-- XOR (13 R168). -/
def execXor (f : V3) (s : State) : Out := lane2 (.xor f) s (· ^^^ ·)
/-- ANDN (13 R168). -/
def execAndn (f : V3) (s : State) : Out := lane2 (.andn f) s (fun a b => a &&& ~~~b)
/-- SHL (13 R169). -/
def execShl (f : V3) (s : State) : Out := lane2 (.shl f) s shlVal
/-- SHR (13 R169). -/
def execShr (f : V3) (s : State) : Out := lane2 (.shr f) s shrVal
/-- SAR (13 R169). -/
def execSar (f : V3) (s : State) : Out := lane2 (.sar f) s sarVal
/-- ROL (13 R169). -/
def execRol (f : V3) (s : State) : Out := lane2 (.rol f) s rolVal
/-- BFX (13 R171). -/
def execBfx (f : V3) (s : State) : Out := lane2 (.bfx f) s bfxVal
/-- ADD_IMM (13 R168). -/
def execAddImm (f : VI) (s : State) : Out := lane1 (.addImm f) s (· + immS f.imm)
/-- SUB_IMM (13 R168). -/
def execSubImm (f : VI) (s : State) : Out := lane1 (.subImm f) s (· - immS f.imm)
/-- MUL_IMM (13 R168). -/
def execMulImm (f : VI) (s : State) : Out := lane1 (.mulImm f) s (· * immS f.imm)
/-- AND_IMM (13 R168). -/
def execAndImm (f : VI) (s : State) : Out := lane1 (.andImm f) s (· &&& immZ f.imm)
/-- OR_IMM (13 R168). -/
def execOrImm (f : VI) (s : State) : Out := lane1 (.orImm f) s (· ||| immZ f.imm)
/-- XOR_IMM (13 R168). -/
def execXorImm (f : VI) (s : State) : Out := lane1 (.xorImm f) s (· ^^^ immZ f.imm)
/-- SHL_IMM (13 R169). -/
def execShlImm (f : VI) (s : State) : Out := lane1 (.shlImm f) s (shlVal · (immZ f.imm))
/-- SHR_IMM (13 R169). -/
def execShrImm (f : VI) (s : State) : Out := lane1 (.shrImm f) s (shrVal · (immZ f.imm))
/-- SAR_IMM (13 R169). -/
def execSarImm (f : VI) (s : State) : Out := lane1 (.sarImm f) s (sarVal · (immZ f.imm))
/-- ROL_IMM (13 R169). -/
def execRolImm (f : VI) (s : State) : Out := lane1 (.rolImm f) s (rolVal · (immZ f.imm))
/-- IMAD (13 R168). -/
def execImad (f : V3) (s : State) : Out := lane3 (.imad f) s fun d a b => a * b + d
/-- BFI (13 R171). -/
def execBfi (f : V3) (s : State) : Out := lane3 (.bfi f) s bfiVal
/-- SEL (13 R173). -/
def execSel (f : V3) (s : State) : Out := lane3 (.sel f) s fun d a b => if d ≠ 0#32 then a else b
/-- CLZ (13 R170). -/
def execClz (f : V3) (s : State) : Out := lane1 (.clz f) s clzVal
/-- POPC (13 R170). -/
def execPopc (f : V3) (s : State) : Out := lane1 (.popc f) s popcVal
/-- BREV (13 R170). -/
def execBrev (f : V3) (s : State) : Out := lane1 (.brev f) s brevVal
/-- ICMP_EQ (13 R172). -/
def execIcmpEq (f : V3) (s : State) : Out := lane2 (.icmpEq f) s fun a b => boolWord (icmp 0 a b)
/-- ICMP_NE (13 R172). -/
def execIcmpNe (f : V3) (s : State) : Out := lane2 (.icmpNe f) s fun a b => boolWord (icmp 1 a b)
/-- ICMP_LT (13 R172). -/
def execIcmpLt (f : V3) (s : State) : Out := lane2 (.icmpLt f) s fun a b => boolWord (icmp 2 a b)
/-- ICMP_LE (13 R172). -/
def execIcmpLe (f : V3) (s : State) : Out := lane2 (.icmpLe f) s fun a b => boolWord (icmp 3 a b)
/-- ICMP_LTU (13 R172). -/
def execIcmpLtu (f : V3) (s : State) : Out := lane2 (.icmpLtu f) s fun a b => boolWord (icmp 4 a b)
/-- ICMP_LEU (13 R172). -/
def execIcmpLeu (f : V3) (s : State) : Out := lane2 (.icmpLeu f) s fun a b => boolWord (icmp 5 a b)
/-- ICMP_GT (13 R172). -/
def execIcmpGt (f : V3) (s : State) : Out := lane2 (.icmpGt f) s fun a b => boolWord (icmp 6 a b)
/-- ICMP_GTU (13 R172). -/
def execIcmpGtu (f : V3) (s : State) : Out := lane2 (.icmpGtu f) s fun a b => boolWord (icmp 7 a b)
/-- ADDW (13 R174). -/
def execAddw (f : V3) (s : State) : Out := pairOp (.addw f) 1 s
/-- SCADDW_2 (13 R174). -/
def execScaddw2 (f : V3) (s : State) : Out := pairOp (.scaddw2 f) 2 s
/-- SCADDW_4 (13 R174). -/
def execScaddw4 (f : V3) (s : State) : Out := pairOp (.scaddw4 f) 4 s
/-- SCADDW_8 (13 R174). -/
def execScaddw8 (f : V3) (s : State) : Out := pairOp (.scaddw8 f) 8 s
/-- SCADDW_16 (13 R174). -/
def execScaddw16 (f : V3) (s : State) : Out := pairOp (.scaddw16 f) 16 s
/-- FADD (13 R175). -/
def execFadd (f : V3) (s : State) : Out := fp2 (.fadd f) s fadd
/-- FMUL (13 R175). -/
def execFmul (f : V3) (s : State) : Out := fp2 (.fmul f) s fmul
/-- FSUB (13 R175). -/
def execFsub (f : V3) (s : State) : Out := fp2 (.fsub f) s fun a b => fadd a (fneg b)
/-- FFMA (13 R175). -/
def execFfma (f : V3) (s : State) : Out := fp3 (.ffma f) s ffma
/-- FFMS (13 R175). -/
def execFfms (f : V3) (s : State) : Out := fp3 (.ffms f) s ffms
/-- FMIN (13 R176). -/
def execFmin (f : V3) (s : State) : Out := fp2 (.fmin f) s (fminmax false)
/-- FMAX (13 R176). -/
def execFmax (f : V3) (s : State) : Out := fp2 (.fmax f) s (fminmax true)
/-- FSAT (13 R176). -/
def execFsat (f : V3) (s : State) : Out := fp1 (.fsat f) s fsat
/-- FCMP_EQ (13 R177). -/
def execFcmpEq (f : V3) (s : State) : Out := fcmpOp (.fcmpEq f) 0 s
/-- FCMP_NE (13 R177). -/
def execFcmpNe (f : V3) (s : State) : Out := fcmpOp (.fcmpNe f) 1 s
/-- FCMP_LT (13 R177). -/
def execFcmpLt (f : V3) (s : State) : Out := fcmpOp (.fcmpLt f) 2 s
/-- FCMP_LE (13 R177). -/
def execFcmpLe (f : V3) (s : State) : Out := fcmpOp (.fcmpLe f) 3 s
/-- FCMP_GT (13 R177). -/
def execFcmpGt (f : V3) (s : State) : Out := fcmpOp (.fcmpGt f) 4 s
/-- FCMP_GE (13 R177). -/
def execFcmpGe (f : V3) (s : State) : Out := fcmpOp (.fcmpGe f) 5 s
/-- FCMP_ORD (13 R177). -/
def execFcmpOrd (f : V3) (s : State) : Out := fcmpOp (.fcmpOrd f) 6 s
/-- FCMP_UNO (13 R177). -/
def execFcmpUno (f : V3) (s : State) : Out := fcmpOp (.fcmpUno f) 7 s
/-- FRND (13 R179). -/
def execFrnd (f : V3) (s : State) : Out := fp1 (.frnd f) s (frnd (.ofCode (f.vb.toNat % 4)))
/-- FCVTI (13 R179). -/
def execFcvti (f : V3) (s : State) : Out := fp1 (.fcvti f) s (fcvti (.ofCode (f.vb.toNat % 4)))
/-- ICVTF (13 R179). -/
def execIcvtf (f : V3) (s : State) : Out := fp1 (.icvtf f) s fun a => intToF (.ofCode (f.vb.toNat % 4)) a.toInt
/-- UCVTF (13 R179). -/
def execUcvtf (f : V3) (s : State) : Out := fp1 (.ucvtf f) s fun a => intToF (.ofCode (f.vb.toNat % 4)) a.toNat
/-- FCLASS (13 R178). -/
def execFclass (f : V3) (s : State) : Out := lane1 (.fclass f) s fclass
/-- FCOPYSIGN (13 R178). -/
def execFcopysign (f : V3) (s : State) : Out := lane2 (.fcopysign f) s fun a b => (a &&& 0x7FFFFFFF#32) ||| (b &&& 0x80000000#32)
/-- FABS (13 R178). -/
def execFabs (f : V3) (s : State) : Out := lane1 (.fabs f) s (· &&& 0x7FFFFFFF#32)
/-- FNEG (13 R178). -/
def execFneg (f : V3) (s : State) : Out := lane1 (.fneg f) s fneg
/-- FRCP (13 R180, 09 R121). -/
def execFrcp (f : V3) (s : State) : Out := fp1 (.frcp f) s frcp
/-- FRSQ (13 R180, 09 R121). -/
def execFrsq (f : V3) (s : State) : Out := fp1 (.frsq f) s frsq
/-- FSQRT (13 R180, 09 R121). -/
def execFsqrt (f : V3) (s : State) : Out := fp1 (.fsqrt f) s fsqrt
/-- FEXP2 (13 R180, 09 R121). -/
def execFexp2 (f : V3) (s : State) : Out := fp1 (.fexp2 f) s fexp2
/-- FLOG2 (13 R180, 09 R121). -/
def execFlog2 (f : V3) (s : State) : Out := fp1 (.flog2 f) s flog2
/-- FSINPI (13 R180, 09 R121). -/
def execFsinpi (f : V3) (s : State) : Out := fp1 (.fsinpi f) s fsinpi
/-- FCOSPI (13 R180, 09 R121). -/
def execFcospi (f : V3) (s : State) : Out := fp1 (.fcospi f) s fcospi
/-- FTANH (13 R180, 09 R121). -/
def execFtanh (f : V3) (s : State) : Out := fp1 (.ftanh f) s ftanh
/-- ADD_16 (07 R80). -/
def execAdd16 (f : H16) (s : State) : Out := lane2 (.add16 f) s (· + ·)
/-- SUB_16 (07 R80). -/
def execSub16 (f : H16) (s : State) : Out := lane2 (.sub16 f) s (· - ·)
/-- AND_16 (07 R80). -/
def execAnd16 (f : H16) (s : State) : Out := lane2 (.and16 f) s (· &&& ·)
/-- OR_16 (07 R80). -/
def execOr16 (f : H16) (s : State) : Out := lane2 (.or16 f) s (· ||| ·)
/-- XOR_16 (07 R80). -/
def execXor16 (f : H16) (s : State) : Out := lane2 (.xor16 f) s (· ^^^ ·)
/-- SHL_16 (07 R80). -/
def execShl16 (f : H16) (s : State) : Out := lane2 (.shl16 f) s shlVal
/-- SHR_16 (07 R80). -/
def execShr16 (f : H16) (s : State) : Out := lane2 (.shr16 f) s shrVal
/-- SAR_16 (07 R80). -/
def execSar16 (f : H16) (s : State) : Out := lane2 (.sar16 f) s sarVal
/-- IMIN_16 (07 R80). -/
def execImin16 (f : H16) (s : State) : Out := lane2 (.imin16 f) s iminVal
/-- IMAX_16 (07 R80). -/
def execImax16 (f : H16) (s : State) : Out := lane2 (.imax16 f) s imaxVal
/-- FADD_16 (07 R80). -/
def execFadd16 (f : H16) (s : State) : Out := fp2 (.fadd16 f) s fadd
/-- FSUB_16 (07 R80). -/
def execFsub16 (f : H16) (s : State) : Out := fp2 (.fsub16 f) s fun a b => fadd a (fneg b)
/-- FMUL_16 (07 R80). -/
def execFmul16 (f : H16) (s : State) : Out := fp2 (.fmul16 f) s fmul
/-- FMIN_16 (07 R80). -/
def execFmin16 (f : H16) (s : State) : Out := fp2 (.fmin16 f) s (fminmax false)
/-- FMAX_16 (07 R80). -/
def execFmax16 (f : H16) (s : State) : Out := fp2 (.fmax16 f) s (fminmax true)
/-- MOV_16 (07 R80). -/
def execMov16 (f : H16) (s : State) : Out := laneOp (.mov16 f) s fun p => ([w p.b 0], 0)

/-! ## GSET and SPR -/

/-- The issue group holds every live thread of the crew (05 R60). -/
def wholeCrew (env : Env) : Bool := env.crew.liveLanes.all fun l => inMask env.is.lanes l

/-- GSET (13 R166): the lowest lane alone reads va; the write is crew state 2 clocks later. -/
def execGset (f : G9) (s : State) : Out :=
  issueAs (.gset f) { Instr.form (.gset f) with a := .no, last := true } s fun env s =>
    let group := lanesOf env.is.lanes
    let all (code v : Nat) : Eff := { s := s, raised := group.map fun l => { lane := l, cause := code, value := v } }
    match group with
    | [] => { s := s }
    | l :: _ =>
      if env.crew.nregs ≤ f.v.toNat then all 0x004 0
      else
        let own : Option (Nat × Nat) := runCause env.crew f.v.toNat 1 l
        match lower (if wholeCrew env then none else some (0x007, 0)) own with
        | some (code, v) => all code v
        | none => { s := s, greg := some (f.n.toNat, env.crew.word f.v.toNat l) }

/-- SCRCL's value (11 R130): the cluster-window address of a team's reservation on a core. -/
def scrcl (s : State) (team core : Nat) : Word :=
  match s.tctxs.get (tctxKey team core), s.launchOf team with
  | some c, some l =>
    if l.record.scratch = 0 then 0xFFFFFFFF#32
    else BitVec.ofNat 32 (0x01000000 + core % 16 * 2 ^ 19 + c.scratch)
  | _, _ => 0xFFFFFFFF#32

/-- The value of an SPR selector for a lane (13 R167). -/
def sprVal (s : State) (env : Env) (l sel : Nat) : Word :=
  let n (k : Nat) : Word := BitVec.ofNat 32 k
  let core := coreOf env.key
  let team := s.teams.get env.crew.team
  let rec' := recordOf s env.crew
  if sel = 0x00 then n l
  else if sel = 0x01 then n env.crew.index
  else if sel = 0x02 then n (teamIndex s env.crew)
  else if sel = 0x03 then (rec'.map LaunchRecord.teams).getD 0#32
  else if sel = 0x04 then ((rec'.map LaunchRecord.crews).getD 0#10).setWidth 32
  else if sel = 0x05 then n core
  else if sel = 0x06 then n (match team with | some t => t.cores.findIdx fun c => c = core | none => 0)
  else if sel = 0x07 then n (clusterOf core)
  else if sel = 0x08 then n (partOf env.key)
  else if sel = 0x09 then n s.clock
  else if sel = 0x0A then n (s.clock / 2 ^ 32)
  else if sel = 0x0B then env.is.lanes
  else if sel = 0x0C then maskOf env.crew.liveLanes
  else n env.crew.nregs

/-- SPR (13 R167). -/
def execSpr (f : VI) (s : State) : Out :=
  issue (.spr f) s fun env s =>
    { s := s, writes := env.parts.map fun p => (p.l, [sprVal s env p.l f.imm.toNat]) }

/-! ## The 64-bit lane forms (13 R181 to R184) -/

/-- FFMA4 (13 R182). -/
def execFfma4 (f : F64) (s : State) : Out :=
  laneOp (.ffma4 f) s fun p =>
    let r := fdot ((List.range 4).map fun k => (w p.a k, w p.b k)) [w p.c 0]
    ([r.1], r.2)

/-- The outward-rounded number of an extended-real slab distance. -/
def slab (mode : Mode) (x : FNum) : FNum :=
  match num32 (round32 mode x).1 with
  | .fin n m => if m.isZero then .fin false m else .fin n m
  | y => y

/-- prod(x, y) of 13 R183: 0 when either is zero. -/
def prodZ (x y : FNum) : FNum := if x.isZero || y.isZero then .fin false ⟨0, 1⟩ else FNum.mul x y

def numMin (a b : FNum) : FNum := if b.lt a then b else a
def numMax (a b : FNum) : FNum := if a.lt b then b else a

/-- RBOX's value (13 R183). -/
def rboxVal (a b c : List Word) : Word :=
  let o (k : Nat) := num32 (w a k)
  let inv (k : Nat) := num32 (w a (3 + k))
  let lo (k : Nat) := num32 (w b k)
  let hi (k : Nat) := num32 (w b (3 + k))
  if (a ++ b ++ c).any isNan || (List.range 3).any (fun k => (o k).isInf) then infWord false
  else
    let step (acc : FNum × FNum) (k : Nat) : FNum × FNum :=
      let p := prodZ (FNum.sum [lo k, (o k).negate]) (inv k)
      let q := prodZ (FNum.sum [hi k, (o k).negate]) (inv k)
      (numMax acc.1 (slab .rdn (numMin p q)), numMin acc.2 (slab .rup (numMax p q)))
    let (enter, leave) := (List.range 3).foldl step (num32 (w c 0), num32 (w c 1))
    if enter.le leave then (if enter.isZero then 0#32 else rne32 enter) else infWord false

/-- RBOX (13 R183). -/
def execRbox (f : F64) (s : State) : Out := laneOp (.rbox f) s fun p => ([rboxVal p.a p.b p.c], 0)

/-- Exact 3-vectors. -/
structure V3Q where
  x : Q
  y : Q
  z : Q

def V3Q.of (ws : List Word) (k : Nat) : V3Q := ⟨(num32 (w ws k)).val, (num32 (w ws (k + 1))).val, (num32 (w ws (k + 2))).val⟩
def V3Q.sub (a b : V3Q) : V3Q := ⟨a.x.sub b.x, a.y.sub b.y, a.z.sub b.z⟩
def V3Q.dot (a b : V3Q) : Q := ((a.x.mul b.x).add (a.y.mul b.y)).add (a.z.mul b.z)
def V3Q.cross (a b : V3Q) : V3Q :=
  ⟨(a.y.mul b.z).sub (a.z.mul b.y), (a.z.mul b.x).sub (a.x.mul b.z), (a.x.mul b.y).sub (a.y.mul b.x)⟩

/-- RTRI's values t, u and v (13 R184). -/
def rtriVal (cull : Bool) (ra rb rc : List Word) : List Word :=
  let miss : List Word := [infWord false, 0#32, 0#32]
  if (ra ++ rb ++ rc).any fun x => !(num32 x).isFin then miss
  else
    let o := V3Q.of ra 0
    let d := V3Q.of ra 3
    let a := (V3Q.of rb 0).sub o
    let b := (V3Q.of rb 3).sub o
    let c := (V3Q.of rb 6).sub o
    let U := d.dot (b.cross c)
    let V := d.dot (c.cross a)
    let W := d.dot (a.cross b)
    let det := (U.add V).add W
    let inside := (!U.isNeg && !V.isNeg && !W.isNeg) ||
      ((U.isNeg || U.isZero) && (V.isNeg || V.isZero) && (W.isNeg || W.isZero))
    if det.isZero || !inside || (cull && det.isNeg) then miss
    else
      let t := (a.dot (b.cross c)).div det
      if ((num32 (w rc 0)).val.le t) && (t.le (num32 (w rc 1)).val) then
        [rne32 (FNum.ofQ t), rne32 (FNum.ofQ (V.div det)), rne32 (FNum.ofQ (W.div det))]
      else miss

/-- RTRI (13 R184). -/
def execRtri (f : F64) (s : State) : Out :=
  laneOp (.rtri f) s fun p => (rtriVal (f.mod.getLsbD 0) p.a p.b p.c, 0)

end Sys2Proof.Machine
end

