-- ==== Sys2Proof/Machine/Dispatch.lean ====
section
/-! DEFINITION. One arm per row of the opcode table: the meaning of each instruction and step. -/

namespace Sys2Proof.Machine

def exec (i : Instr) (s : State) : Host.Outcome State Fault Refusal :=
  match i with
  | .mov16 f => Sys2Proof.Machine.execMov16 f s
  | .add16 f => Sys2Proof.Machine.execAdd16 f s
  | .sub16 f => Sys2Proof.Machine.execSub16 f s
  | .and16 f => Sys2Proof.Machine.execAnd16 f s
  | .or16 f => Sys2Proof.Machine.execOr16 f s
  | .xor16 f => Sys2Proof.Machine.execXor16 f s
  | .shl16 f => Sys2Proof.Machine.execShl16 f s
  | .shr16 f => Sys2Proof.Machine.execShr16 f s
  | .sar16 f => Sys2Proof.Machine.execSar16 f s
  | .imin16 f => Sys2Proof.Machine.execImin16 f s
  | .imax16 f => Sys2Proof.Machine.execImax16 f s
  | .fadd16 f => Sys2Proof.Machine.execFadd16 f s
  | .fsub16 f => Sys2Proof.Machine.execFsub16 f s
  | .fmul16 f => Sys2Proof.Machine.execFmul16 f s
  | .fmin16 f => Sys2Proof.Machine.execFmin16 f s
  | .fmax16 f => Sys2Proof.Machine.execFmax16 f s
  | .nop f => Sys2Proof.Machine.execNop f s
  | .mov f => Sys2Proof.Machine.execMov f s
  | .movi f => Sys2Proof.Machine.execMovi f s
  | .gmov f => Sys2Proof.Machine.execGmov f s
  | .gset f => Sys2Proof.Machine.execGset f s
  | .spr f => Sys2Proof.Machine.execSpr f s
  | .add f => Sys2Proof.Machine.execAdd f s
  | .addImm f => Sys2Proof.Machine.execAddImm f s
  | .sub f => Sys2Proof.Machine.execSub f s
  | .subImm f => Sys2Proof.Machine.execSubImm f s
  | .mul f => Sys2Proof.Machine.execMul f s
  | .mulImm f => Sys2Proof.Machine.execMulImm f s
  | .mulhi f => Sys2Proof.Machine.execMulhi f s
  | .mulhu f => Sys2Proof.Machine.execMulhu f s
  | .imad f => Sys2Proof.Machine.execImad f s
  | .imin f => Sys2Proof.Machine.execImin f s
  | .imax f => Sys2Proof.Machine.execImax f s
  | .umin f => Sys2Proof.Machine.execUmin f s
  | .umax f => Sys2Proof.Machine.execUmax f s
  | .and32 f => Sys2Proof.Machine.execAnd32 f s
  | .andImm f => Sys2Proof.Machine.execAndImm f s
  | .or32 f => Sys2Proof.Machine.execOr32 f s
  | .orImm f => Sys2Proof.Machine.execOrImm f s
  | .xor f => Sys2Proof.Machine.execXor f s
  | .xorImm f => Sys2Proof.Machine.execXorImm f s
  | .andn f => Sys2Proof.Machine.execAndn f s
  | .shl f => Sys2Proof.Machine.execShl f s
  | .shlImm f => Sys2Proof.Machine.execShlImm f s
  | .shr f => Sys2Proof.Machine.execShr f s
  | .shrImm f => Sys2Proof.Machine.execShrImm f s
  | .sar f => Sys2Proof.Machine.execSar f s
  | .sarImm f => Sys2Proof.Machine.execSarImm f s
  | .rol f => Sys2Proof.Machine.execRol f s
  | .rolImm f => Sys2Proof.Machine.execRolImm f s
  | .clz f => Sys2Proof.Machine.execClz f s
  | .popc f => Sys2Proof.Machine.execPopc f s
  | .brev f => Sys2Proof.Machine.execBrev f s
  | .bfx f => Sys2Proof.Machine.execBfx f s
  | .bfi f => Sys2Proof.Machine.execBfi f s
  | .icmpEq f => Sys2Proof.Machine.execIcmpEq f s
  | .icmpNe f => Sys2Proof.Machine.execIcmpNe f s
  | .icmpLt f => Sys2Proof.Machine.execIcmpLt f s
  | .icmpLe f => Sys2Proof.Machine.execIcmpLe f s
  | .icmpLtu f => Sys2Proof.Machine.execIcmpLtu f s
  | .icmpLeu f => Sys2Proof.Machine.execIcmpLeu f s
  | .icmpGt f => Sys2Proof.Machine.execIcmpGt f s
  | .icmpGtu f => Sys2Proof.Machine.execIcmpGtu f s
  | .sel f => Sys2Proof.Machine.execSel f s
  | .addw f => Sys2Proof.Machine.execAddw f s
  | .scaddw2 f => Sys2Proof.Machine.execScaddw2 f s
  | .scaddw4 f => Sys2Proof.Machine.execScaddw4 f s
  | .scaddw8 f => Sys2Proof.Machine.execScaddw8 f s
  | .scaddw16 f => Sys2Proof.Machine.execScaddw16 f s
  | .fadd f => Sys2Proof.Machine.execFadd f s
  | .fsub f => Sys2Proof.Machine.execFsub f s
  | .fmul f => Sys2Proof.Machine.execFmul f s
  | .ffma f => Sys2Proof.Machine.execFfma f s
  | .ffms f => Sys2Proof.Machine.execFfms f s
  | .fmin f => Sys2Proof.Machine.execFmin f s
  | .fmax f => Sys2Proof.Machine.execFmax f s
  | .fsat f => Sys2Proof.Machine.execFsat f s
  | .fcmpEq f => Sys2Proof.Machine.execFcmpEq f s
  | .fcmpNe f => Sys2Proof.Machine.execFcmpNe f s
  | .fcmpLt f => Sys2Proof.Machine.execFcmpLt f s
  | .fcmpLe f => Sys2Proof.Machine.execFcmpLe f s
  | .fcmpGt f => Sys2Proof.Machine.execFcmpGt f s
  | .fcmpGe f => Sys2Proof.Machine.execFcmpGe f s
  | .fcmpOrd f => Sys2Proof.Machine.execFcmpOrd f s
  | .fcmpUno f => Sys2Proof.Machine.execFcmpUno f s
  | .frnd f => Sys2Proof.Machine.execFrnd f s
  | .fcvti f => Sys2Proof.Machine.execFcvti f s
  | .icvtf f => Sys2Proof.Machine.execIcvtf f s
  | .ucvtf f => Sys2Proof.Machine.execUcvtf f s
  | .fclass f => Sys2Proof.Machine.execFclass f s
  | .fcopysign f => Sys2Proof.Machine.execFcopysign f s
  | .fabs f => Sys2Proof.Machine.execFabs f s
  | .fneg f => Sys2Proof.Machine.execFneg f s
  | .frcp f => Sys2Proof.Machine.execFrcp f s
  | .frsq f => Sys2Proof.Machine.execFrsq f s
  | .fsqrt f => Sys2Proof.Machine.execFsqrt f s
  | .fexp2 f => Sys2Proof.Machine.execFexp2 f s
  | .flog2 f => Sys2Proof.Machine.execFlog2 f s
  | .fsinpi f => Sys2Proof.Machine.execFsinpi f s
  | .fcospi f => Sys2Proof.Machine.execFcospi f s
  | .ftanh f => Sys2Proof.Machine.execFtanh f s
  | .bra f => Sys2Proof.Machine.execBra f s
  | .brz f => Sys2Proof.Machine.execBrz f s
  | .brnz f => Sys2Proof.Machine.execBrnz f s
  | .call f => Sys2Proof.Machine.execCall f s
  | .callr f => Sys2Proof.Machine.execCallr f s
  | .ret f => Sys2Proof.Machine.execRet f s
  | .jmpr f => Sys2Proof.Machine.execJmpr f s
  | .cvset f => Sys2Proof.Machine.execCvset f s
  | .cvwait f => Sys2Proof.Machine.execCvwait f s
  | .cvdrop f => Sys2Proof.Machine.execCvdrop f s
  | .exit f => Sys2Proof.Machine.execExit f s
  | .rep f => Sys2Proof.Machine.execRep f s
  | .yield f => Sys2Proof.Machine.execYield f s
  | .sleep f => Sys2Proof.Machine.execSleep f s
  | .brk f => Sys2Proof.Machine.execBrk f s
  | .trap f => Sys2Proof.Machine.execTrap f s
  | .vote f => Sys2Proof.Machine.execVote f s
  | .shfl f => Sys2Proof.Machine.execShfl f s
  | .elect f => Sys2Proof.Machine.execElect f s
  | .wake f => Sys2Proof.Machine.execWake f s
  | .ld f => Sys2Proof.Machine.execLd f s
  | .st f => Sys2Proof.Machine.execSt f s
  | .lds f => Sys2Proof.Machine.execLds f s
  | .sts f => Sys2Proof.Machine.execSts f s
  | .atom f => Sys2Proof.Machine.execAtom f s
  | .ared f => Sys2Proof.Machine.execAred f s
  | .cas f => Sys2Proof.Machine.execCas f s
  | .fence f => Sys2Proof.Machine.execFence f s
  | .pref f => Sys2Proof.Machine.execPref f s
  | .cctl f => Sys2Proof.Machine.execCctl f s
  | .bar f => Sys2Proof.Machine.execBar f s
  | .waitbit f => Sys2Proof.Machine.execWaitbit f s
  | .launch f => Sys2Proof.Machine.execLaunch f s
  | .csrr f => Sys2Proof.Machine.execCsrr f s
  | .csrw f => Sys2Proof.Machine.execCsrw f s
  | .hret f => Sys2Proof.Machine.execHret f s
  | .hesc f => Sys2Proof.Machine.execHesc f s
  | .hkill f => Sys2Proof.Machine.execHkill f s
  | .bcc f => Sys2Proof.Machine.execBcc f s
  | .ffma4 f => Sys2Proof.Machine.execFfma4 f s
  | .rbox f => Sys2Proof.Machine.execRbox f s
  | .rtri f => Sys2Proof.Machine.execRtri f s
  | .lred f => Sys2Proof.Machine.execLred f s
  | .lscan f => Sys2Proof.Machine.execLscan f s
  | .match64 f => Sys2Proof.Machine.execMatch64 f s
  | .compact f => Sys2Proof.Machine.execCompact f s
  | .expand f => Sys2Proof.Machine.execExpand f s
  | .regroup f => Sys2Proof.Machine.execRegroup f s
  | .xsend f => Sys2Proof.Machine.execXsend f s
  | .xrecv f => Sys2Proof.Machine.execXrecv f s
  | .tcopy f => Sys2Proof.Machine.execTcopy f s
  | .bcopy f => Sys2Proof.Machine.execBcopy f s
  | .ringset f => Sys2Proof.Machine.execRingset f s
  | .ringacq f => Sys2Proof.Machine.execRingacq f s
  | .ringrel f => Sys2Proof.Machine.execRingrel f s
  | .tokwait f => Sys2Proof.Machine.execTokwait f s
  | .toktest f => Sys2Proof.Machine.execToktest f s
  | .combine f => Sys2Proof.Machine.execCombine f s
  | .embg f => Sys2Proof.Machine.execEmbg f s
  | .embw f => Sys2Proof.Machine.execEmbw f s
  | .sjob f => Sys2Proof.Machine.execSjob f s
  | .mres f => Sys2Proof.Machine.execMres f s
  | .mrel f => Sys2Proof.Machine.execMrel f s
  | .accalloc f => Sys2Proof.Machine.execAccalloc f s
  | .accfree f => Sys2Proof.Machine.execAccfree f s
  | .midx f => Sys2Proof.Machine.execMidx f s
  | .jset f => Sys2Proof.Machine.execJset f s
  | .mopr f => Sys2Proof.Machine.execMopr f s
  | .mma f => Sys2Proof.Machine.execMma f s
  | .mmas f => Sys2Proof.Machine.execMmas f s
  | .mnorm f => Sys2Proof.Machine.execMnorm f s
  | .mwait f => Sys2Proof.Machine.execMwait f s
  | .accrd f => Sys2Proof.Machine.execAccrd f s
  | .accwr f => Sys2Proof.Machine.execAccwr f s
  | .acczero f => Sys2Proof.Machine.execAcczero f s
  | .mvar f => Sys2Proof.Machine.execMvar f s
  | .htab f => Sys2Proof.Machine.execHtab f s
  | .henc f => Sys2Proof.Machine.execHenc f s
  | .hgrad f => Sys2Proof.Machine.execHgrad f s
  | .vpin f => Sys2Proof.Machine.execVpin f s
  | .vunpin f => Sys2Proof.Machine.execVunpin f s
  | .vpub f => Sys2Proof.Machine.execVpub f s
  | .vdrain f => Sys2Proof.Machine.execVdrain f s
  | .frame f => Sys2Proof.Machine.execFrame f s
  | .meter f => Sys2Proof.Machine.execMeter f s
  | .bsqStart rd rs1 => Sys2Proof.Machine.execBsqStart rd rs1 s
  | .bsqPoll rd rs1 => Sys2Proof.Machine.execBsqPoll rd rs1 s
  | .jcardLd rd rs1 => Sys2Proof.Machine.execJcardLd rd rs1 s
  | .memoryReply crew seq => Sys2Proof.Machine.execMemoryReply crew seq s
  | .sluiceSend core line => Sys2Proof.Machine.execSluiceSend core line s
  | .waitbitReread id => Sys2Proof.Machine.execWaitbitReread id s
  | .vdrainReread id => Sys2Proof.Machine.execVdrainReread id s
  | .commandAccept core queue => Sys2Proof.Machine.execCommandAccept core queue s
  | .millracePublish core queue => Sys2Proof.Machine.execMillracePublish core queue s
  | .millstonePublish core => Sys2Proof.Machine.execMillstonePublish core s
  | .migrationComplete die ending => Sys2Proof.Machine.execMigrationComplete die ending s
  | .furheadWrite die ring v => Sys2Proof.Machine.execFurheadWrite die ring v s
  | .swap core part => Sys2Proof.Machine.execSwap core part s
  | .chargeReport core => Sys2Proof.Machine.execChargeReport core s
  | .logicalCoreSwitch physical logical => Sys2Proof.Machine.execLogicalCoreSwitch physical logical s
  | .srheadWrite ring v => Sys2Proof.Machine.execSrheadWrite ring v s
  | .ringEntryRead ring => Sys2Proof.Machine.execRingEntryRead ring s
  | .teamPlacement queue cores => Sys2Proof.Machine.execTeamPlacement queue cores s
  | .teamRetire team => Sys2Proof.Machine.execTeamRetire team s
  | .jqbloadWrite queue v => Sys2Proof.Machine.execJqbloadWrite queue v s
  | .preempt ctx => Sys2Proof.Machine.execPreempt ctx s
  | .teamSaveDone team => Sys2Proof.Machine.execTeamSaveDone team s
  | .resume ctx => Sys2Proof.Machine.execResume ctx s
  | .teamRestore ctx cores => Sys2Proof.Machine.execTeamRestore ctx cores s
  | .escalationResume ctx v => Sys2Proof.Machine.execEscalationResume ctx v s
  | .registerWrite pa width v => Sys2Proof.Machine.execRegisterWrite pa width v s
  | .sfenceVma va asid => Sys2Proof.Machine.execSfenceVma va asid s
  | .l2Flush v => Sys2Proof.Machine.execL2Flush v s
  | .revclr v => Sys2Proof.Machine.execRevclr v s
  | .extentForcedRelease base size => Sys2Proof.Machine.execExtentForcedRelease base size s
  | .poolList core serial chip => Sys2Proof.Machine.execPoolList core serial chip s
  | .poolVec core serial bag => Sys2Proof.Machine.execPoolVec core serial bag s
  | .poolStat core serial chip => Sys2Proof.Machine.execPoolStat core serial chip s
  | .poolRepl core serial => Sys2Proof.Machine.execPoolRepl core serial s
  | .poolFwd core serial row => Sys2Proof.Machine.execPoolFwd core serial row s
  | .jobRun engine => Sys2Proof.Machine.execJobRun engine s
  | .jobUpdate engine => Sys2Proof.Machine.execJobUpdate engine s
  | .jobPairfix engine => Sys2Proof.Machine.execJobPairfix engine s
  | .jobScaleadd engine => Sys2Proof.Machine.execJobScaleadd engine s
  | .bankRowBoundary sequence bank waited => Sys2Proof.Machine.execBankRowBoundary sequence bank waited s
  | .bankSequenceResume sequence bank served waiting => Sys2Proof.Machine.execBankSequenceResume sequence bank served waiting s
  | .hbmRetrainRequest stack => Sys2Proof.Machine.execHbmRetrainRequest stack s
  | .inboundRequest r => Sys2Proof.Machine.execInboundRequest r s
  | .atsRequest r => Sys2Proof.Machine.execAtsRequest r s
  | .softError e => Sys2Proof.Machine.execSoftError e s
  | .coreRetire cluster slot => Sys2Proof.Machine.execCoreRetire cluster slot s
  | .l2SliceReplace die => Sys2Proof.Machine.execL2SliceReplace die s
  | .hbmSpare stack => Sys2Proof.Machine.execHbmSpare stack s
  | .recoveryImage digest => Sys2Proof.Machine.execRecoveryImage digest s
  | .attestationRequest nonce => Sys2Proof.Machine.execAttestationRequest nonce s
  | .configurationRecordWrite r => Sys2Proof.Machine.execConfigurationRecordWrite r s
  | .platformTime v => Sys2Proof.Machine.execPlatformTime v s
  | .powerCapExceeded clocks => Sys2Proof.Machine.execPowerCapExceeded clocks s
  | .unassignedEncoding long w => Sys2Proof.Machine.execUnassignedEncoding long w s
  | .resultWrite crew seq => Sys2Proof.Machine.execResultWrite crew seq s
  | .stackEngineInstruction engine => Sys2Proof.Machine.execStackEngineInstruction engine s
  | .hartMemoryAccess a => Sys2Proof.Machine.execHartMemoryAccess a s
  | .liveFirmwareLoad digest => Sys2Proof.Machine.execLiveFirmwareLoad digest s
  | .sleepExpire => Sys2Proof.Machine.execSleepExpire s
  | .waitbitLimit => Sys2Proof.Machine.execWaitbitLimit s
  | .ringSlotClaim => Sys2Proof.Machine.execRingSlotClaim s
  | .doneEntryWrite => Sys2Proof.Machine.execDoneEntryWrite s
  | .regroupSpawn => Sys2Proof.Machine.execRegroupSpawn s
  | .deadlineExpire => Sys2Proof.Machine.execDeadlineExpire s
  | .escalationEntryWrite => Sys2Proof.Machine.execEscalationEntryWrite s
  | .hfence => Sys2Proof.Machine.execHfence s
  | .l2FlushDone => Sys2Proof.Machine.execL2FlushDone s
  | .poolScrub => Sys2Proof.Machine.execPoolScrub s
  | .poolZero => Sys2Proof.Machine.execPoolZero s
  | .maintenanceDone => Sys2Proof.Machine.execMaintenanceDone s
  | .poolMaint => Sys2Proof.Machine.execPoolMaint s
  | .poolMdone => Sys2Proof.Machine.execPoolMdone s
  | .poolLinkTimeout => Sys2Proof.Machine.execPoolLinkTimeout s
  | .runLimitExpire => Sys2Proof.Machine.execRunLimitExpire s
  | .stackJobPublish => Sys2Proof.Machine.execStackJobPublish s
  | .bankSequenceDone => Sys2Proof.Machine.execBankSequenceDone s
  | .hbmRetrainDone => Sys2Proof.Machine.execHbmRetrainDone s
  | .cecntWindow => Sys2Proof.Machine.execCecntWindow s
  | .moduleReset => Sys2Proof.Machine.execModuleReset s

end Sys2Proof.Machine
end

