-- ==== Sys2Proof/Machine/Schedule.lean ====
section
/-! DEFINITION. Whose turn it is: the issue of a group, a hart's turn, the steps of the other agents, and the passing of a
clock (03 R23, R34 to R41; 05 R67). The order among agents that no rule orders is State.schedule's, then a fixed one
(DESIGN CHOICE, log 2). -/

namespace Sys2Proof.Machine

/-! ## The issue of a group (03 R23; 07 R78, R94; 17 R212) -/

/-- The issue in progress of a group, before its words are known. -/
def startIssue (key : Nat) (c : Crew) (K : GroupKey) : Issue :=
  { crew := key, lanes := maskOf (groupLanes c K), pc := K.pc, handler := K.handler, rep := K.rep, count := 1
    unit := false, next := K.pc + 4, h5 := 0, h6 := 0, target := none }

/-- Runs a decoded instruction and, for a REP, the target of its repetition. -/
def runDecoded (i : Instr) (s : State) : Out :=
  match exec i s with
  | .next s' =>
    match s'.cur with
    | some is =>
      (match is.target with
       | some t => exec t (s'.setCur (some { is with target := none }))
       | none => .next s')
    | none => .next s'
  | x => x

/-- The issue of a group: its bytes are fetched and decoded, and the instruction runs (07 R78, R94). -/
def issueGroup (s : State) (key : Nat) (c : Crew) (K : GroupKey) : Out :=
  let is := startIssue key c K
  let core := coreOf key
  let ctx := ctxOf s c
  match fetchInstr s core ctx K.pc with
  | .error 0 => .next (parkFetch s is K.pc)
  | .error cause => raiseGroup (.unassignedEncoding false 0) is s cause
  | .ok bs =>
    let bytes := bs.map Prod.snd
    let ws := wordsOf bytes
    let is := { is with next := K.pc + BitVec.ofNat 57 bytes.length, h5 := ws.1, h6 := ws.2 }
    let s := (noteFetch s core ctx K.pc bs).setCur (some is)
    match decode bytes with
    | .ok (i, _) => runDecoded i s
    | .error (.reservedBits (.rep f)) => openRep f true is c s
    | .error e => raiseGroup e.named is s (e.cause c.nregs K.handler)

/-! ## Ports (03 R41) -/

/-- Slots in round-robin order after the one granted last. -/
def rotation (last : Nat) : List Nat := (List.range 32).map fun i => (last + 1 + i) % 32

/-- The group that port A or B of a partition grants in this clock. -/
def portGrant (s : State) (core part : Nat) (portA : Bool) : Option (Nat × Crew × GroupKey) :=
  let p := (s.core core).part part
  if s.clock < (if portA then p.doneA else p.doneB) then none
  else
    (rotation (if portA then p.lastA else p.lastB)).findSome? fun slot =>
      let key := crewKey core part slot
      match s.crews.get key with
      | none => none
      | some c =>
        if !c.active || (suspended s c && (checking s key c).isNone) then none
        else
          match presented s key c with
          | some (K, a) => if a = portA then some (key, c, K) else none
          | none => none

/-- A port has granted a crew in this clock. -/
def markPort (s : State) (key : Nat) (portA : Bool) : State :=
  let core := coreOf key
  let k := s.core core
  let p := k.part (partOf key)
  let slot := key % 32
  let p := if portA then { p with doneA := s.clock + 1, lastA := slot } else { p with doneB := s.clock + 1, lastB := slot }
  s.setCore core { k with parts := k.parts.set (partOf key) p }

/-- The partitions that hold crews, as core × 6 + partition. -/
def partsInUse (s : State) : List Nat := sortAsc (s.crews.map fun e => e.1 / 32)

/-- The ports of a core that have had their choice in this clock, as 2 × partition + port: those up to the latest that
granted. They choose in ascending partition, port A before port B, so that a crew woken in the clock by a later port's
issue waits for the next (03 R41; 05 R62). -/
def portsPast (s : State) (core : Nat) : Nat :=
  (s.core core).parts.foldl (fun m e =>
    max m (if s.clock < e.2.doneB then 2 * e.1 + 2 else if s.clock < e.2.doneA then 2 * e.1 + 1 else 0)) 0

/-- The next grant of the clock: partitions in ascending order, port A before port B. -/
def nextGrant (s : State) : Option (Nat × Crew × GroupKey × Bool) :=
  if s.sys.idle ≠ 0 then none
  else
    (partsInUse s).findSome? fun n =>
      let past := portsPast s (n / 6)
      let grant (portA : Bool) : Option (Nat × Crew × GroupKey × Bool) :=
        if 2 * (n % 6) + (if portA then 0 else 1) < past then none
        else (portGrant s (n / 6) (n % 6) portA).map fun (key, c, K) => (key, c, K, portA)
      if !runsNow s.sys (n / 6) then none else (grant true).or (grant false)

/-- A grant's issue. A group that does not issue after all, since its command waits, leaves the port to others, unless it
would present itself again. -/
def grantIssue (s : State) (key : Nat) (c : Crew) (K : GroupKey) (portA : Bool) : Out :=
  andThen (issueGroup s key c K) fun s' =>
    match s'.crews.get key with
    | some c' =>
      if c'.issues = c.issues && (presented s' key c').map Prod.fst ≠ some K then s' else markPort s' key portA
    | none => markPort s' key portA

/-! ## A hart's turn (29 R326, R328) -/

/-- The instruction a hart is at: one of Joholt's three in a kernel, or a standard one; the firmware's image holds standard ones
alone (PRESUMED, log 85). -/
def hartInstr (s : State) (e : Nat) : Option Instr :=
  match runJob s e with
  | none => if firmwareRuns s e then some (.stackEngineInstruction e) else none
  | some j =>
    match hartFetch s e j.ctx (s.engine e).hart.pc.toNat with
    | .ok (_, w, 4) =>
      (match decodeCustom (BitVec.ofNat 32 w) with
       | .ok i => some i
       | .error _ => some (.stackEngineInstruction e))
    | _ => some (.stackEngineInstruction e)

/-- The state after the fetch of one of Joholt's instructions, which notes its access (11 R135); a standard instruction
fetches in its own meaning. -/
def noteHartFetch (s : State) (e : Nat) (i : Instr) : State :=
  match i, runJob s e with
  | .stackEngineInstruction _, _ | _, none => s
  | _, some j => match hartFetch s e j.ctx (s.engine e).hart.pc.toNat with | .ok (s', _, _) => s' | .error _ => s

/-- A hart's turn. -/
def hartTurn (s : State) (e : Nat) : Out :=
  match hartInstr s e with
  | none => .refused (.notEnabled "STACK_ENGINE_INSTRUCTION")
  | some i =>
    let s := noteHartFetch s e i
    exec i (s.setNear { s.near with turn := some e })

/-- A hart executes at most one instruction in a stack-engine clock (DESIGN CHOICE, log 2). -/
def hartMayRun (s : State) (e : Nat) : Bool :=
  let h := (s.engine e).hart
  (runJob s e).isSome && h.instret ≤ (s.clock - h.cycle) * 4 / 5

/-! ## The other agents -/

/-- The step of an agent, as the schedule names it. -/
def agentTurn (s : State) (i : Instr) : Out :=
  match i with
  | .stackEngineInstruction e => hartTurn s e
  | i => if (encode i).isSome then .refused (.notEnabled "scheduled") else exec i s

/-- The messages a pooling command may wait for (31 R351). -/
def poolSteps (s : State) (core : Nat) (c : Command) : List Instr :=
  match c.work with
  | .embw _ _ _ =>
    .poolRepl core c.serial :: (List.range s.sys.record.chips.length).map fun k => .poolStat core c.serial k
  | .embg d =>
    match c.plan with
    | none => (List.range s.sys.record.chips.length).map fun k => .poolList core c.serial k
    | some p =>
      (p.chips.filter fun k => !c.listed.contains k).map (fun k => .poolList core c.serial k) ++
        (c.rows.keys.map fun r => .poolFwd core c.serial r) ++
        ((List.range d.nbags).filter fun b => !c.bags.contains b).map (fun b => .poolVec core c.serial b) ++
        (p.chips.filter fun k => !c.answered.contains k).map fun k => .poolStat core c.serial k
  | _ => []

/-- The steps of a core's engines. -/
def coreSteps (s : State) (core : Nat) (k : Core) : List Instr :=
  (if k.waiters.isEmpty then [] else (List.range 4).map fun q => .commandAccept core q) ++
    ((k.commands.filter fun c => c.queue = 1 && c.result.isNone).flatMap fun c => poolSteps s core c) ++
    (if k.commands.isEmpty then []
     else [.millracePublish core 0, .millracePublish core 1, .millracePublish core 2, .millstonePublish core])

/-- The steps of a stack engine. -/
def engineSteps (e : Nat) (n : StackEngine) : List Instr :=
  match n.running with
  | none => if n.queue.isEmpty then [] else [.jobRun e, .jobUpdate e, .jobPairfix e, .jobScaleadd e]
  | some j => if j.block.isSome && j.ended.isNone then [.jobUpdate e, .jobPairfix e] else []

/-- The steps of the dispatcher. -/
def dispatcherSteps (s : State) : List Instr :=
  (s.disp.rings.keys.map fun r => .ringEntryRead r) ++
    (s.disp.queues.keys.flatMap fun q =>
      match nextLaunch s q with
      | none => []
      | some (_, l) => [.teamPlacement q ((someCores s l.record l.next).getD [])]) ++
    (s.disp.contexts.flatMap fun e =>
      match e.2.saved with
      | [] => []
      | x :: _ =>
        let n := x.ranks.length
        let home := nth x.team.cores 0 / 16
        .teamRestore e.1 x.team.cores ::
          ((home :: List.range 16).flatMap fun k => (List.range (17 - n)).map fun j =>
            .teamRestore e.1 ((List.range n).map fun i => 16 * k + j + i)))

/-- The re-reads that are due: of a WAITBIT's word (19 R232) and of a VDRAIN's block (25 R302). -/
def rereads (s : State) : List Instr :=
  s.sleepers.filterMap fun (id, sl) =>
    match sl.what with
    | .waitbit _ _ _ _ _ _ _ _ => if rereadDue s id then some (.waitbitReread id) else none
    | .vdrain _ _ _ => if drainDue s id then some (.vdrainReread id) else none
    | _ => none

/-- The physical cores that serve several logical cores, each with the next logical core that can issue, or the next one
after 65,536 clocks. -/
def switchSteps (s : State) : List Instr :=
  if s.sys.dies = 4 && s.sys.phys.isEmpty then []
  else
    (List.range (68 * s.sys.dies)).filterMap fun p =>
      let ls := servedBy s.sys p
      match runningOn s.sys p with
      | none => none
      | some out =>
        let since := ((s.sys.phys.get p).map PhysCore.since).getD 0
        if s.clock ≤ since then none
        else
          ((ls.filter fun l => out < l) ++ ls).find? (fun l =>
            l ≠ out && (coreCanIssue s l || since + 65536 ≤ s.clock)) |>.map fun l => .logicalCoreSwitch p l

/-- The steps the other agents may take, in the order in which they are tried. -/
def agentSteps (s : State) : List Instr :=
  if !s.sys.ready then (if s.sys.started then [] else [.moduleReset])
  else
    [.sleepExpire, .waitbitLimit, .deadlineExpire, .escalationEntryWrite, .doneEntryWrite, .ringSlotClaim] ++
      ((reportsDue s).map fun c => .chargeReport c) ++
      (s.crews.flatMap fun (k, c) => c.pend.filterMap fun p =>
        if p.due.isSome then none else some (if p.memory then .memoryReply k p.seq else .resultWrite k p.seq)) ++
      ((s.mem.sluice.filter fun e => e.sectors = 0xFF#8 || e.born + 64 ≤ s.clock).map fun e => .sluiceSend e.core e.line) ++
      rereads s ++
      (s.sys.faults.flatMap fun (d, u) => u.migrations.map fun m => .migrationComplete d { pte := m.pte, failed := false }) ++
      (s.cores.flatMap fun (k, c) => coreSteps s k c) ++
      (s.near.engines.flatMap fun (e, n) => engineSteps e n) ++
      [.stackJobPublish, .bankSequenceDone] ++
      (s.near.sequences.flatMap fun q => q.banks.flatMap fun b =>
        [.bankRowBoundary q.number b.bank false, .bankSequenceResume q.number b.bank 0 false]) ++
      [.hbmRetrainDone, .regroupSpawn] ++ dispatcherSteps s ++
      (s.teams.flatMap fun (t, x) => if x.saving then [.teamSaveDone t, .teamRetire t] else [.teamRetire t]) ++
      switchSteps s ++
      (s.sys.inbound.map fun r => .inboundRequest r) ++
      (s.sys.phys.filterMap fun (k, p) => if p.retiring then some (.coreRetire (k / 17) (k % 17)) else none) ++
      [.poolMaint, .poolScrub, .poolZero, .poolMdone, .maintenanceDone, .l2FlushDone, .runLimitExpire,
       .poolLinkTimeout, .cecntWindow] ++
      ((partsInUse s).map fun n => .swap (n / 6) (n % 6))

/-- The first agent whose step is enabled, as the state it gives. -/
def agentNext (s : State) : Option State :=
  (agentSteps s).findSome? fun i => match agentTurn s i with | .next s' => some s' | _ => none

/-- The first hart that may run and whose turn is enabled. -/
def hartNext (s : State) : Option State :=
  s.near.engines.keys.findSome? fun e =>
    if hartMayRun s e then (match hartTurn s e with | .next s' => some s' | _ => none) else none

/-! ## The passing of a clock (00 R4; 31 R358) -/

/-- A clock passes; the crews that stopped waiting in it enter their ready queues (03 R39). -/
def tick (s : State) : State :=
  let s := refreshWaits s
  let s := s.setClock (s.clock + 1)
  if s.sys.idle = 0 then s else s.setSys { s.sys with idle := s.sys.idle - 1 }

/-! ## Placing an instruction (log 10) -/

/-- Where a placed instruction stands, and the root table that maps the low 2^48 bytes to themselves. -/
def placePc : Nat := 0x200000
def placeRoot : Nat := 0x100

/-- Memory with a 256-TiB leaf at the root table and the bytes of an instruction at the PC, and no copies of either. -/
def placedMem (m : MemSys) (w : Nat) : MemSys :=
  let m := writeSeq MemSys.putThrough m (placeRoot * 4096) (natBytes 8 0xDF)
  { writeSeq MemSys.putThrough m placePc (natBytes 8 w) with icache := [], tlb := [], poison := [], revoked := [] }

/-- The module is up and context 0 translates through the root table; nothing is scheduled, and no agent has work. -/
def placedBase (s : State) (w : Nat) : State :=
  let c : Context := { Context.atReset with ppn := BitVec.ofNat 44 placeRoot, mode := 10 }
  { s with
    cur := none, schedule := [], mem := placedMem s.mem w, crews := [], tctxs := [], teams := [], launches := [], cores := []
    disp := { s.disp with rings := [], queues := [], contexts := [(0, c)] }
    sys := { s.sys with started := true, recovery := false, ready := true, stage := 6, window := s.clock, idle := 0, faults := []
                        flushGo := false, pbmGo := false, pbmPhase := 0, phys := [] }
    near := { engines := [], sequences := [], retrain := [], turn := none }
    sleepers := [] }

/-- The launch record of a placed crew: one team of one crew of 64 registers. -/
def placedRecord : LaunchRecord :=
  { entry := BitVec.ofNat 57 placePc, teams := 0, crews := 0, regs := 7, cores := 0, det := false, save := false
    cons := false, ovlp := false, chk := false, scratch := 0, acc := 0, constn := 0, jobq := 0, dscope := 0, const := 0
    bitmap := 0, done := 0, seq := 0, pbmap := 0, pbase := 0, pmul := 0, prun := 0, plast := 0, tlarea := 0, tlsize := 0 }

/-- A crew of 32 threads of context 0 at the PC, on core 0. -/
def placeOnCrew (s : State) (w : Nat) : State :=
  let b := placedBase s w
  let l : Launch :=
    { record := placedRecord, ctx := 0, bad := false, next := 1, retired := 0, killed := false, placed := true
      faulted := false, halted := false, reset := false, done := false }
  let t : Team :=
    { launch := 0, index := 0, ctx := 0, cores := [0], age := 0, barGen := 0, barCount := 0, barFlags := [], barBad := false
      saving := false, killed := false }
  { b with
    crews := [(0, { startCrew b.clock placedRecord 0 0 0 [] with active := true })]
    tctxs := [(tctxKey 0 0, TeamCtx.start)], teams := [(0, t)], launches := [(0, l)] }

/-- Stack engine 0 runs a RUN card of context 0 whose kernel stands at the PC. -/
def placeOnEngine (s : State) (w : Nat) : State :=
  let b := placedBase s w
  let j : Job :=
    { card := List.replicate 8 0#64, serial := 0, core := 0, ctx := 0, ended := none, begun := true, sequence := none, block := none }
  let h : Hart := { Hart.reset with pc := BitVec.ofNat 64 placePc, cycle := b.clock, machine := false }
  { b with near := { b.near with engines := [(0, { queue := [], running := some j, hart := h })] } }

/-! ## The turn of a step -/

/-- A fixed-latency result whose write clock has come (05 R67). -/
def dueResult (s : State) : Option (Nat × Nat) :=
  s.crews.findSome? fun (k, c) =>
    (c.pend.find? fun p => match p.due with | some d => d ≤ s.clock | none => false).map fun p => (k, p.seq)

/-- What takes the next step. -/
inductive Turn where
  | result (crew seq : Nat)
  | scheduled (i : Instr) (rest : List Instr)
  | agent (s : State)
  /-- a stage of the module's start ends -/
  | stage (s : State)
  | grant (key : Nat) (c : Crew) (K : GroupKey) (portA : Bool)
  | hart (s : State)
  /-- the sleepers at transfer slots and the requests for tiles are served, and the clock passes -/
  | receivers (s : State)
  | clock

/-- The end of a clock serves the sleepers at transfer slots, after every issue of the clock (05 R62; log 75). -/
def serveSlots (s : State) : State := (slotsDue s).foldl (fun s x => serveSlot s x.1 x.2.1 x.2.2) s

/-- The end of a clock serves the waiting requests for tiles of each core, those that arrived in it among them (23 R274). -/
def serveAllocs (s : State) : State :=
  let cores := sortAsc (s.sleepers.filterMap fun e =>
    match e.2.what with | .alloc _ _ => some (coreOf e.2.crew) | _ => none)
  cores.foldl (fun s core => serveAlloc s core 64) s

/-- What the end of a clock serves. -/
def serveClock (s : State) : State := serveAllocs (serveSlots s)

/-- Results first, then the schedule, then the agents, the end of a stage of the start, the grants of the clock, the harts, the sleepers that the end of a clock serves, and
the next clock. -/
def nextTurn (s : State) : Turn :=
  match dueResult s with
  | some (k, q) => .result k q
  | none =>
    match s.schedule with
    | i :: rest => .scheduled i rest
    | [] =>
      match agentNext s with
      | some s' => .agent s'
      | none =>
        match endStage s with
        | some s' => .stage s'
        | none =>
          match nextGrant s with
          | some (k, c, K, a) => .grant k c K a
          | none =>
            match hartNext s with
            | some s' => .hart s'
            | none => if (serveClock s).sleepers = s.sleepers then .clock else .receivers (serveClock s)

/-- Takes a turn. A scheduled step that is not enabled does not happen. -/
def takeTurn (s : State) : Turn → Out
  | .result k q => exec (.resultWrite k q) s
  | .scheduled i rest =>
    let s := s.setSchedule rest
    (match agentTurn s i with
     | .next s' => .next s'
     | _ => .next s)
  | .agent s' => .next s'
  | .stage s' => .next s'
  | .grant k c K a => grantIssue s k c K a
  | .hart s' => .next s'
  | .receivers s' => .next (tick s')
  | .clock => .next (tick s)

/-- What every step leaves behind: reservations other agents broke, no issue in progress, a fresh free value. -/
def settle (s s' : State) : State :=
  let s' := breakReservations s s'
  ((s'.setCur none).setNear { s'.near with turn := none }).setFree (s.free + 1)

end Sys2Proof.Machine
end

