-- ==== Sys2Proof/Machine/Step.lean ====
section
/-! DEFINITION. One step of the machine, and the placing of an instruction where the next step runs it. -/

namespace Sys2Proof.Machine

/-- One step: a turn of the machine and what it leaves behind. -/
def step (s : State) : Host.Outcome State Fault Refusal :=
  match takeTurn s (nextTurn s) with
  | .next s' => .next (settle s s')
  | x => x

/-- s with the instruction of the bits w, nbits of them given and the others 0, where the next step runs it (log 10): a
custom-0 word on stack engine 0, any other word at the PC of a crew on core 0. -/
def State.withFetchWord (s : State) (nbits w : Nat) : State :=
  if nbits = 32 && w % 128 = 0x0B then placeOnEngine s w else placeOnCrew s (w % 2 ^ nbits)

end Sys2Proof.Machine
end

