-- ==== Sys2Proof/Safety.lean ====
section
/-! DEFINITION. What the statements count as a good state and a safe run. -/

namespace Sys2Proof

open Machine

/-- An outcome goes on. -/
def isNext (o : Out) : Bool :=
  match o with
  | .next _ => true
  | _ => false

/-- The canonical form of a table: its keys strictly rise. -/
def tableWf {α : Type} (m : Map α) : Prop := m.Pairwise fun a b => a.1 < b.1

/-- The memory is in canonical form: addresses strictly rise and no listed byte equals the unlisted value. -/
def memoryWf (m : Memory) : Prop := m.wf = true

/-- The tables that hold the machine's bytes, words and poison are in canonical form: those of memory, both cache levels,
the scratchpads, the accumulators and the staging slots: keys strictly rise, and no listed byte of memory equals the unlisted value. -/
structure MemGood (m : MemSys) : Prop where
  ram : m.ram.wf = true
  l2 : Map.sorted m.l2 = true
  l1 : Map.sorted m.l1 = true
  scratch : Map.sorted m.scratch = true
  scratchPoison : Map.sorted m.scratchPoison = true
  poison : Map.sorted m.poison = true
  acc : Map.sorted m.acc = true
  accPoison : Map.sorted m.accPoison = true
  staged : Map.sorted m.staged = true

/-- k steps from s neither fault nor refuse. -/
def runsSafely : Nat → State → Prop
  | 0, _ => True
  | k + 1, s =>
    match step s with
    | .next s' => runsSafely k s'
    | _ => False

end Sys2Proof
end

