-- ==== Sys2Proof/Certificates/Slice0/Obligations.lean ====
section
/-! DEFINITION. The statements about the model, for the provers, and the vocabulary they are stated in. -/

namespace Sys2Proof.Claim

open Sys2Proof.Machine

/-! ## What holds when an instruction issues -/

/-- The instruction i meets state s with the issue group `is` of the crew c in progress, its fields used as the form m
says; no cause bars the whole group (05 R73, 07 R94), and no thread's read of a register raises one (05 R69 to R75). -/
structure ReadyAs (i : Instr) (m : Form) (s : State) (is : Issue) (c : Crew) : Prop where
  cur : s.cur = some is
  crew : s.crews.get is.crew = some c
  unbarred : groupBar i m is c = none
  reads : readRaised i m is c = []

/-- The same with the form of the instruction's encoding. -/
abbrev Ready (i : Instr) (s : State) (is : Issue) (c : Crew) : Prop := ReadyAs i i.form s is c

/-- The participants of an issue all of whose threads take part, with the words of their operands. -/
def partsAs (m : Form) (i : Instr) (is : Issue) (c : Crew) : List Part1 := (lanesOf is.lanes).map (partAt m i.fields c)

/-- The same with the form of the instruction's encoding. -/
abbrev parts (i : Instr) (is : Issue) (c : Crew) : List Part1 := partsAs i.form i is c

/-! ## What an issue leaves unchanged -/

/-- A crew keeps all but its threads, its v registers, its results on their way, its PC table and its issue clocks: also what
it has written, acquired and knows of other agents' writes (11 R149, R153). -/
structure CrewKept (c d : Crew) : Prop where
  team : d.team = c.team
  index : d.index = c.index
  nregs : d.nregs = c.nregs
  regrouped : d.regrouped = c.regrouped
  gregs : d.gregs = c.gregs
  conv : d.conv = c.conv
  tokens : d.tokens = c.tokens
  fflags : d.fflags = c.fflags
  stallchk : d.stallchk = c.stallchk
  held : d.held = c.held
  lost : d.lost = c.lost
  signed : d.signed = c.signed
  writeSets : d.writeSets = c.writeSets
  acquired : d.acquired = c.acquired
  know : d.know = c.know
  mopr : d.mopr = c.mopr
  fence : d.fence = c.fence
  reads : d.reads = c.reads
  hgrads : d.hgrads = c.hgrads
  yielded : d.yielded = c.yielded

/-- Every v register word other than those whose last use the instruction marks for its threads keeps its value, and
those are dead (05 R71). -/
def RegsKept (m : Form) (i : Instr) (is : Issue) (c d : Crew) : Prop :=
  ∀ r l, l < 32 →
    if r ∈ killRegs m i.fields ∧ inMask is.lanes l = true then d.isLive r l = false
    else d.regs.get (32 * r + l) = c.regs.get (32 * r + l)

/-- Every other crew is as it was. -/
def OthersKept (key : Nat) (s t : State) : Prop := ∀ k, k ≠ key → t.crews.get k = s.crews.get k

/-- Engines, rings, tiles and regroup tables of every core are as they were: of a core only the charges of 03 R38 and the
counter RFPSN of 05 R74 may differ. -/
def EnginesKept (s t : State) : Prop :=
  ∀ k, t.core k = { s.core k with charges := (t.core k).charges, parts := (t.core k).parts } ∧
    ∀ p, (t.core k).part p = { (s.core k).part p with rfpsn := ((t.core k).part p).rfpsn }

/-- The system die is as it was, but for the counter of corrected errors that RFPSN feeds, with the message of its limit in an
interrupt file (31 R347, R356). -/
def SystemKept (s t : State) : Prop :=
  t.sys = { s.sys with cecnt := t.sys.cecnt, cerate := t.sys.cerate, imsic := t.sys.imsic }

/-- Teams, their contexts on the cores, launches and the dispatcher are as they were. -/
def TeamsKept (s t : State) : Prop :=
  t.teams = s.teams ∧ t.tctxs = s.tctxs ∧ t.launches = s.launches ∧ t.disp = s.disp

/-- Everything but the issuing crew, the charges and the counters of poisoned reads is as it was: the clock, every byte
of memory with its translations, every other crew, the engines, teams, dispatcher, system die and near-memory units. -/
structure MachineKept (is : Issue) (s t : State) : Prop where
  clock : t.clock = s.clock
  others : OthersKept is.crew s t
  mem : t.mem = s.mem
  engines : EnginesKept s t
  system : SystemKept s t
  teams : TeamsKept s t
  near : t.near = s.near
  sleepers : t.sleepers = s.sleepers

/-! ## What an issue does -/

/-- A result on its way to v registers (05 R67, R68): for each participant the words g gives, in consecutive registers
from vd, with the flags of all participants ORed; nothing is posted when there is neither a word nor a flag. -/
def Posts (m : Form) (i : Instr) (s : State) (is : Issue) (c d : Crew) (g : Part1 → List Word × Flags) : Prop :=
  let ps := partsAs m i is c
  let fl := ps.foldl (fun a p => a ||| (g p).2) 0#5
  if (∀ p ∈ ps, (g p).1 = []) ∧ fl = 0#5 then d.pend = c.pend
  else
    ∃ r, d.pend = c.pend ++ [r] ∧ r.seq = c.issues + 1 ∧ r.flags = fl ∧ r.memory = false ∧ r.greg = none ∧
      (∀ n, m.lat = .fixed n → r.due = some (s.clock + n) ∧ r.board = false) ∧
      (m.lat = .board → r.due = none ∧ r.board = true) ∧
      ∀ k l, l < 32 → r.writes.get (32 * k + l) =
        if inMask is.lanes l = true ∧ i.fields.vd ≤ k then (g (partAt m i.fields c l)).1[k - i.fields.vd]? else none

/-- The instruction i, met in s by the issue group `is` of the crew c, completes: exec answers a next state in which
each thread of the group stands as move says, the words and flags g gives are on their way to vd, registers named as
last uses are dead, and the rest of the machine is s' and the rest of the crew c'. -/
def GivesAs (m : Form) (i : Instr) (s : State) (is : Issue) (c : Crew) (s' : State) (c' : Crew)
    (move : Nat → Thread → Thread) (g : Part1 → List Word × Flags) : Prop :=
  ∃ t d, exec i s = .next t ∧ t.crews.get is.crew = some d ∧
    (∀ l, l < 32 → d.thread l = if inMask is.lanes l then move l (c'.thread l) else c'.thread l) ∧
    Posts m i s is c d g ∧ RegsKept m i is c d ∧ CrewKept c' d ∧ MachineKept is s' t

/-- The same with the form of the instruction's encoding. -/
abbrev Gives (i : Instr) (s : State) (is : Issue) (c : Crew) (s' : State) (c' : Crew) (move : Nat → Thread → Thread)
    (g : Part1 → List Word × Flags) : Prop := GivesAs i.form i s is c s' c' move g

/-- Each thread of the issue group stands at the next repetition or past the instruction. -/
def onward (is : Issue) : Nat → Thread → Thread := fun _ t => is.after t

/-- Neither words nor flags. -/
def nothing : Part1 → List Word × Flags := fun _ => ([], 0)

/-- An instruction that computes within lanes (13 R161): whenever it issues with nothing barred, its threads move on, the
result g gives is on its way to vd, and nothing else changes. -/
def LaneGives (i : Instr) (g : Part1 → List Word × Flags) : Prop :=
  ∀ s is c, Ready i s is c → Gives i s is c s c (onward is) g

/-- The same for an instruction whose lanes see all participants (15 R185). -/
def CrossGives (i : Instr) (g : List Part1 → Part1 → List Word × Flags) : Prop :=
  ∀ s is c, Ready i s is c → Gives i s is c s c (onward is) (g (parts i is c))

/-- One word and no flags from operand words a and b. -/
abbrev ofAB (g : Word → Word → Word) : Part1 → List Word × Flags := fun p => ([g (w p.a 0) (w p.b 0)], 0)
/-- One word and no flags from operand word a. -/
abbrev ofA (g : Word → Word) : Part1 → List Word × Flags := fun p => ([g (w p.a 0)], 0)
/-- One word and no flags from the old vd and operand words a and b. -/
abbrev ofDAB (g : Word → Word → Word → Word) : Part1 → List Word × Flags :=
  fun p => ([g (w p.d 0) (w p.a 0) (w p.b 0)], 0)
/-- A word and flags from operand words a and b. -/
abbrev withFlags2 (g : Word → Word → Word × Flags) : Part1 → List Word × Flags :=
  fun p => ([(g (w p.a 0) (w p.b 0)).1], (g (w p.a 0) (w p.b 0)).2)
/-- A word and flags from operand word a. -/
abbrev withFlags1 (g : Word → Word × Flags) : Part1 → List Word × Flags :=
  fun p => ([(g (w p.a 0)).1], (g (w p.a 0)).2)
/-- A word and flags from the old vd and operand words a and b. -/
abbrev withFlags3 (g : Word → Word → Word → Word × Flags) : Part1 → List Word × Flags :=
  fun p => ([(g (w p.d 0) (w p.a 0) (w p.b 0)).1], (g (w p.d 0) (w p.a 0) (w p.b 0)).2)

/-! ## Numbers -/

/-- round_rne of an exact result with the flags of 09 R106: NV when the operation is invalid or an operand is a
signalling NaN. -/
def rounded (x : FNum) (invalid : Bool) (ws : List Word) : Word × Flags :=
  ((round32 .rne x).1, (round32 .rne x).2 ||| flagIf (invalid || ws.any isSnan) flagNV)

/-- Infinities of both signs. -/
def oppositeInfinities (x y : FNum) : Bool := x.isInf && y.isInf && x.isNeg != y.isNeg

/-- 0 × ∞. -/
def zeroTimesInf (x y : FNum) : Bool := (x.isZero && y.isInf) || (x.isInf && y.isZero)

/-- The order of FMIN and FMAX: the real order with −0 below +0 (13 R176). -/
def fpLess (a b : Word) : Bool :=
  (num32 a).lt (num32 b) || ((num32 a).isZero && (num32 b).isZero && (num32 a).isNeg && !(num32 b).isNeg)

/-- FADD of two words (13 R175). -/
def sumOf (a b : Word) : Word × Flags :=
  rounded (FNum.sum [num32 a, num32 b]) (oppositeInfinities (num32 a) (num32 b)) [a, b]

/-- FSUB of two words: the difference is the sum with the negated number (13 R175). -/
def differenceOf (a b : Word) : Word × Flags :=
  rounded (FNum.sum [num32 a, (num32 b).negate]) (oppositeInfinities (num32 a) (num32 b).negate) [a, b]

/-- FMUL of two words (13 R175). -/
def productOf (a b : Word) : Word × Flags :=
  rounded (FNum.mul (num32 a) (num32 b)) (zeroTimesInf (num32 a) (num32 b)) [a, b]

/-- The lesser or the greater of two words (13 R176). -/
def lesserOf (a b : Word) : Word × Flags :=
  (if isNan a then (if isNan b then canonicalNan else b) else if isNan b then a else if fpLess a b then a else b,
   flagIf (isSnan a || isSnan b) flagNV)
def greaterOf (a b : Word) : Word × Flags :=
  (if isNan a then (if isNan b then canonicalNan else b) else if isNan b then a else if fpLess a b then b else a,
   flagIf (isSnan a || isSnan b) flagNV)

/-- 1 when a condition holds, else 0. -/
def bit (p : Bool) : Word := if p then 1#32 else 0#32

/-- Both operands are numbers. -/
def ordered (a b : Word) : Bool := !(isNan a || isNan b)

/-- FCMP's flags: NV for any NaN when the condition is an order, else for a signalling NaN (13 R177). -/
def compareFlags (order : Bool) (a b : Word) : Flags :=
  flagIf (if order then isNan a || isNan b else isSnan a || isSnan b) flagNV

/-- Bits [63:32] of a 64-bit value. -/
def highHalf (v : BitVec 64) : Word := v.extractLsb' 32 32

/-- The two words of a pair, the low word first (05 R58). -/
def pairWords (v : BitVec 64) : List Word := [v.setWidth 32, highHalf v]

/-- Little-endian bytes of a word (00 R3). -/
def bytesOfWord {n : Nat} (k : Nat) (v : BitVec n) : List Byte := (List.range k).map fun j => v.extractLsb' (8 * j) 8

/-- A word of little-endian bytes (00 R3). -/
def wordOfBytes (n : Nat) (bs : List Byte) : BitVec (8 * n) :=
  (List.range n).foldl (fun v j => v ||| ((bs.getD j 0).setWidth (8 * n) <<< (8 * j))) 0

/-- A pair's 64 bits (05 R58). -/
def pairOf (ws : List Word) : BitVec 64 := w ws 1 ++ w ws 0

end Sys2Proof.Claim

open Sys2Proof Sys2Proof.Machine Sys2Proof.Claim

/-! ## Lane arithmetic (chapter 13) -/

/-- 13 R165: the moves copy bit for bit; NOP posts nothing. -/
def Sys2Proof.Claim.MovesCopyTheirSource : Prop :=
  (∀ f, LaneGives (.nop f) nothing) ∧
  (∀ f, LaneGives (.mov f) fun p => ([w p.b 0], 0)) ∧
  (∀ f : VI, LaneGives (.movi f) fun _ => ([f.imm.signExtend 32], 0)) ∧
  (∀ f : G9, LaneGives (.gmov f) fun p => ([w p.b 0], 0)) ∧
  (∀ f (s : State) is c, Ready (.gmov f) s is c → ∀ p ∈ parts (.gmov f) is c, w p.b 0 = c.greg f.n.toNat)

/-- 13 R168: the two-source integer instructions, with the immediates of 07 R86. -/
def Sys2Proof.Claim.IntegerArithmeticGivesItsResults : Prop :=
  (∀ f, LaneGives (.add f) (ofAB fun a b => a + b)) ∧
  (∀ f : VI, LaneGives (.addImm f) (ofA fun a => a + f.imm.signExtend 32)) ∧
  (∀ f, LaneGives (.sub f) (ofAB fun a b => a - b)) ∧
  (∀ f : VI, LaneGives (.subImm f) (ofA fun a => a - f.imm.signExtend 32)) ∧
  (∀ f, LaneGives (.mul f) (ofAB fun a b => a * b)) ∧
  (∀ f : VI, LaneGives (.mulImm f) (ofA fun a => a * f.imm.signExtend 32)) ∧
  (∀ f, LaneGives (.mulhi f) (ofAB fun a b => highHalf (a.signExtend 64 * b.signExtend 64))) ∧
  (∀ f, LaneGives (.mulhu f) (ofAB fun a b => highHalf (a.setWidth 64 * b.setWidth 64))) ∧
  (∀ f, LaneGives (.imad f) (ofDAB fun d a b => a * b + d)) ∧
  (∀ f, LaneGives (.imin f) (ofAB fun a b => if a.sle b then a else b)) ∧
  (∀ f, LaneGives (.imax f) (ofAB fun a b => if b.sle a then a else b)) ∧
  (∀ f, LaneGives (.umin f) (ofAB fun a b => if a.ule b then a else b)) ∧
  (∀ f, LaneGives (.umax f) (ofAB fun a b => if b.ule a then a else b))

/-- 13 R168 and R169: logic, and shifts and the rotate by any count. -/
def Sys2Proof.Claim.LogicAndShiftsGiveTheirResults : Prop :=
  (∀ f, LaneGives (.and32 f) (ofAB fun a b => a &&& b)) ∧
  (∀ f : VI, LaneGives (.andImm f) (ofA fun a => a &&& f.imm.setWidth 32)) ∧
  (∀ f, LaneGives (.or32 f) (ofAB fun a b => a ||| b)) ∧
  (∀ f : VI, LaneGives (.orImm f) (ofA fun a => a ||| f.imm.setWidth 32)) ∧
  (∀ f, LaneGives (.xor f) (ofAB fun a b => a ^^^ b)) ∧
  (∀ f : VI, LaneGives (.xorImm f) (ofA fun a => a ^^^ f.imm.setWidth 32)) ∧
  (∀ f, LaneGives (.andn f) (ofAB fun a b => a &&& ~~~b)) ∧
  (∀ f, LaneGives (.shl f) (ofAB fun a b => a <<< b.toNat)) ∧
  (∀ f : VI, LaneGives (.shlImm f) (ofA fun a => a <<< f.imm.toNat)) ∧
  (∀ f, LaneGives (.shr f) (ofAB fun a b => a >>> b.toNat)) ∧
  (∀ f : VI, LaneGives (.shrImm f) (ofA fun a => a >>> f.imm.toNat)) ∧
  (∀ f, LaneGives (.sar f) (ofAB fun a b => a.sshiftRight b.toNat)) ∧
  (∀ f : VI, LaneGives (.sarImm f) (ofA fun a => a.sshiftRight f.imm.toNat)) ∧
  (∀ f, LaneGives (.rol f) (ofAB fun a b => a.rotateLeft (b.toNat % 32))) ∧
  (∀ f : VI, LaneGives (.rolImm f) (ofA fun a => a.rotateLeft (f.imm.toNat % 32)))

/-- 13 R170 and R171: bit counts, bit reversal and bit fields. -/
def Sys2Proof.Claim.BitInstructionsGiveTheirResults : Prop :=
  (∀ f, LaneGives (.clz f) (ofA fun a => BitVec.ofNat 32 ((List.range 32).countP fun k => a >>> k = 0#32))) ∧
  (∀ f, LaneGives (.popc f) (ofA fun a => BitVec.ofNat 32 ((List.range 32).countP fun k => a.getLsbD k))) ∧
  (∀ f, LaneGives (.brev f) (ofA fun a => a.reverse)) ∧
  (∀ f, LaneGives (.bfx f) (ofAB fun a b =>
    let field := a.extractLsb' (b.extractLsb' 0 5).toNat ((b.extractLsb' 8 5).toNat + 1)
    if b.getLsbD 15 then field.signExtend 32 else field.setWidth 32)) ∧
  (∀ f, LaneGives (.bfi f) (ofDAB fun d a b =>
    let pos := (b.extractLsb' 0 5).toNat
    let mask := (BitVec.allOnes ((b.extractLsb' 8 5).toNat + 1)).setWidth 32 <<< pos
    (d &&& ~~~mask) ||| ((a <<< pos) &&& mask)))

/-- The integer, logic, shift and bit instructions give the results of their tables and change nothing else. -/
def Obligations.IntegerInstructionsGiveTheirResults : Prop :=
  Claim.IntegerArithmeticGivesItsResults ∧ Claim.LogicAndShiftsGiveTheirResults ∧ Claim.BitInstructionsGiveTheirResults

/-- 13 R172 and R173: the integer conditions and SEL. -/
def Obligations.ComparesAndSelectGiveTheirResults : Prop :=
  (∀ f, LaneGives (.icmpEq f) (ofAB fun a b => bit (a == b))) ∧
  (∀ f, LaneGives (.icmpNe f) (ofAB fun a b => bit (a != b))) ∧
  (∀ f, LaneGives (.icmpLt f) (ofAB fun a b => bit (a.slt b))) ∧
  (∀ f, LaneGives (.icmpLe f) (ofAB fun a b => bit (a.sle b))) ∧
  (∀ f, LaneGives (.icmpLtu f) (ofAB fun a b => bit (a.ult b))) ∧
  (∀ f, LaneGives (.icmpLeu f) (ofAB fun a b => bit (a.ule b))) ∧
  (∀ f, LaneGives (.icmpGt f) (ofAB fun a b => bit (b.slt a))) ∧
  (∀ f, LaneGives (.icmpGtu f) (ofAB fun a b => bit (b.ult a))) ∧
  (∀ f, LaneGives (.sel f) (ofDAB fun d a b => if d = 0#32 then b else a))

/-- 13 R174: the address-pair instructions, modulo 2^64. -/
def Sys2Proof.Claim.AddressPairsGiveTheirResults : Prop :=
  (∀ f, LaneGives (.addw f) fun p => (pairWords (pairOf p.a + (w p.b 0).signExtend 64), 0)) ∧
  (∀ f, LaneGives (.scaddw2 f) fun p => (pairWords (pairOf p.a + 2 * (w p.b 0).signExtend 64), 0)) ∧
  (∀ f, LaneGives (.scaddw4 f) fun p => (pairWords (pairOf p.a + 4 * (w p.b 0).signExtend 64), 0)) ∧
  (∀ f, LaneGives (.scaddw8 f) fun p => (pairWords (pairOf p.a + 8 * (w p.b 0).signExtend 64), 0)) ∧
  (∀ f, LaneGives (.scaddw16 f) fun p => (pairWords (pairOf p.a + 16 * (w p.b 0).signExtend 64), 0))

/-- The moves copy bit for bit, and address pairs add modulo 2^64. -/
def Obligations.MovesAndAddressPairsGiveTheirResults : Prop :=
  Claim.MovesCopyTheirSource ∧ Claim.AddressPairsGiveTheirResults

/-- 07 R80: the 16-bit forms act as their 32-bit forms. -/
def Obligations.HalfFormsActAsTheirLongForms : Prop :=
  (∀ f, LaneGives (.mov16 f) fun p => ([w p.b 0], 0)) ∧
  (∀ f, LaneGives (.add16 f) (ofAB fun a b => a + b)) ∧
  (∀ f, LaneGives (.sub16 f) (ofAB fun a b => a - b)) ∧
  (∀ f, LaneGives (.and16 f) (ofAB fun a b => a &&& b)) ∧
  (∀ f, LaneGives (.or16 f) (ofAB fun a b => a ||| b)) ∧
  (∀ f, LaneGives (.xor16 f) (ofAB fun a b => a ^^^ b)) ∧
  (∀ f, LaneGives (.shl16 f) (ofAB fun a b => a <<< b.toNat)) ∧
  (∀ f, LaneGives (.shr16 f) (ofAB fun a b => a >>> b.toNat)) ∧
  (∀ f, LaneGives (.sar16 f) (ofAB fun a b => a.sshiftRight b.toNat)) ∧
  (∀ f, LaneGives (.imin16 f) (ofAB fun a b => if a.sle b then a else b)) ∧
  (∀ f, LaneGives (.imax16 f) (ofAB fun a b => if b.sle a then a else b)) ∧
  (∀ f, LaneGives (.fadd16 f) (withFlags2 sumOf)) ∧
  (∀ f, LaneGives (.fsub16 f) (withFlags2 differenceOf)) ∧
  (∀ f, LaneGives (.fmul16 f) (withFlags2 productOf)) ∧
  (∀ f, LaneGives (.fmin16 f) (withFlags2 lesserOf)) ∧
  (∀ f, LaneGives (.fmax16 f) (withFlags2 greaterOf))

/-- 13 R175: FP32 arithmetic is the exact result rounded once, with its flags. -/
def Obligations.FloatArithmeticRoundsTheExactResultOnce : Prop :=
  (∀ f, LaneGives (.fadd f) (withFlags2 sumOf)) ∧
  (∀ f, LaneGives (.fsub f) (withFlags2 differenceOf)) ∧
  (∀ f, LaneGives (.fmul f) (withFlags2 productOf)) ∧
  (∀ f, LaneGives (.ffma f) (withFlags3 fun d a b =>
    let x := FNum.mul (num32 a) (num32 b)
    rounded (FNum.sum [num32 d, x])
      (zeroTimesInf (num32 a) (num32 b) || oppositeInfinities (num32 d) x) [a, b, d])) ∧
  (∀ f, LaneGives (.ffms f) (withFlags3 fun d a b =>
    let x := FNum.mul (num32 a) (num32 b)
    let z := (num32 d).negate
    rounded (FNum.sum [z, x]) (zeroTimesInf (num32 a) (num32 b) || oppositeInfinities z x) [a, b, d]))

/-- 13 R176 and R178: minimum, maximum, clamping and the bit instructions of FP32. -/
def Sys2Proof.Claim.FloatSelectionAndBitsGiveTheirResults : Prop :=
  (∀ f, LaneGives (.fmin f) (withFlags2 lesserOf)) ∧
  (∀ f, LaneGives (.fmax f) (withFlags2 greaterOf)) ∧
  (∀ f, LaneGives (.fsat f) (withFlags1 fun a =>
    (if isNan a || a.msb then 0#32 else if 0x3F800000#32 < a then 0x3F800000#32 else a, flagIf (isSnan a) flagNV))) ∧
  (∀ f, LaneGives (.fclass f) (ofA fun a =>
    let e := a.extractLsb' 23 8
    let x := a.extractLsb' 0 23
    if e = 255#8 then
      (if x = 0#23 then (if a.msb then 0x001#32 else 0x080#32) else if x.msb then 0x200#32 else 0x100#32)
    else if e = 0#8 then
      (if x = 0#23 then (if a.msb then 0x008#32 else 0x010#32) else if a.msb then 0x004#32 else 0x020#32)
    else if a.msb then 0x002#32 else 0x040#32)) ∧
  (∀ f, LaneGives (.fcopysign f) (ofAB fun a b => b.extractLsb' 31 1 ++ a.extractLsb' 0 31)) ∧
  (∀ f, LaneGives (.fabs f) (ofA fun a => 0#1 ++ a.extractLsb' 0 31)) ∧
  (∀ f, LaneGives (.fneg f) (ofA fun a => ~~~(a.extractLsb' 31 1) ++ a.extractLsb' 0 31))

/-- 13 R177: the FP32 conditions with their flags. -/
def Sys2Proof.Claim.FloatComparesGiveTheirResults : Prop :=
  let le (a b : Word) : Bool := ordered a b && (num32 a).le (num32 b)
  let lt (a b : Word) : Bool := ordered a b && (num32 a).lt (num32 b)
  (∀ f, LaneGives (.fcmpEq f) (withFlags2 fun a b => (bit (le a b && le b a), compareFlags false a b))) ∧
  (∀ f, LaneGives (.fcmpNe f) (withFlags2 fun a b => (bit !(le a b && le b a), compareFlags false a b))) ∧
  (∀ f, LaneGives (.fcmpLt f) (withFlags2 fun a b => (bit (lt a b), compareFlags true a b))) ∧
  (∀ f, LaneGives (.fcmpLe f) (withFlags2 fun a b => (bit (le a b), compareFlags true a b))) ∧
  (∀ f, LaneGives (.fcmpGt f) (withFlags2 fun a b => (bit (lt b a), compareFlags true a b))) ∧
  (∀ f, LaneGives (.fcmpGe f) (withFlags2 fun a b => (bit (le b a), compareFlags true a b))) ∧
  (∀ f, LaneGives (.fcmpOrd f) (withFlags2 fun a b => (bit (ordered a b), compareFlags false a b))) ∧
  (∀ f, LaneGives (.fcmpUno f) (withFlags2 fun a b => (bit !(ordered a b), compareFlags false a b)))

/-- FP32 minimum, maximum, clamping, conditions and bit instructions give their results and flags. -/
def Obligations.FloatSelectionComparesAndBitsGiveTheirResults : Prop :=
  Claim.FloatSelectionAndBitsGiveTheirResults ∧ Claim.FloatComparesGiveTheirResults

/-- 09 R119 with 09 R113: the register conversions, in the mode of the encoding (07 R87). That a zero which FRND gives for a nonzero
operand keeps its sign is the family's (log 76, PRESUMED). -/
def Sys2Proof.Claim.ConversionsGiveTheirResults : Prop :=
  let mode (f : V3) : Mode := Mode.ofCode (f.vb.toNat % 4)
  (∀ f, LaneGives (.frnd f) (withFlags1 fun a =>
    match num32 a with
    | .nan => (canonicalNan, flagIf (isSnan a) flagNV)
    | .inf _ => (a, 0)
    | .fin n m =>
      if m.isZero then (a, 0) else ((round32 .rne (.fin n (Q.int (roundInt (mode f) n m)))).1, 0))) ∧
  (∀ f, LaneGives (.fcvti f) (withFlags1 fun a =>
    match num32 a with
    | .nan => (0#32, flagNV)
    | .inf n => (if n then 0x80000000#32 else 0x7FFFFFFF#32, flagNV)
    | .fin n m =>
      let v : Int := if n then -(roundInt (mode f) n m : Int) else roundInt (mode f) n m
      if v < -2 ^ 31 then (0x80000000#32, flagNV)
      else if 2 ^ 31 ≤ v then (0x7FFFFFFF#32, flagNV)
      else (BitVec.ofInt 32 v, flagIf (!(m.eq (Q.int (roundInt (mode f) n m)))) flagNX))) ∧
  (∀ f, LaneGives (.icvtf f) (withFlags1 fun a =>
    round32 (mode f) (.fin (decide (a.toInt < 0)) ⟨(a.toInt.natAbs : Int), 1⟩))) ∧
  (∀ f, LaneGives (.ucvtf f) (withFlags1 fun a => round32 (mode f) (.fin false ⟨(a.toNat : Int), 1⟩)))

/-- 09 R113: rounding of a magnitude t with the sign neg to an integer takes the nearest integer, ties to even, or the
neighbour the mode names. -/
def Sys2Proof.Claim.RoundingToIntegersFollowsTheMode : Prop :=
  ∀ (neg : Bool) (t : Q), 0 < t.den → 0 ≤ t.num →
    let below := t.num.toNat / t.den
    let rest := t.num.toNat % t.den
    roundInt .rtz neg t = below ∧
    roundInt .rdn neg t = (if neg ∧ rest ≠ 0 then below + 1 else below) ∧
    roundInt .rup neg t = (if ¬ neg ∧ rest ≠ 0 then below + 1 else below) ∧
    roundInt .rne neg t =
      (if 2 * rest < t.den then below else if t.den < 2 * rest then below + 1
       else if below % 2 = 0 then below else below + 1)

/-- The register conversions round by their mode, and rounding to an integer takes the neighbour the mode names. -/
def Obligations.ConversionsRoundByTheirMode : Prop :=
  Claim.RoundingToIntegersFollowsTheMode ∧ Claim.ConversionsGiveTheirResults

/-- 09 R121: the special functions complete; quotients and square roots by their exact values, and the special operands
of all eight; FSINPI and FCOSPI give 0 and 1 exactly at the multiples of ½. The other values of FEXP2, FLOG2, FSINPI, FCOSPI and FTANH are those of the model's named functions. -/
def Obligations.SpecialFunctionsGiveTheirResults : Prop :=
  (∀ f, LaneGives (.frcp f) (withFlags1 fun a =>
    match num32 a with
    | .nan => (canonicalNan, flagIf (isSnan a) flagNV)
    | .inf n => (zeroWord n, 0)
    | .fin n m =>
      if m.isZero then (infWord n, flagDZ) else round32 .rne (.fin n (Q.of m.den m.num.natAbs)))) ∧
  (∀ f, LaneGives (.frsq f) (withFlags1 fun a =>
    match num32 a with
    | .nan => (canonicalNan, flagIf (isSnan a) flagNV)
    | .inf n => if n then (canonicalNan, flagNV) else (0#32, 0)
    | .fin n m =>
      if m.isZero then (infWord n, flagDZ) else if n then (canonicalNan, flagNV)
      else round32 .rne (.fin false (sqrtRep (Q.of m.den m.num.natAbs))))) ∧
  (∀ f, LaneGives (.fsqrt f) (withFlags1 fun a =>
    match num32 a with
    | .nan => (canonicalNan, flagIf (isSnan a) flagNV)
    | .inf n => if n then (canonicalNan, flagNV) else (a, 0)
    | .fin n m =>
      if m.isZero then (a, 0) else if n then (canonicalNan, flagNV) else round32 .rne (.fin false (sqrtRep m)))) ∧
  (∀ f, LaneGives (.fexp2 f) (withFlags1 fexp2)) ∧ (∀ f, LaneGives (.flog2 f) (withFlags1 flog2)) ∧
  (∀ f, LaneGives (.fsinpi f) (withFlags1 fsinpi)) ∧ (∀ f, LaneGives (.fcospi f) (withFlags1 fcospi)) ∧
  (∀ f, LaneGives (.ftanh f) (withFlags1 ftanh)) ∧
  (∀ a, isNan a = true → ∀ g ∈ [fexp2, flog2, fsinpi, fcospi, ftanh], g a = (canonicalNan, flagIf (isSnan a) flagNV)) ∧
  fexp2 (infWord true) = (0#32, 0) ∧ fexp2 (infWord false) = (infWord false, 0) ∧
  (∀ n, fexp2 (zeroWord n) = (0x3F800000#32, 0)) ∧
  (∀ n, flog2 (zeroWord n) = (infWord true, flagDZ)) ∧ flog2 (infWord false) = (infWord false, 0) ∧
  (∀ a : Word, isNan a = false → a.msb = true → a ≠ zeroWord true → flog2 a = (canonicalNan, flagNV)) ∧
  flog2 0x3F800000#32 = (0#32, 0) ∧
  (∀ n, fsinpi (zeroWord n) = (zeroWord n, 0)) ∧ (∀ n, fsinpi (infWord n) = (canonicalNan, flagNV)) ∧
  (∀ a n m, num32 a = .fin n m → m.isZero = false → m.num % m.den = 0 → fsinpi a = (zeroWord n, 0)) ∧
  (∀ n, fcospi (infWord n) = (canonicalNan, flagNV)) ∧
  (∀ a n m, num32 a = .fin n m → m.num % m.den ≠ 0 → 2 * m.num % m.den = 0 →
    fcospi a = (0#32, 0) ∧ fsinpi a = (0x3F800000#32 ||| zeroWord (n != decide (m.num / m.den % 2 = 1)), 0)) ∧
  (∀ a n m, num32 a = .fin n m → m.num % m.den = 0 → fcospi a = (0x3F800000#32 ||| zeroWord (decide (m.num / m.den % 2 = 1)), 0)) ∧
  (∀ n, ftanh (zeroWord n) = (zeroWord n, 0)) ∧ (∀ n, ftanh (infWord n) = (0x3F800000#32 ||| zeroWord n, 0))

namespace Sys2Proof.Claim

open Sys2Proof.Machine

/-- prod of 13 R183: 0 when either argument is zero, else the extended-real product. -/
def slabProduct (x y : FNum) : FNum := if x.isZero || y.isZero then .fin false ⟨0, 1⟩ else x.mul y

/-- The lesser and the greater of two extended reals. -/
def lesser (x y : FNum) : FNum := if y.lt x then y else x
def greater (x y : FNum) : FNum := if x.lt y then y else x

/-- An extended real rounded to an FP32 number, an exact zero to +0 (13 R183). -/
def edge (mode : Mode) (x : FNum) : FNum :=
  match num32 (round32 mode x).1 with
  | .fin n m => .fin (n && !m.isZero) m
  | y => y

/-- RBOX's word (13 R183): the ray a of origin and inverse direction against the box b of low and high corners, between the
distances of c: the entry into the last slab entered, where it is not beyond the exit of the first slab left. -/
def boxWord (a b c : List Word) : Word :=
  let near (k : Nat) : FNum := slabProduct (FNum.sum [num32 (w b k), (num32 (w a k)).negate]) (num32 (w a (3 + k)))
  let far (k : Nat) : FNum := slabProduct (FNum.sum [num32 (w b (3 + k)), (num32 (w a k)).negate]) (num32 (w a (3 + k)))
  let into (k : Nat) : FNum := edge .rdn (lesser (near k) (far k))
  let out (k : Nat) : FNum := edge .rup (greater (near k) (far k))
  let enter := greater (greater (greater (num32 (w c 0)) (into 0)) (into 1)) (into 2)
  let leave := lesser (lesser (lesser (num32 (w c 1)) (out 0)) (out 1)) (out 2)
  let open' := !(a ++ b ++ c).any isNan && !(num32 (w a 0)).isInf && !(num32 (w a 1)).isInf && !(num32 (w a 2)).isInf
  if open' && enter.le leave then (if enter.isZero then 0#32 else (round32 .rne enter).1) else 0x7F800000#32

/-- The exact value of a finite word. -/
def exact (a : Word) : Rat := ((num32 a).val.num : Rat) / ((num32 a).val.den : Rat)

/-- round_rne of an exact value; an exact zero gives +0 (13 R184). -/
def nearest (x : Rat) : Word := (round32 .rne (.fin (decide (x < 0)) ⟨(x.num.natAbs : Int), x.den⟩)).1

/-- The vector in three consecutive words, differences, and the dot and cross products. -/
def vector (ws : List Word) (k : Nat) : Rat × Rat × Rat := (exact (w ws k), exact (w ws (k + 1)), exact (w ws (k + 2)))
def less (a b : Rat × Rat × Rat) : Rat × Rat × Rat := (a.1 - b.1, a.2.1 - b.2.1, a.2.2 - b.2.2)
def dot (a b : Rat × Rat × Rat) : Rat := a.1 * b.1 + a.2.1 * b.2.1 + a.2.2 * b.2.2
def cross (a b : Rat × Rat × Rat) : Rat × Rat × Rat :=
  (a.2.1 * b.2.2 - a.2.2 * b.2.1, a.2.2 * b.1 - a.1 * b.2.2, a.1 * b.2.1 - a.2.1 * b.1)

/-- RTRI's words (13 R184): the ray of origin and direction against a triangle of three vertices, between the distances of
rc: decided on exact values, the distance and the weights of the second and third vertex rounded. -/
def triangleWords (cull : Bool) (ray tri bounds : List Word) : List Word :=
  let d := vector ray 3
  let a := less (vector tri 0) (vector ray 0)
  let b := less (vector tri 3) (vector ray 0)
  let c := less (vector tri 6) (vector ray 0)
  let u := dot d (cross b c)
  let v := dot d (cross c a)
  let x := dot d (cross a b)
  let det := u + v + x
  let t := dot a (cross b c) / det
  if ((ray ++ tri ++ bounds).all fun y => (num32 y).isFin) = true ∧ det ≠ 0 ∧
      ((0 ≤ u ∧ 0 ≤ v ∧ 0 ≤ x) ∨ (u ≤ 0 ∧ v ≤ 0 ∧ x ≤ 0)) ∧ ¬ (cull = true ∧ det < 0) ∧
      exact (w bounds 0) ≤ t ∧ t ≤ exact (w bounds 1) then
    [nearest t, nearest (v / det), nearest (x / det)]
  else [0x7F800000#32, 0#32, 0#32]

end Sys2Proof.Claim

/-- 13 R182 to R184: FFMA4 rounds its exact five-term sum once; RBOX gives the outward-rounded entry of the slabs' common
interval, or +∞; RTRI decides the hit on exact values and rounds the distance and two weights. -/
def Obligations.LongLaneFormsGiveTheirResults : Prop :=
  (∀ f, LaneGives (.ffma4 f) fun p =>
    let x (k : Nat) : FNum := num32 (w p.a k)
    let y (k : Nat) : FNum := num32 (w p.b k)
    let ts := [num32 (w p.c 0), (x 0).mul (y 0), (x 1).mul (y 1), (x 2).mul (y 2), (x 3).mul (y 3)]
    let signs (n : Bool) : Bool := ts.any fun t => t.isInf && t.isNeg == n
    let bad := zeroTimesInf (x 0) (y 0) || zeroTimesInf (x 1) (y 1) || zeroTimesInf (x 2) (y 2) ||
      zeroTimesInf (x 3) (y 3) || (signs true && signs false)
    let r := rounded (FNum.sum ts) bad
      ([w p.c 0] ++ (List.range 4).map (w p.a) ++ (List.range 4).map (w p.b))
    ([r.1], r.2)) ∧
  (∀ f, LaneGives (.rbox f) fun p => ([boxWord p.a p.b p.c], 0)) ∧
  (∀ f : F64, LaneGives (.rtri f) fun p => (triangleWords (f.mod.getLsbD 0) p.a p.b p.c, 0))

/-! ## Group and special registers (13 R166, R167) -/

namespace Sys2Proof.Claim

open Sys2Proof.Machine

/-- The form GSET issues under: its va is read by the lowest lane alone (13 R166). -/
def gsetForm (f : G9) : Form := { Instr.form (.gset f) with a := .no, last := true }

/-- H0 to H15 at a first entry (27 R311): the cause with the repeat index, the PC, the fault value, the words of the
instruction, the mask of the threads that enter, and the number of held codes. -/
def entryWords (t : Thread) (is : Issue) (mask : Lanes) (cause value held : Nat) : List Word :=
  [BitVec.ofNat 32 (cause + t.rep * 2 ^ 16), BitVec.ofNat 32 t.pc.toNat, BitVec.ofNat 32 (t.pc.toNat / 2 ^ 32),
   BitVec.ofNat 32 value, BitVec.ofNat 32 (value / 2 ^ 32), is.h5, is.h6, mask, BitVec.ofNat 32 held,
   0#32, 0#32, 0#32, 0#32, 0#32, 0#32, 0#32]

/-- The issue group of a state: its threads share the PC, the handler flag and the repeat index of the issue (03 R22). -/
def OneGroup (is : Issue) (c : Crew) : Prop :=
  ∀ l ∈ lanesOf is.lanes, (c.thread l).pc = is.pc ∧ (c.thread l).handler = is.handler ∧ (c.thread l).rep = is.rep

/-- In this outcome every thread of the issue group has raised the cause, with the fault value (27 R308, R310 to R312):
outside handler mode it enters the handler of its context at HBASE; in handler mode it moves past the instruction and the
cause is held, with the PC of the first instruction that held it. No register is written, and the rest of the machine is s'. -/
def RaisedByAll (o : Out) (s : State) (is : Issue) (c : Crew) (s' : State) (cause value : Nat) : Prop :=
  let cx := s.context (ctxOf s c)
  ∃ t d, o = .next t ∧ t.crews.get is.crew = some d ∧ d.regs = c.regs ∧ d.pend = c.pend ∧ MachineKept is s' t ∧
    (is.handler = false → CrewKept c d ∧ ∀ l, l < 32 → d.thread l =
      if inMask is.lanes l then
        { c.thread l with
          h := entryWords (c.thread l) is is.lanes cause value c.held.length, handler := true, wait := .awake
          pc := cx.hbase, rep := 0 }
      else c.thread l) ∧
    (is.handler = true → CrewKept { c with held := d.held } d ∧
      d.held = (if (c.held.get cause).isSome then c.held else if is.lanes = 0#32 then c.held else c.held.set cause is.pc) ∧
      ∀ l, l < 32 → d.thread l =
        if inMask is.lanes l then { c.thread l with pc := is.next, rep := 0, wait := .awake } else c.thread l)

/-- The instruction raises the cause in every thread of the issue group. -/
abbrev AllRaiseIn (i : Instr) (s : State) (is : Issue) (c : Crew) (s' : State) (cause value : Nat) : Prop :=
  RaisedByAll (exec i s) s is c s' cause value

/-- The same with nothing else changed. -/
abbrev AllRaise (i : Instr) (s : State) (is : Issue) (c : Crew) (cause value : Nat) : Prop :=
  AllRaiseIn i s is c s cause value

/-- The handler of the crew's context can be entered: HEN is 1, or the group is in handler mode already (27 R310). -/
def CanEnter (s : State) (is : Issue) (c : Crew) : Prop := is.handler = true ∨ (s.context (ctxOf s c)).hen = true

/-- The value of an SPR selector (13 R167). -/
def sprWord (s : State) (is : Issue) (c : Crew) (l : Nat) (sel : Fin 14) : Word :=
  let rank := match s.teams.get c.team with
    | some t => t.cores.findIdx fun k => k = coreOf is.crew
    | none => 0
  [BitVec.ofNat 32 l, BitVec.ofNat 32 c.index, BitVec.ofNat 32 (teamIndex s c),
   ((recordOf s c).map LaunchRecord.teams).getD 0#32, (((recordOf s c).map LaunchRecord.crews).getD 0#10).setWidth 32,
   BitVec.ofNat 32 (coreOf is.crew), BitVec.ofNat 32 rank, BitVec.ofNat 32 (coreOf is.crew / 16),
   BitVec.ofNat 32 (is.crew / 32 % 6), BitVec.ofNat 32 s.clock, BitVec.ofNat 32 (s.clock / 2 ^ 32), is.lanes,
   maskOf ((List.range 32).filter fun l => (c.thread l).live), BitVec.ofNat 32 c.nregs].getD sel 0#32

end Sys2Proof.Claim

/-- 13 R166 with 05 R60: GSET by a group that holds every live thread of its crew writes va of its lowest lane to the
group register 2 clocks later; with a live thread outside the group every thread raises 0x007 and nothing is written. -/
def Sys2Proof.Claim.GsetWritesTheLowestLane : Prop :=
  (∀ (f : G9) s is c l rest, ReadyAs (.gset f) (gsetForm f) s is c → lanesOf is.lanes = l :: rest →
    f.v.toNat < c.nregs → (∀ k ∈ c.liveLanes, inMask is.lanes k = true) → runCause c f.v.toNat 1 l = none →
    ∃ t d r, exec (.gset f) s = .next t ∧ t.crews.get is.crew = some d ∧ d.pend = c.pend ++ [r] ∧
      r.greg = some (f.n.toNat, c.word f.v.toNat l) ∧ r.due = some (s.clock + 2) ∧ r.writes = [] ∧ r.flags = 0#5 ∧
      (∀ k, k < 32 → d.thread k = if inMask is.lanes k then is.after (c.thread k) else c.thread k) ∧
      d.regs = c.regs ∧ CrewKept c d ∧ MachineKept is s t) ∧
  (∀ (f : G9) s is c l rest, ReadyAs (.gset f) (gsetForm f) s is c → lanesOf is.lanes = l :: rest →
    f.v.toNat < c.nregs → (∃ k ∈ c.liveLanes, inMask is.lanes k = false) → runCause c f.v.toNat 1 l = none →
    OneGroup is c → CanEnter s is c → AllRaise (.gset f) s is c 0x007 0)

/-- 13 R167: SPR gives every thread of the group the value its selector names; a selector not listed raises 0x002. -/
def Sys2Proof.Claim.SprReadsTheSelectedValue : Prop :=
  (∀ (f : VI) s is c (sel : Fin 14), f.imm.toNat = sel → Ready (.spr f) s is c →
    Gives (.spr f) s is c s c (onward is) fun p => ([sprWord s is c p.l sel], 0)) ∧
  (∀ (f : VI) s is c, 14 ≤ f.imm.toNat → s.cur = some is → s.crews.get is.crew = some c →
    groupBar (.spr f) (Instr.form (.spr f)) is c = some 0x002 → OneGroup is c → CanEnter s is c →
    AllRaise (.spr f) s is c 0x002 0) ∧
  (∀ (f : VI) is (c : Crew), 14 ≤ f.imm.toNat → ∃ k, k ≤ 0x002 ∧ groupBar (.spr f) (Instr.form (.spr f)) is c = some k)

/-- GSET writes the lowest lane's value or raises 0x007, and SPR gives the value its selector names. -/
def Obligations.GsetAndSprActOnTheirRegisters : Prop :=
  Claim.GsetWritesTheLowestLane ∧ Claim.SprReadsTheSelectedValue

/-! ## Cross-lane instructions (chapter 15) -/

/-- 15 R188 and R189: votes and shuffles over the participants. -/
def Sys2Proof.Claim.VotesAndShufflesSeeTheParticipants : Prop :=
  (∀ f : V3, CrossGives (.vote f) fun ps _ =>
    let held (p : Part1) : Bool := w p.a 0 ≠ 0#32
    ([if f.vb.toNat % 4 = 0 then bit (ps.any held)
      else if f.vb.toNat % 4 = 1 then bit (ps.all held)
      else if f.vb.toNat % 4 = 2 then maskOf ((ps.filter held).map Part1.l)
      else bit (ps.all fun p => ps.all fun q => w p.a 0 == w q.a 0)], 0)) ∧
  (∀ (f : V3) s is c, Ready (.shfl f) s is c → Gives (.shfl f) s is c s c (onward is) fun p =>
    let b := (w p.b 0).toNat
    ([if b < 32 ∧ inMask is.lanes b = true then w (partAt (Instr.form (.shfl f)) (Instr.fields (.shfl f)) c b).a 0
      else w p.a 0], 0))

/-- 15 R190 and R192: ELECT gives every participant the lowest lane, and with SLEEP puts the others to sleep under it;
WAKE wakes past the ELECT exactly the named lanes that sleep under a participant. -/
def Sys2Proof.Claim.ElectAndWakeChooseLeaderAndSleepers : Prop :=
  (∀ f : V3, f.vb.getLsbD 0 = false →
    CrossGives (.elect f) fun ps _ => ([BitVec.ofNat 32 ((ps.map Part1.l).headD 0)], 0)) ∧
  (∀ (f : V3) s is c l rest, f.vb.getLsbD 0 = true → is.handler = false → Ready (.elect f) s is c →
    lanesOf is.lanes = l :: rest →
    Gives (.elect f) s is c s c (fun k t => if k = l then is.after t else { t with wait := .elect l })
      fun _ => ([BitVec.ofNat 32 l], 0)) ∧
  (∀ (f : V3) s is c, Ready (.wake f) s is c →
    let mask := (parts (.wake f) is c).foldl (fun m p => m ||| w p.a 0) 0#32
    let woken (l : Nat) : Bool := inMask mask l && (match (c.thread l).wait with
      | .elect d => decide (d < 32) && inMask is.lanes d
      | _ => false)
    let c' := c.mapThreads ((List.range 32).filter woken) fun _ t => { t with wait := .awake, pc := t.pc + 4 }
    Gives (.wake f) s is c s c' (onward is) nothing)

/-- VOTE, SHFL, ELECT and WAKE act on exactly the participants. -/
def Obligations.CrossLaneInstructionsSeeTheParticipants : Prop :=
  Claim.VotesAndShufflesSeeTheParticipants ∧ Claim.ElectAndWakeChooseLeaderAndSleepers

namespace Sys2Proof.Claim

/-- The reduction of words under an integer operation of 15 R193, from its identity. -/
def reduceInt (op : Fin 8) (ws : List Word) : Word :=
  match op with
  | 0 => ws.foldl (· + ·) 0#32
  | 1 => ws.foldl (fun a b => if a.sle b then a else b) 0x7FFFFFFF#32
  | 2 => ws.foldl (fun a b => if b.sle a then a else b) 0x80000000#32
  | 3 => ws.foldl (fun a b => if a.ule b then a else b) 0xFFFFFFFF#32
  | 4 => ws.foldl (fun a b => if b.ule a then a else b) 0#32
  | 5 => ws.foldl (· &&& ·) 0xFFFFFFFF#32
  | 6 => ws.foldl (· ||| ·) 0#32
  | 7 => ws.foldl (· ^^^ ·) 0#32

/-- The FP32 reductions of 15 R193: 8 the exact sum rounded once, 9 and 10 the lesser and the greater of all. -/
def reduceFp (op : Nat) (ws : List Word) : Word × Flags :=
  match ws with
  | [] => (if op = 8 then 0#32 else if op = 9 then 0x7F800000#32 else 0xFF800000#32, 0)
  | x :: xs =>
    if op = 8 then
      rounded (FNum.sum (ws.map num32))
        ((ws.any fun a => (num32 a).isInf && (num32 a).isNeg) && ws.any fun a => (num32 a).isInf && !(num32 a).isNeg) ws
    else
      let r := xs.foldl (fun a b => if op = 9 then (lesserOf a b).1 else (greaterOf a b).1) x
      (if isNan r then canonicalNan else r, flagIf (ws.any isSnan) flagNV)

/-- A participant's place among the participants in ascending lane order (15 R185). -/
def rankIn (ps : List Part1) (p : Part1) : Nat := (ps.filter fun q => q.l < p.l).length

end Sys2Proof.Claim

/-- 15 R193: LRED and LSCAN for every operation, with empty exclusive prefixes and the FP32 flags. -/
def Sys2Proof.Claim.ReductionsAndScansGiveTheirResults : Prop :=
  (∀ (f : F64) (op : Fin 8), f.mod.toNat % 16 = op →
    CrossGives (.lred f) fun ps _ => ([reduceInt op (ps.map fun p => w p.a 0)], 0)) ∧
  (∀ (f : F64) op, 8 ≤ op → op ≤ 10 → f.mod.toNat % 16 = op →
    CrossGives (.lred f) fun ps _ =>
      let r := reduceFp op (ps.map fun p => w p.a 0)
      ([r.1], r.2)) ∧
  (∀ (f : F64) (op : Fin 8), f.mod.toNat % 16 = op →
    CrossGives (.lscan f) fun ps p =>
      let k := rankIn ps p + (if f.mod.getLsbD 4 then 0 else 1)
      ([reduceInt op ((ps.take k).map fun q => w q.a 0)], 0)) ∧
  (∀ (f : F64) op, 8 ≤ op → op ≤ 10 → f.mod.toNat % 16 = op →
    CrossGives (.lscan f) fun ps p =>
      let k := rankIn ps p + (if f.mod.getLsbD 4 then 0 else 1)
      let r := reduceFp op ((ps.take k).map fun q => w q.a 0)
      ([r.1], r.2 ||| flagIf (isSnan (w p.a 0)) flagNV))

/-- 15 R194 and R195: MATCH, COMPACT and EXPAND; participants that COMPACT and EXPAND do not write keep vd. -/
def Sys2Proof.Claim.MatchingAndPackingGiveTheirResults : Prop :=
  (∀ f : F64, CrossGives (.match64 f) fun ps p =>
    ([maskOf ((ps.filter fun q => w q.a 0 = w p.a 0 ∧ w q.a 1 = w p.a 1).map Part1.l)], 0)) ∧
  (∀ f : F64, CrossGives (.compact f) fun ps p =>
    match (ps.filter fun q => w q.b 0 ≠ 0#32)[rankIn ps p]? with
    | some q => ([w q.a 0], 0)
    | none => ([], 0)) ∧
  (∀ f : F64, CrossGives (.expand f) fun ps p =>
    if w p.b 0 = 0#32 then ([], 0)
    else
      match ps[rankIn (ps.filter fun q => w q.b 0 ≠ 0#32) p]? with
      | some q => ([w q.a 0], 0)
      | none => ([], 0))

/-- LRED, LSCAN, MATCH, COMPACT and EXPAND give their results over the participants. -/
def Obligations.ReductionsScansMatchesAndPacksGiveTheirResults : Prop :=
  Claim.ReductionsAndScansGiveTheirResults ∧ Claim.MatchingAndPackingGiveTheirResults

namespace Sys2Proof.Claim

open Sys2Proof.Machine

/-- What ending threads leaves unchanged: the clock, the crews of other teams, team contexts, launches, the near-memory
units, scratchpads, accumulators, translations and instruction caches. -/
structure EndKept (team : Nat) (s t : State) : Prop where
  clock : t.clock = s.clock
  others : ∀ k d, s.crews.get k = some d → d.team ≠ team → t.crews.get k = some d
  tctxs : t.tctxs = s.tctxs
  launches : t.launches = s.launches
  near : t.near = s.near
  scratch : t.mem.scratch = s.mem.scratch
  acc : t.mem.acc = s.mem.acc
  tlb : t.mem.tlb = s.mem.tlb
  icache : t.mem.icache = s.mem.icache

/-- The threads of the issue group have ended, and the crew has retired when it has no other live thread. -/
def Ended (is : Issue) (c : Crew) (t : State) : Prop :=
  (∀ d, t.crews.get is.crew = some d → ∀ l ∈ lanesOf is.lanes, (d.thread l).live = false) ∧
  ((∀ l ∈ c.liveLanes, inMask is.lanes l = true) → t.crews.get is.crew = none)

/-- Every thread that stands arrived at a convergence register is live (17 R206). -/
def ArrivedLive (c : Crew) : Prop := ∀ e ∈ c.conv, ∀ l, inMask e.2.arrived l = true → (c.thread l).live = true

/-- The payload a participant submits (15 R196): its registers as they stand, the key, and the group registers and
continuation of its crew. -/
def payload (f : F64) (s : State) (is : Issue) (c : Crew) (l : Nat) : Payload :=
  { team := c.team, lane := l, key := (c.word f.vb.toNat l).toNat % 65536, serial := s.serial, crewIndex := c.index
    pc := is.next, gregs := c.gregs, nregs := c.nregs, tlbase := (c.thread l).tlbase
    know := (releaseSig s is.crew 1 [l]).know
    words := (List.range (f.mod.toNat % 16 + 1)).foldl (fun m k =>
      match c.regs.get (32 * (f.va.toNat + k) + l) with
      | some r => m.set (f.va.toNat + k) { r with seq := 0 }
      | none => m) [] }

/-- Payloads the regroup table of a core holds or has formed crews of. -/
def tableSize (k : Core) : Nat := k.payloads.length + (k.formed.map fun x => x.payloads.length).sum

/-- The values an XSEND puts in its slot: va of each participant, 0 for other lanes (15 R198). -/
def sentWords (i : Instr) (is : Issue) (c : Crew) : List Word :=
  (List.range 32).map fun l => if inMask is.lanes l then w (partAt i.form i.fields c l).a 0 else 0#32

end Sys2Proof.Claim

/-- 15 R196 with 03 R47: REGROUP submits the payload of every participant to the core's table, in which each waits or
has joined a formed crew, and the threads end. Premise: the table's serial numbers are those of earlier issues. -/
def Sys2Proof.Claim.RegroupSubmitsPayloadsAndEndsThreads : Prop :=
  ∀ (f : F64) s is c, ReadyAs (.regroup f) { Instr.form (.regroup f) with a := .no } s is c → is.handler = false →
    (c.stallchk = true → ∀ k, k ≤ f.mod.toNat % 16 → ∀ l ∈ lanesOf is.lanes, c.early (f.va.toNat + k) l = false) →
    tableSize (s.core (coreOf is.crew)) + (lanesOf is.lanes).length ≤ 2048 → is.lanes ≠ 0#32 → ArrivedLive c →
    (∀ p ∈ (s.core (coreOf is.crew)).payloads, p.serial < s.serial) →
    ∃ t, exec (.regroup f) s = .next t ∧ Ended is c t ∧ EndKept c.team s t ∧
      ∀ l ∈ lanesOf is.lanes,
        let k := t.core (coreOf is.crew)
        payload f s is c l ∈ k.payloads ∨ ∃ x ∈ k.formed, payload f s is c l ∈ x.payloads

/-- 15 R198 and R199 with 05 R61 and R62: XSEND to a slot that is not filled, and for which no sender sleeps, releases at core
scope, fills it with the count and the lane values, and serves the receivers asleep in the partitions up to its own; with no
sleeper it stays so filled. To a filled slot, and behind a sender that sleeps, the group sleeps at its PC; that it sleeps behind a
sender, and that the sleepers of one partition are served longest asleep first, is the model's reading (logs 75 and 102). -/
def Sys2Proof.Claim.XsendFillsOrSleeps : Prop :=
  (∀ (f : F64) s is c, Ready (.xsend f) s is c → is.handler = false → is.lanes ≠ 0#32 →
    let n := f.mod.toNat % 32
    let core := coreOf is.crew
    let x := slotOf s c.team core n
    let s1 := releaseAt s is.crew 2
    let carried := releaseSig s is.crew 2 (lanesOf is.lanes)
    let s2 := serveReceivers (fillSlot s1 c.team core n f.imm.toNat (sentWords (.xsend f) is c) carried) c.team core n
      (is.crew / 32 % 6)
    x.bad = false → (∀ k, x.state ≠ .filled k) → slotSenders s c.team core n = [] → ∀ c2, s2.crews.get is.crew = some c2 →
    (∃ t, exec (.xsend f) s = .next t ∧
      (∀ d, t.crews.get is.crew = some d → CrewKept c2 d ∧
        ∀ l, l < 32 → d.thread l = if inMask is.lanes l then is.after (c2.thread l) else c2.thread l) ∧
      (∃ d, t.crews.get is.crew = some d) ∧ MachineKept is s2 t) ∧
    (s.tctxs.get (tctxKey c.team core) ≠ none →
      (∀ e ∈ s.sleepers, ∀ k, e.2.what ≠ .xrecv n k) →
      slotOf s2 c.team core n =
        { state := .filled f.imm.toNat, vals := sentWords (.xsend f) is c, bad := false, carried := carried })) ∧
  (∀ (f : F64) s is c, Ready (.xsend f) s is c → is.handler = false → is.lanes ≠ 0#32 →
    let n := f.mod.toNat % 32
    let x := slotOf s c.team (coreOf is.crew) n
    x.bad = false → ((∃ k, x.state = .filled k) ∨ (x.state = .released ∧ slotSenders s c.team (coreOf is.crew) n ≠ [])) →
    ∃ t d sl, exec (.xsend f) s = .next t ∧ t.crews.get is.crew = some d ∧
      t.sleepers.get s.serial = some sl ∧ sl.crew = is.crew ∧ sl.lanes = is.lanes ∧ sl.next = is.next ∧
      sl.what = .xsend n (sentWords (.xsend f) is c) f.imm.toNat (releaseSig s is.crew 2 (lanesOf is.lanes)) ∧ t.tctxs = s.tctxs ∧
      ∀ l, l < 32 → d.thread l = if inMask is.lanes l then { c.thread l with wait := .op s.serial } else c.thread l)

/-- 15 R198 and R199 with 05 R61: XRECV of a filled slot gives each participant its lane's value, takes one count and
acquires what the sender released; of an empty slot it sleeps at its PC; of a released slot every participant raises 0x083. -/
def Sys2Proof.Claim.XrecvTakesOrSleepsOrRaises : Prop :=
  (∀ (f : F64) s is c k, Ready (.xrecv f) s is c → is.handler = false → is.lanes ≠ 0#32 →
    let n := f.mod.toNat % 32
    let core := coreOf is.crew
    let x := slotOf s c.team core n
    x.bad = false → x.state = .filled k → s.tctxs.get (tctxKey c.team core) ≠ none →
    (∀ e ∈ s.sleepers, ∀ j, e.2.what ≠ .xrecv n j) →
    let s' := setSlot s c.team core n { x with state := if k ≤ 1 then .released else .filled (k - 1) }
    Gives (.xrecv f) s is c s' (c.acquire x.carried) (onward is) fun p => ([x.vals.getD p.l 0#32], 0)) ∧
  (∀ (f : F64) s is c, Ready (.xrecv f) s is c → is.handler = false → is.lanes ≠ 0#32 →
    let x := slotOf s c.team (coreOf is.crew) (f.mod.toNat % 32)
    x.bad = false → x.state = .empty →
    ∃ sl, sl.crew = is.crew ∧ sl.lanes = is.lanes ∧ sl.next = is.next ∧
      sl.what = .xrecv (f.mod.toNat % 32) f.vd.toNat ∧
      Gives (.xrecv f) s is c (s.setSleepers (s.sleepers.set s.serial sl)) c
        (fun _ t => { t with wait := .op s.serial }) nothing) ∧
  (∀ (f : F64) s is c, Ready (.xrecv f) s is c → is.handler = false → is.lanes ≠ 0#32 → OneGroup is c →
    CanEnter s is c → (∀ e ∈ s.sleepers, ∀ j, e.2.what ≠ .xrecv (f.mod.toNat % 32) j) →
    let x := slotOf s c.team (coreOf is.crew) (f.mod.toNat % 32)
    x.bad = false → x.state = .released → AllRaise (.xrecv f) s is c 0x083 0)

/-- REGROUP submits payloads and ends threads; XSEND and XRECV fill, take, sleep or raise. -/
def Obligations.RegroupAndTransfersMoveTheirValues : Prop :=
  Claim.RegroupSubmitsPayloadsAndEndsThreads ∧ Claim.XsendFillsOrSleeps ∧ Claim.XrecvTakesOrSleepsOrRaises

/-! ## Control flow (chapter 17) -/

namespace Sys2Proof.Claim

open Sys2Proof.Machine

/-- The address a displacement of halfwords from the PC names, modulo 2^57 (07 R83). -/
def displaced {n : Nat} (pc : Addr) (d : BitVec n) : Addr := pc + BitVec.ofInt 57 (2 * d.toInt)

/-- A branch (17 R203, R204): the threads of the group that take it stand at the address given, the others past it;
nothing is written but the flags of its condition. -/
def Branches (i : Instr) (goal : Issue → Addr) (taken : Part1 → Bool) (fl : Part1 → Flags) : Prop :=
  ∀ s is c, Ready i s is c →
    Gives i s is c s c
      (fun l t => if taken (partAt i.form i.fields c l) then { t with pc := goal is, rep := 0 } else is.after t)
      (fun p => ([], fl p))

/-- The condition of a BCC by its code (17 R204): 0 to 7 the integer conditions, 8 to 15 the FP32 ones. -/
def holds (cc : Fin 16) (a b : Word) : Bool :=
  let le (a b : Word) : Bool := ordered a b && (num32 a).le (num32 b)
  let lt (a b : Word) : Bool := ordered a b && (num32 a).lt (num32 b)
  [a == b, a != b, a.slt b, a.sle b, a.ult b, a.ule b, b.slt a, b.ult a, le a b && le b a, !(le a b && le b a), lt a b,
   le a b, lt b a, le b a, ordered a b, !(ordered a b)].getD cc false

/-- A target in a pair is a canonical address with bit 0 clear (17 R205). -/
def GoodTarget (v : BitVec 64) : Prop := v = (v.setWidth 57).signExtend 64 ∧ v.getLsbD 0 = false

/-- The accesses of participants in ascending lane order, each in the state the lower ones left (19 R219): the state
after all, and what each access gave, by lane. -/
def inTurn (acc : State → Part1 → State × Got) : List Part1 → State → State × List (Nat × Got)
  | [], s => (s, [])
  | p :: ps, s =>
    let r := acc s p
    let rest := inTurn acc ps r.1
    (rest.1, (p.l, r.2) :: rest.2)

/-- Every access was performed: none raises and none meets a page that has migrated away. -/
def AllPerformed (gs : List (Nat × Got)) : Prop := ∀ e ∈ gs, ∃ bs ls pa, e.2 = .bytes bs ls pa

/-- The bytes a lane's access gave. -/
def bytesOf (gs : List (Nat × Got)) (l : Nat) : List Byte :=
  match gs.find? fun e => e.1 = l with
  | some (_, .bytes bs _ _) => bs
  | _ => []

/-- A thread with a return address pushed on a stack that has room (05 R76). -/
def pushed (ret pc : Addr) (t : Thread) : Thread :=
  { t with stack := { addr := ret, poison := false } :: t.stack, pc := pc, rep := 0 }

/-- A thread that pushes it on a full stack: the oldest entry has left for TLBASE + TLSP (05 R76). -/
def spilled (ret pc : Addr) (t : Thread) : Thread :=
  { t with stack := { addr := ret, poison := false } :: t.stack.dropLast, tlsp := t.tlsp + 8#32, pc := pc, rep := 0 }

/-- The virtual address a spilled entry of a thread lies at when TLSP is n (05 R76). -/
def spillAt (t : Thread) (n : Word) : Nat := ((t.tlbase + n.setWidth 57).signExtend 64).toNat

/-- TLSIZE of a crew's launch (03 R30). -/
def tlsizeOf (s : State) (c : Crew) : Nat := (((recordOf s c).map LaunchRecord.tlsize).getD 0#32).toNat

/-- The accesses that spill the oldest entries of the group's full stacks, lane by lane: 8 bytes each (05 R76). -/
def spills (i : Instr) (s : State) (is : Issue) (c : Crew) : State × List (Nat × Got) :=
  inTurn (fun s p =>
    let t := c.thread p.l
    threadStore s is.crew (ctxOf s c) (spillAt t t.tlsp) 8
      ((List.range 8).map fun k => BitVec.ofNat 8 (((t.stack.getLast?.map RetEntry.addr).getD 0#57).toNat / 2 ^ (8 * k))) true none)
    (parts i is c) s

/-- The loads that refill an empty stack, lane by lane (05 R76). -/
def refills (i : Instr) (s : State) (is : Issue) (c : Crew) : State × List (Nat × Got) :=
  inTurn (fun s p =>
    let t := c.thread p.l
    threadLoad s is.crew (ctxOf s c) (spillAt t (t.tlsp - 8#32)) 8 8 false) (parts i is c) s

/-- The instruction completes with threads that stand as move says; it has accessed memory as in s', and all else is as
there. -/
def MovesIn (i : Instr) (s : State) (is : Issue) (c : Crew) (s' : State) (move : Nat → Thread → Thread) : Prop :=
  ∃ t d c', exec i s = .next t ∧ t.crews.get is.crew = some d ∧ s'.crews.get is.crew = some c' ∧
    (∀ l, l < 32 → d.thread l = if inMask is.lanes l then move l (c.thread l) else c.thread l) ∧
    d.pend = c'.pend ∧ RegsKept i.form i is c d ∧ CrewKept c' d ∧ MachineKept is s' t

/-- A call by threads with full return stacks (05 R76): the spills are performed and the threads go to their targets; where
a spill would pass TLSIZE every thread raises 0x049 with the address it would take. -/
def SpillsFirst (i : Instr) (s : State) (is : Issue) (c : Crew) (goal : Nat → Addr) : Prop :=
  (∀ l ∈ lanesOf is.lanes, (c.thread l).stack.length = 8 ∧ ∀ e ∈ (c.thread l).stack, e.poison = false) →
  ((∀ l ∈ lanesOf is.lanes, (c.thread l).tlsp.toNat + 8 ≤ tlsizeOf s c) → AllPerformed (spills i s is c).2 →
    MovesIn i s is c (spills i s is c).1 fun l t => spilled (is.pc + 4#57) (goal l) t) ∧
  (∀ ea, (∀ l ∈ lanesOf is.lanes, tlsizeOf s c < (c.thread l).tlsp.toNat + 8 ∧
      spillAt (c.thread l) (c.thread l).tlsp = ea) → OneGroup is c → CanEnter s is c → AllRaise i s is c 0x049 ea)

end Sys2Proof.Claim

/-- 17 R203: BRA, BRZ and BRNZ. -/
def Sys2Proof.Claim.BranchesGoToTheirTargets : Prop :=
  (∀ f, Branches (.bra f) (fun is => displaced is.pc f.d) (fun _ => true) fun _ => 0) ∧
  (∀ f, Branches (.brz f) (fun is => displaced is.pc f.d) (fun p => w p.a 0 == 0#32) fun _ => 0) ∧
  (∀ f, Branches (.brnz f) (fun is => displaced is.pc f.d) (fun p => w p.a 0 != 0#32) fun _ => 0)

/-- 17 R204: BCC tests its condition on a and b, sets the flags of an FP32 condition, and branches by the displacement
its fields spell, mod[14:4] first, then vc and vd. -/
def Sys2Proof.Claim.BccBranchesOnItsCondition : Prop :=
  ∀ (f : F64) (cc : Fin 16), f.mod.toNat % 16 = cc →
    Branches (.bcc f) (fun is => displaced is.pc (f.mod.extractLsb' 4 11 ++ f.vc ++ f.vd))
      (fun p => holds cc (w p.a 0) (w p.b 0))
      fun p => if cc < 8 then 0 else compareFlags (10 ≤ cc && cc ≤ 13) (w p.a 0) (w p.b 0)

/-- 17 R205: JMPR goes to the canonical even address of its pair; any other raises 0x042 or 0x005 with it. -/
def Sys2Proof.Claim.JmprGoesToThePairsAddress : Prop :=
  (∀ (f : V3) s is c, Ready (.jmpr f) s is c → (∀ p ∈ parts (.jmpr f) is c, GoodTarget (pairOf p.a)) →
    Gives (.jmpr f) s is c s c
      (fun l t =>
        let p := partAt (Instr.form (.jmpr f)) (Instr.fields (.jmpr f)) c l
        { t with pc := (pairOf p.a).setWidth 57, rep := 0 }) nothing) ∧
  (∀ (f : V3) s is c v, Ready (.jmpr f) s is c → is.lanes ≠ 0#32 → OneGroup is c → CanEnter s is c →
    (∀ p ∈ parts (.jmpr f) is c, pairOf p.a = v) → ¬ GoodTarget v →
    AllRaise (.jmpr f) s is c (if v = (v.setWidth 57).signExtend 64 then 0x005 else 0x042) v.toNat)

/-- BRA, BRZ, BRNZ, BCC and JMPR go to their targets or on, and change nothing else. -/
def Obligations.BranchesAndJumpsGoToTheirTargets : Prop :=
  Claim.BranchesGoToTheirTargets ∧ Claim.BccBranchesOnItsCondition ∧ Claim.JmprGoesToThePairsAddress

/-- 05 R76 with 17 R205: CALL and CALLR push the address of the next instruction where the return stack has room, and
go to their target; with a full stack they first store the oldest entry at TLBASE + TLSP, or raise 0x049 past TLSIZE, with no store attempted (the
model's reading, log 28). RET
takes the newest entry of a return stack and goes there; with an empty one it reloads the entry spilled last, and with
none spilled it raises 0x008. -/
def Obligations.CallsPushAndReturnsPop : Prop :=
  (∀ (f : BR) s is c, Ready (.call f) s is c → (∀ l ∈ lanesOf is.lanes, (c.thread l).stack.length < 8) →
    Gives (.call f) s is c s c (fun _ t => pushed (is.pc + 4#57) (displaced is.pc f.d) t) nothing) ∧
  (∀ (f : V3) s is c, Ready (.callr f) s is c → (∀ l ∈ lanesOf is.lanes, (c.thread l).stack.length < 8) →
    (∀ p ∈ parts (.callr f) is c, GoodTarget (pairOf p.a)) →
    Gives (.callr f) s is c s c
      (fun l t =>
        let p := partAt (Instr.form (.callr f)) (Instr.fields (.callr f)) c l
        pushed (is.pc + 4#57) ((pairOf p.a).setWidth 57) t) nothing) ∧
  (∀ (f : N) s is c, Ready (.ret f) s is c →
    (∀ l ∈ lanesOf is.lanes, ∃ e rest, (c.thread l).stack = e :: rest ∧ e.poison = false ∧ e.addr.getLsbD 0 = false) →
    Gives (.ret f) s is c s c
      (fun _ t =>
        match t.stack with
        | e :: rest => { t with stack := rest, pc := e.addr, rep := 0 }
        | [] => t) nothing) ∧
  (∀ (f : BR) s is c, Ready (.call f) s is c → is.lanes ≠ 0#32 →
    SpillsFirst (.call f) s is c fun _ => displaced is.pc f.d) ∧
  (∀ (f : V3) s is c, Ready (.callr f) s is c → is.lanes ≠ 0#32 →
    (∀ p ∈ parts (.callr f) is c, GoodTarget (pairOf p.a)) →
    SpillsFirst (.callr f) s is c fun l =>
      (pairOf (partAt (Instr.form (.callr f)) (Instr.fields (.callr f)) c l).a).setWidth 57) ∧
  (∀ (f : N) s is c, Ready (.ret f) s is c → is.lanes ≠ 0#32 →
    (∀ l ∈ lanesOf is.lanes, (c.thread l).stack = [] ∧ 8 ≤ (c.thread l).tlsp.toNat) →
    let r := refills (.ret f) s is c
    let goal (l : Nat) : Addr := (wordOfBytes 8 (bytesOf r.2 l)).setWidth 57
    AllPerformed r.2 → (∀ l ∈ lanesOf is.lanes, (goal l).getLsbD 0 = false) →
    MovesIn (.ret f) s is c r.1 fun l t => { t with tlsp := t.tlsp - 8#32, pc := goal l, rep := 0 }) ∧
  (∀ (f : N) s is c, Ready (.ret f) s is c → is.lanes ≠ 0#32 → OneGroup is c → CanEnter s is c →
    (∀ l ∈ lanesOf is.lanes, (c.thread l).stack = [] ∧ (c.thread l).tlsp.toNat < 8) → AllRaise (.ret f) s is c 0x008 0)

/-- 17 R207 and R209: CVSET makes the group the members of its register, none arrived, unless a live thread waits at it,
which raises 0x084; CVDROP takes the group out of the members and the arrived; where that leaves no live member to wait
for, the threads still arrived move past their CVWAIT. No other register has arrived threads. -/
def Sys2Proof.Claim.CvsetAndCvdropChangeTheMembers : Prop :=
  (∀ (f : CV) s is c, Ready (.cvset f) s is c → is.handler = false →
    (∀ l ∈ c.liveLanes, (c.thread l).wait ≠ .conv f.c.toNat) →
    let c' := { c with conv := c.conv.set f.c.toNat { members := is.lanes, arrived := 0#32 } }
    Gives (.cvset f) s is c s c' (onward is) nothing) ∧
  (∀ (f : CV) s is c, Ready (.cvset f) s is c → is.handler = false → OneGroup is c → CanEnter s is c →
    (∃ l ∈ c.liveLanes, (c.thread l).wait = .conv f.c.toNat) → AllRaise (.cvset f) s is c 0x084 0) ∧
  (∀ (f : CV) s is c, Ready (.cvdrop f) s is c →
    (∀ e ∈ c.conv, e.1 < 16 ∧ (e.1 ≠ f.c.toNat → e.2.arrived = 0#32)) →
    let v := (c.conv.get f.c.toNat).getD { members := 0#32, arrived := 0#32 }
    let left := v.members &&& ~~~is.lanes
    let waiting := v.arrived &&& ~~~is.lanes
    ((∀ l ∈ c.liveLanes, inMask left l = true → inMask waiting l = true) →
      ∃ t d, exec (.cvdrop f) s = .next t ∧ t.crews.get is.crew = some d ∧
        d.conv = c.conv.set f.c.toNat { members := left, arrived := 0#32 } ∧
        (∀ l, l < 32 → d.thread l =
          if inMask waiting l then { c.thread l with wait := .awake, pc := (c.thread l).pc + 4#57 }
          else if inMask is.lanes l then is.after (c.thread l) else c.thread l) ∧
        d.regs = c.regs ∧ d.pend = c.pend ∧ CrewKept { c with conv := d.conv } d ∧ MachineKept is s t) ∧
    ((∃ l ∈ c.liveLanes, inMask left l = true ∧ inMask waiting l = false) →
      Gives (.cvdrop f) s is c s { c with conv := c.conv.set f.c.toNat { members := left, arrived := waiting } } (onward is)
        nothing))

/-- 17 R208 with 15 R191: at a CVWAIT the members of the group arrive and the others of the group move on, and whoever
sleeps under one of them by ELECT wakes past it. Where every live member has then arrived, every arrived thread moves past
its CVWAIT and the arrived mask is empty; else the members sleep at their PC, arrived. The group's threads are live and awake,
the arrived ones wait there, and no other register has arrived threads; in the second case a thread of the crew is left
awake. -/
def Sys2Proof.Claim.CvwaitWaitsForTheLastMember : Prop :=
  ∀ (f : CV) s is c, Ready (.cvwait f) s is c → is.handler = false → is.lanes ≠ 0#32 →
    (∀ l ∈ lanesOf is.lanes, (c.thread l).live = true ∧ (c.thread l).wait = .awake) →
    (∀ e ∈ c.conv, e.1 < 16 ∧ (e.1 ≠ f.c.toNat → e.2.arrived = 0#32)) →
    let v := (c.conv.get f.c.toNat).getD { members := 0#32, arrived := 0#32 }
    let here := is.lanes &&& v.members
    let all := v.arrived ||| here
    let freed (l : Nat) : Bool := match (c.thread l).wait with
      | .elect d => decide (d < 32) && inMask is.lanes d
      | _ => false
    (∀ l, inMask v.arrived l = true → (c.thread l).wait = .conv f.c.toNat) →
    ((∀ l ∈ c.liveLanes, inMask v.members l = true → inMask all l = true) →
      ∃ t d, exec (.cvwait f) s = .next t ∧ t.crews.get is.crew = some d ∧
        d.conv = c.conv.set f.c.toNat { v with arrived := 0#32 } ∧
        (∀ l, l < 32 → d.thread l =
          if inMask all l || freed l then { c.thread l with wait := .awake, pc := (c.thread l).pc + 4#57 }
          else if inMask is.lanes l then is.after (c.thread l) else c.thread l) ∧
        d.regs = c.regs ∧ d.pend = c.pend ∧ CrewKept { c with conv := d.conv } d ∧ MachineKept is s t) ∧
    ((∃ l ∈ c.liveLanes, inMask v.members l = true ∧ inMask all l = false) →
      (∃ l ∈ c.liveLanes, inMask here l = false ∧ (c.thread l).wait = .awake) →
      ∃ t d, exec (.cvwait f) s = .next t ∧ t.crews.get is.crew = some d ∧
        d.conv = c.conv.set f.c.toNat { v with arrived := all } ∧
        (∀ l, l < 32 → d.thread l =
          if inMask here l then { c.thread l with wait := .conv f.c.toNat }
          else if freed l then { c.thread l with wait := .awake, pc := (c.thread l).pc + 4#57 }
          else if inMask is.lanes l then is.after (c.thread l) else c.thread l) ∧
        d.regs = c.regs ∧ d.pend = c.pend ∧ CrewKept { c with conv := d.conv } d ∧ MachineKept is s t)

/-- 17 R210: a CVWAIT after which every live thread of the crew waits at a convergence register, none of which is released,
raises 0x081 in every one of them: each enters its handler with the PC it waits at, and no thread stands arrived any more. -/
def Sys2Proof.Claim.StarvedCrewsRaise : Prop :=
  ∀ (f : CV) s is c v, Ready (.cvwait f) s is c → is.handler = false → is.lanes ≠ 0#32 → (s.context (ctxOf s c)).hen = true →
    Map.sorted c.conv = true → (∀ l ∈ c.liveLanes, (c.thread l).handler = false) →
    (∀ l ∈ lanesOf is.lanes, (c.thread l).live = true ∧ (c.thread l).wait = .awake) →
    c.conv.get f.c.toNat = some v → is.lanes &&& v.members = is.lanes →
    (∀ l ∈ c.liveLanes, inMask is.lanes l = false → ∃ n, n < 16 ∧ (c.thread l).wait = .conv n) →
    (∀ n x, c.conv.get n = some x → n < 16 ∧ ∃ l ∈ c.liveLanes, inMask x.members l = true ∧ inMask x.arrived l = false ∧
      (n = f.c.toNat → inMask is.lanes l = false)) →
    ∃ t d, exec (.cvwait f) s = .next t ∧ t.crews.get is.crew = some d ∧ d.regs = c.regs ∧ d.pend = c.pend ∧
      (∀ e ∈ d.conv, e.2.arrived = 0#32) ∧
      ∀ l ∈ c.liveLanes, (d.thread l).handler = true ∧ (d.thread l).wait = .awake ∧
        (d.thread l).pc = (s.context (ctxOf s c)).hbase ∧ ((d.thread l).h.getD 0 0#32).toNat % 2 ^ 16 = 0x081 ∧
        ((d.thread l).h.getD 2 0#32 ++ (d.thread l).h.getD 1 0#32).toNat = (c.thread l).pc.toNat

/-- CVSET and CVDROP change the members of a convergence register, CVWAIT waits for the last of them, and a crew that waits for itself alone raises 0x081. -/
def Obligations.ConvergenceRegistersGatherTheirMembers : Prop :=
  Claim.CvsetAndCvdropChangeTheMembers ∧ Claim.CvwaitWaitsForTheLastMember ∧ Claim.StarvedCrewsRaise

/-- 17 R211 with 27 R316 and 19 R236: EXIT, and HKILL in handler mode, end the threads of their group, and the crew
retires with its last thread. Premise: only live threads stand arrived at a convergence register. -/
def Sys2Proof.Claim.ExitAndHkillEndTheirThreads : Prop :=
  (∀ (f : N) s is c, Ready (.exit f) s is c → is.lanes ≠ 0#32 → ArrivedLive c →
    ∃ t, exec (.exit f) s = .next t ∧ Ended is c t ∧ EndKept c.team s t) ∧
  (∀ (f : F64) s is c, Ready (.hkill f) s is c → is.lanes ≠ 0#32 → ArrivedLive c →
    ∃ t, exec (.hkill f) s = .next t ∧ Ended is c t ∧ EndKept c.team s t)

/-- 17 R214 and R215: YIELD moves on and is remembered for the swap; SLEEP puts the group to sleep at its PC for
16 × (imm8 + 1) clocks. -/
def Sys2Proof.Claim.YieldAndSleepActAsStated : Prop :=
  (∀ (f : N) s is c, Ready (.yield f) s is c →
    Gives (.yield f) s is c s { c with yielded := some s.clock } (onward is) nothing) ∧
  (∀ (f : I8) s is c, Ready (.sleep f) s is c →
    Gives (.sleep f) s is c s c (fun _ t => { t with wait := .sleep (s.clock + 16 * (f.imm.toNat + 1)) }) nothing)

/-- 17 R216 and 07 R94: BRK raises 0x180, TRAP 0x200 + imm8 with imm8 as its fault value, and an unassigned encoding
0x001, in every thread of the group. -/
def Sys2Proof.Claim.TrapsRaiseTheirCauses : Prop :=
  (∀ (f : I8) s is c, Ready (.brk f) s is c → OneGroup is c → CanEnter s is c → AllRaise (.brk f) s is c 0x180 0) ∧
  (∀ (f : I8) s is c, Ready (.trap f) s is c → OneGroup is c → CanEnter s is c →
    AllRaise (.trap f) s is c (0x200 + f.imm.toNat) f.imm.toNat) ∧
  (∀ long x s is c, s.cur = some is → s.crews.get is.crew = some c → OneGroup is c → CanEnter s is c →
    AllRaise (.unassignedEncoding long x) s is c 0x001 0)

/-- EXIT and HKILL end threads, YIELD and SLEEP act as stated, BRK, TRAP and unassigned encodings raise their causes. -/
def Obligations.EndsSleepsAndTrapsActAsStated : Prop :=
  Claim.ExitAndHkillEndTheirThreads ∧ Claim.YieldAndSleepActAsStated ∧ Claim.TrapsRaiseTheirCauses

namespace Sys2Proof.Claim

open Sys2Proof.Machine

/-- GMOV and GSET, whose group register is a field of nine bits (07 R82). -/
def IsG9 : Instr → Prop
  | .gmov _ | .gset _ => True
  | _ => False

/-- How far a register field steps from one repetition to the next (07 R92). -/
def stride : Use → Nat
  | .run 2 2 => 2
  | .run 4 4 => 4
  | _ => 1

/-- A field of n bits at bit lo of a word. -/
def fieldAt (x lo n : Nat) : Nat := x / 2 ^ lo % 2 ^ n

/-- A word x' is the word x of a target of n bytes as its repetition k runs it (07 R92): every field whose step bit is set
names the register k strides on, and every other bit is the same. -/
def Steps (f : RP) (t : Instr) (n x k x' : Nat) : Prop :=
  let on (b : Bool) (m : Nat) : Nat := if b then m else 0
  let lo := if n = 8 then 13 else 11
  (IsG9 t → fieldAt x' 11 6 = (fieldAt x 11 6 + on f.d k) % 64 ∧ fieldAt x' 17 9 = (fieldAt x 17 9 + on f.b k) % 512 ∧
    x' % 2 ^ 11 = x % 2 ^ 11 ∧ x' / 2 ^ 26 = x / 2 ^ 26) ∧
  (¬ IsG9 t → fieldAt x' lo 6 = (fieldAt x lo 6 + on f.d (k * stride t.form.d)) % 64 ∧
    fieldAt x' (lo + 6) 6 = (fieldAt x (lo + 6) 6 + on f.a (k * stride t.form.a)) % 64 ∧ x' % 2 ^ lo = x % 2 ^ lo ∧
    (t.fields.g = false → fieldAt x' (lo + 12) 6 = (fieldAt x (lo + 12) 6 + on f.b (k * stride t.form.b)) % 64 ∧
      x' / 2 ^ (lo + 18) = x / 2 ^ (lo + 18)) ∧
    (t.fields.g = true → n = 4 → t.fields.gidx = fieldAt x 23 6 + 64 * fieldAt x 30 1 →
      fieldAt x' 23 6 + 64 * fieldAt x' 30 1 = (t.fields.gidx + on f.b k) % 128 ∧
      fieldAt x' 29 1 = fieldAt x 29 1 ∧ x' / 2 ^ 31 = x / 2 ^ 31) ∧
    (t.fields.g = true → n = 8 → t.fields.gidx = fieldAt x 25 6 + 64 * fieldAt x 46 3 →
      fieldAt x' 25 6 + 64 * fieldAt x' 46 3 = (t.fields.gidx + on f.b k) % 512 ∧
      fieldAt x' 31 15 = fieldAt x 31 15 ∧ x' / 2 ^ 49 = x / 2 ^ 49))

/-- A field of a target is a register, which a step bit may step (07 R92). -/
def IsRegister : Use → Bool
  | .run _ _ => true
  | _ => false

/-- The vd field of a store that rounds stochastically names its seed's group register (09 R117). -/
def NamesSeed (m : Form) : Bool := decide (m.d = .raw) && m.more.isSome

/-- A step bit is set for a field the target does not use (07 R92): G9 targets have no va field. -/
def StepsUnused (f : RP) (t : Instr) : Bool :=
  match t with
  | .gmov _ | .gset _ => f.a
  | _ => f.d && !IsRegister t.form.d && !NamesSeed t.form || f.a && !IsRegister t.form.a ||
      f.b && !t.fields.g && !IsRegister t.form.b

/-- A run of registers from v passes the allocation when its field is stepped on times (07 R92). -/
def Passes (nregs on : Nat) (u : Use) (v : Nat) : Bool :=
  match u with
  | .run n _ => decide (nregs < v + n + on * stride u)
  | _ => false

/-- A number that the target names in the last repetition is beyond its file (07 R92). -/
def PassesLast (f : RP) (t : Instr) (nregs : Nat) : Bool :=
  let on (b : Bool) : Nat := if b then f.n.toNat else 0
  let m := t.form
  let x := t.fields
  match t with
  | .gmov g | .gset g => decide (nregs ≤ g.v.toNat + on f.d) || decide (383 < g.n.toNat + on f.b)
  | _ => Passes nregs (on f.d) m.d x.vd || NamesSeed m && f.d && decide (383 < x.vd + f.n.toNat) ||
      Passes nregs (on f.a) m.a x.va || Passes nregs 0 m.c x.vc ||
      (if x.g then decide (m.gmax < x.gidx + on f.b + m.grun) else Passes nregs (on f.b) m.b x.vb)

/-- What the number of a stochastic store's seed has beyond the six bits of its field, once stepped (07 R92). -/
def seedBeyond (f : RP) (bytes : List Byte) (rep : Nat) : Nat :=
  match decode bytes with
  | .ok (t, _) =>
    if f.d && NamesSeed t.form && decide (64 ≤ t.fields.vd + (if rep < f.n.toNat + 1 then rep else 0)) then 64 else 0
  | .error _ => 0

/-- The issue group of a REP's unit (17 R212): its repetitions, the instruction after it, and its target's words. -/
def unitIssue (f : RP) (is : Issue) (bytes : List Byte) : Issue :=
  { is with
    count := f.n.toNat + 1, unit := true, next := is.pc + 4#57 + BitVec.ofNat 57 bytes.length
    h5 := (wordsOf bytes).1, h6 := (wordsOf bytes).2 }

end Sys2Proof.Claim

/-- 17 R212 with 07 R92 to R94 and 27 R311: a REP fetches its target and arms it for the same step, its fields stepped for the
repetition at hand: the repetitions are imm + 1, the unit ends after the target, and H5 and H6 are the target's words. A unit
that breaks a rule raises the lowest of its causes in every thread: 0x001, 0x002 for a step of a field the target does not
use, 0x003, 0x004 for a number of the last repetition beyond its file, of a group register beyond g383, the seed of a
stochastic store among them (the model's reading, log 27), 0x006. A target that cannot be fetched raises the fetch's cause with the
words 0 (log 31). -/
def Obligations.RepArmsItsTarget : Prop :=
  (∀ (f : RP) s is (c : Crew) bs,
    let core := coreOf is.crew
    let ctx := ctxOf s c
    let bytes := bs.map Prod.snd
    let met := noteFetch s core ctx (is.pc + 4#57) bs
    s.cur = some is → s.crews.get is.crew = some c → fetchInstr s core ctx (is.pc + 4#57) = .ok bs →
    (∀ t, repTargetAt f false bytes c.nregs is.handler is.rep = .ok t →
      exec (.rep f) s = .next (met.setCur (some
        { unitIssue f is bytes with target := some t, seedUp := seedBeyond f bytes is.rep }))) ∧
    (∀ cause, repTargetAt f false bytes c.nregs is.handler is.rep = .error cause → OneGroup is c → CanEnter s is c →
      RaisedByAll (exec (.rep f) s) s (unitIssue f is bytes) c met cause 0)) ∧
  (∀ (f : RP) s is (c : Crew) cause, s.cur = some is → s.crews.get is.crew = some c →
    fetchInstr s (coreOf is.crew) (ctxOf s c) (is.pc + 4#57) = .error cause → 0x040 ≤ cause → cause ≤ 0x04D →
    OneGroup is c → CanEnter s is c →
    RaisedByAll (exec (.rep f) s) s { is with h5 := 0#32, h6 := 0#32 } c s cause (is.pc.signExtend 64).toNat) ∧
  (∀ (f : RP) own bytes t rest nregs handler rep, decode bytes = .ok (t, rest) →
    (∀ t', repTargetAt f own bytes nregs handler rep = .ok t' →
      ∃ x rest', decode (Decode.leBytes bytes.length x) = .ok (t', rest') ∧
        Steps f t bytes.length (Decode.leNat bytes) (if rep < f.n.toNat + 1 then rep else 0) x) ∧
    (let cause := t.decodeCause nregs handler
     let two := own = true ∨ f.s ≠ 0#2 ∨ cause = some 0x002 ∨ StepsUnused f t
     let four := cause = some 0x004 ∨ PassesLast f t nregs
     let r := repTargetAt f own bytes nregs handler rep
     (cause = some 0x001 → r = .error 0x001) ∧
     (cause ≠ some 0x001 → two → r = .error 0x002) ∧
     (cause = some 0x003 → ¬ two → r = .error 0x003) ∧
     (cause ≠ some 0x001 → cause ≠ some 0x003 → ¬ two → four → r = .error 0x004) ∧
     (cause = none → ¬ two → ¬ four → t.repTarget = false → r = .error 0x006)))

/-! ## Memory (chapters 11 and 19) -/

namespace Sys2Proof.Claim

open Sys2Proof.Machine

/-- n bytes at ea translate, for an access of the kind k by a thread of the crew slot key, to n bytes of memory within
one page, behind the leaf of m; no device answers there. -/
structure LiesAt (s : State) (key ctx ea n : Nat) (k : Access) (m : Mapped) : Prop where
  some : 0 < n
  met : meet s (coreOf key) ctx ea n k = .ok [(m, n)]
  plain : ∀ p, s.sys.target m.pa ≠ .window p
  inside : m.pa + n ≤ 2 ^ 52

/-- The byte at a is no byte of the page table entry whose A or D bit a load of ea, or with store a store to it, sets (11
R135). -/
def NotTheEntry (s : State) (core ctx ea : Nat) (store : Bool) (a : Nat) : Prop :=
  ∀ pte at' log, leafOf s core ctx (ea % 2 ^ 57) store = .leaf pte at' log → ¬ (at' ≤ a ∧ a < at' + 8)

end Sys2Proof.Claim

/-- 19 R218 and R219 with 11 R135: a thread's load sets the A bit of its page table entry and then gives the bytes the thread's
core sees at the address, which are those it sees at the load's issue (the model's choice, log 6: DESIGN CHOICE); misaligned it
raises 0x040, a cause of the translation is raised, poison raises 0x047; and it changes no other byte its core sees. -/
def Sys2Proof.Claim.LoadsReadTheBytesTheCoreSees : Prop :=
  ∀ (s : State) key ctx ea n align held, MemGood s.mem →
    let r := threadLoad s key ctx ea n align held
    (ea % align ≠ 0 → r = (s, .raise 0x040)) ∧
    (ea % align = 0 → ∀ k, meet s (coreOf key) ctx ea n .load = .bad k → r = (s, .raise k)) ∧
    (ea % align = 0 → ∀ m, LiesAt s key ctx ea n .load m → s.mem.poisonIn m.pa n = true → r = (s, .raise 0x047)) ∧
    (ea % align = 0 → ∀ m, LiesAt s key ctx ea n .load m → s.mem.poisonIn m.pa n = false →
      (∃ ls, r.2 = .bytes ((List.range n).map fun k =>
        (noteAccess s (coreOf key) ctx ea false).mem.seen (coreOf key) (m.pa + k)) ls m.pa) ∧
      ∀ a, a < 2 ^ 52 → NotTheEntry s (coreOf key) ctx ea false a → r.1.mem.seen (coreOf key) a = s.mem.seen (coreOf key) a)

/-- 19 R218, R219 and R221 with 11 R155 and R156: a thread's store outside reducing windows leaves at the address the bytes it
stores, as its core sees them, and every other byte as it was but for its page table entry; misaligned it raises 0x040 and
stores nothing, and a cause of the translation is raised with nothing stored. In one reducing window a store of its element
type to HBM is added in the staging slot of its address and core: the first contribution copied, a later one added in FP32 or
modulo 2^32, and no byte stored; any other store there raises 0x04B. The model's readings: 0x04B for every page not in HBM, log
17; the formats of the element types, log 68; the room in the staging pool, log 72. -/
def Sys2Proof.Claim.StoresWriteTheirBytesAndNoOthers : Prop :=
  (∀ (s : State) key ctx ea align (bs : List Byte) plain fmt, MemGood s.mem → windowAt s ctx (ea % 2 ^ 57) = none →
    let core := coreOf key
    let r := threadStore s key ctx ea align bs plain fmt
    (ea % align ≠ 0 → r = (s, .raise 0x040)) ∧
    (ea % align = 0 → ∀ k, meet s core ctx ea bs.length .store = .bad k → r = (s, .raise k)) ∧
    (ea % align = 0 → ∀ m, LiesAt s key ctx ea bs.length .store m →
      r.2 = .bytes [] [] m.pa ∧
      ∀ a, a < 2 ^ 52 → NotTheEntry s core ctx ea true a →
        r.1.mem.seen core a =
          if m.pa ≤ a ∧ a < m.pa + bs.length then bs.getD (a - m.pa) 0 else s.mem.seen core a)) ∧
  (∀ (s : State) key ctx ea align (bs : List Byte) plain fmt win op m, MemGood s.mem →
    windowsAt s ctx (ea % 2 ^ 57) = [(win, op)] → ea % align = 0 → LiesAt s key ctx ea bs.length .store m →
    let core := coreOf key
    let r := threadStore s key ctx ea align bs plain fmt
    let slot := m.pa * 256 + core
    let v : Word := wordOfBytes 4 (if op = 1 then [0#8, 0#8] ++ bs else bs)
    let reduces := plain = true ∧ s.sys.target m.pa = .hbm ∧ fmt = some (if op = 0 then 8 else if op = 1 then 9 else 2) ∧
      bs.length = (if op = 1 then 2 else 4)
    (reduces →
      r.2 = .bytes [] [] m.pa ∧
      (∀ k, r.1.mem.staged.get k = if k = slot then
          some { ctx := ctx, win := win, op := op
                 val := match s.mem.staged.get slot with
                   | none => v
                   | some old => if op = 2 then old.val + v else (sumOf old.val v).1 }
        else s.mem.staged.get k) ∧
      ∀ a, a < 2 ^ 52 → NotTheEntry s core ctx ea true a → r.1.mem.seen core a = s.mem.seen core a) ∧
    ((plain = false ∨ s.sys.target m.pa ≠ .hbm ∨ fmt ≠ some (if op = 0 then 8 else if op = 1 then 9 else 2)) →
      r = (s, .raise 0x04B))) ∧
  (∀ (s : State) key ctx ea align (bs : List Byte) plain fmt win op k, windowsAt s ctx (ea % 2 ^ 57) = [(win, op)] →
    ea % align = 0 → meet s (coreOf key) ctx ea bs.length .store = .bad k →
    threadStore s key ctx ea align bs plain fmt = (s, .raise (min k 0x04B)))

/-- A thread's load reads the bytes its core sees, and its store changes its own bytes and no others. -/
def Obligations.LoadsAndStoresReachTheirBytes : Prop :=
  Claim.LoadsReadTheBytesTheCoreSees ∧ Claim.StoresWriteTheirBytesAndNoOthers

/-- 19 R224 to R226 with 11 R135: an atomic sets the A bit of its page table entry, reads the bytes its core sees and puts the new ones in their place, if there are
any; no other byte its core sees changes but for the page table entry. Misaligned it raises 0x041, a cause of the translation
is raised, an IO page and a fabric page without CLVL 11 raise 0x04D, and a reducing window 0x04B. A compare that fails only
reads, so that a page it may read serves it (DEDUCED, log 29); one that would write raises 0x043 there. -/
def Sys2Proof.Claim.AtomicsReplaceTheirBytes : Prop :=
  (∀ (s : State) key ctx ea n (f : List Byte → Option (List Byte)), MemGood s.mem → (n = 4 ∨ n = 8 ∨ n = 16) →
    windowAt s ctx (ea % 2 ^ 57) = none → (∀ bs new, f bs = some new → new.length = n) →
    let core := coreOf key
    let r := threadAtomic s key ctx ea n f
    let noted := noteAccess s core ctx ea false
    let old (m : Mapped) : List Byte := (List.range n).map fun k => noted.mem.seen core (m.pa + k)
    let performed (m : Mapped) : Prop :=
      (isIo m.pte = true ∨ (s.sys.target m.pa = .fabric ∧ clvl m.pte ≠ 3) → r = (s, .raise 0x04D)) ∧
      (isIo m.pte = false → (s.sys.target m.pa = .fabric → clvl m.pte = 3) → r.2 = .bytes (old m) [] m.pa ∧
        ∀ a, a < 2 ^ 52 → NotTheEntry s core ctx ea false a →
          ((f (old m)).isSome = true →
            NotTheEntry (noted.setMem (noted.mem.flushL1 core fun b => b / 128 = m.pa / 128)) core ctx ea true a) →
          r.1.mem.seen core a =
            match f (old m) with
            | some new => if m.pa ≤ a ∧ a < m.pa + n then new.getD (a - m.pa) 0 else s.mem.seen core a
            | none => s.mem.seen core a)
    (ea % n ≠ 0 → r = (s, .raise 0x041)) ∧
    (ea % n = 0 → ∀ k, reach s core ctx ea .store = .bad k → k ≠ 0x043 → r = (s, .raise k)) ∧
    (ea % n = 0 → ∀ m, reach s core ctx ea .store = .ok m → s.mem.poisonIn m.pa n = true → r = (s, .raise 0x047)) ∧
    (ea % n = 0 → ∀ m, reach s core ctx ea .store = .ok m → m.pa + n ≤ 2 ^ 52 → (∀ p, s.sys.target m.pa ≠ .window p) →
      s.mem.poisonIn m.pa n = false → performed m) ∧
    (ea % n = 0 → reach s core ctx ea .store = .bad 0x043 →
      ((∀ m, reach s core ctx ea .load ≠ .ok m) → r = (s, .raise 0x043)) ∧
      ∀ m, reach s core ctx ea .load = .ok m → m.pa + n ≤ 2 ^ 52 → (∀ p, s.sys.target m.pa ≠ .window p) →
        ((f (old m)).isSome = true → r = (s, .raise 0x043)) ∧
        (f (old m) = none → s.mem.poisonIn m.pa n = false → performed m))) ∧
  (∀ (s : State) key ctx ea n (f : List Byte → Option (List Byte)) m, (n = 4 ∨ n = 8 ∨ n = 16) → ea % n = 0 →
    windowAt s ctx (ea % 2 ^ 57) ≠ none → reach s (coreOf key) ctx ea .store = .ok m → s.mem.poisonIn m.pa n = false →
    threadAtomic s key ctx ea n f = (s, .raise 0x04B))

/-- 11 R129 with 19 R223: a store to scratchpad leaves its bytes in the team's reservation and changes no other
scratchpad byte, a load reads them; misaligned either raises 0x040, outside the reservation 0x046. No engine command owns
the bytes. -/
def Sys2Proof.Claim.ScratchpadHoldsWhatIsStored : Prop :=
  ∀ (s : State) writers team ea align (bs : List Byte), MemGood s.mem → bs ≠ [] →
    (∀ g, inFootprint s team g = false) →
    let r := scratchStore s writers team ea align bs
    (ea % align ≠ 0 → r = (s, .raise 0x040) ∧ scratchLoad s team ea bs.length align = .raise 0x040) ∧
    (ea % align = 0 → scratchAt s team ea bs.length = none →
      r = (s, .raise 0x046) ∧ scratchLoad s team ea bs.length align = .raise 0x046) ∧
    (ea % align = 0 → ∀ k, scratchAt s team ea bs.length = some k →
      r.2 = .bytes [] [] k ∧
      (∀ a, r.1.mem.scratchByte a = if k ≤ a ∧ a < k + bs.length then bs.getD (a - k) 0 else s.mem.scratchByte a) ∧
      (s.mem.scratchPoisoned k bs.length = false →
        scratchLoad s team ea bs.length align = .bytes (s.mem.scratchBytes k bs.length) [] k))

/-- An atomic replaces its bytes and no others, and scratchpad holds what is stored in it. -/
def Obligations.AtomicsAndScratchpadReachTheirBytes : Prop :=
  Claim.AtomicsReplaceTheirBytes ∧ Claim.ScratchpadHoldsWhatIsStored

namespace Sys2Proof.Claim

open Sys2Proof.Machine

/-- The instruction completes with no result: its threads move on, last uses are dead, and all else is as in s'. -/
def LeavesAs (m : Form) (i : Instr) (s : State) (is : Issue) (c : Crew) (s' : State) : Prop :=
  ∃ t d c', exec i s = .next t ∧ t.crews.get is.crew = some d ∧ s'.crews.get is.crew = some c' ∧
    (∀ l, l < 32 → d.thread l = if inMask is.lanes l then is.after (c.thread l) else c.thread l) ∧
    d.pend = c'.pend ∧ RegsKept m i is c d ∧ CrewKept c' d ∧ MachineKept is s' t

/-- The same with the form of the instruction's encoding. -/
abbrev Leaves (i : Instr) (s : State) (is : Issue) (c : Crew) (s' : State) : Prop := LeavesAs i.form i s is c s'

/-- The instruction completes with the words g gives by lane on their way to vd as a memory reply (05 R68; 19 R219);
its threads move on, and all else is as in s'. -/
def Replies (i : Instr) (s : State) (is : Issue) (c : Crew) (s' : State) (g : Nat → List Word) : Prop :=
  ∃ t d c' r, exec i s = .next t ∧ t.crews.get is.crew = some d ∧ s'.crews.get is.crew = some c' ∧
    (∀ l, l < 32 → d.thread l = if inMask is.lanes l then is.after (c.thread l) else c.thread l) ∧
    d.pend = c'.pend ++ [r] ∧ r.seq = c.issues + 1 ∧ r.memory = true ∧ r.due = none ∧ r.board = true ∧ r.flags = 0#5 ∧
    (∀ k l, l < 32 → r.writes.get (32 * k + l) =
      if inMask is.lanes l = true ∧ i.fields.vd ≤ k then (g l)[k - i.fields.vd]? else none) ∧
    RegsKept i.form i is c d ∧ CrewKept c' d ∧ MachineKept is s' t

/-- An element format of LD, ST, LDS or STS that is not block-scaled (09 R107). -/
def Unscaled (f : F64) : Prop := f.mod.toNat % 16 < 10

/-- The bytes of an access: 16 with Q, else those of the format (19 R220). -/
def accessSize (f : F64) : Nat :=
  if f.mod.getLsbD 5 then 16 else [1, 2, 4, 8, 1, 1, 2, 2, 4, 2].getD (f.mod.toNat % 16) 0

/-- Every member of a nonempty list of addresses is ea. -/
def Same (ls : List Part1) (at' : Part1 → Nat) (ea : Nat) : Prop := ls ≠ [] ∧ ∀ p ∈ ls, at' p = ea

end Sys2Proof.Claim

/-- 19 R220 and R221: LD without ordering, in an element format: the lanes access in ascending order, and each gets the
words of its bytes, widened by the format, as a memory reply; its words are those bound at issue (the model's choice, log 6:
DESIGN CHOICE). The address and the widening are those of AddressesAndElementsFollowTheFormats. -/
def Sys2Proof.Claim.LoadsReplyWithTheirElements : Prop :=
  ∀ (f : F64) s is c, Ready (.ld f) s is c → is.lanes ≠ 0#32 → Unscaled f → f.mod.getLsbD 9 = false →
    let i : Instr := .ld f
    let z := accessSize f
    let r := inTurn (fun s p => threadLoad s is.crew (ctxOf s c) (eaOf i.fields (f.mod.getLsbD 4) z p) z z true)
      (parts i is c) s
    AllPerformed r.2 →
    Replies i s is c r.1 fun l => loadWords (f.mod.toNat % 16) (bytesOf r.2 l)

/-- 19 R221 and R222: LD with acquire, and LD of block-scaled records, complete with the widened elements, bound at issue (log
6). -/
def Sys2Proof.Claim.AcquiringAndRecordLoadsReply : Prop :=
  (∀ (f : F64) s is c, Ready (.ld f) s is c → is.lanes ≠ 0#32 → Unscaled f → f.mod.getLsbD 9 = true →
    let i : Instr := .ld f
    let z := accessSize f
    let r := inTurn (fun s p => threadLoad s is.crew (ctxOf s c) (eaOf i.fields (f.mod.getLsbD 4) z p) z z false)
      (parts i is c) s
    AllPerformed r.2 →
    let s' := r.2.foldl (fun s e =>
      match e.2 with
      | .bytes _ _ pa => acquireAt s is.crew (f.mod.toNat / 64 % 8) pa
      | _ => s) r.1
    Replies i s is c s' fun l => loadWords (f.mod.toNat % 16) (bytesOf r.2 l)) ∧
  (∀ (f : F64) s is c ea m, Ready (.ld f) s is c → f.mod.toNat % 16 ∈ [10, 11, 12] →
    let i : Instr := .ld f
    let fmt := f.mod.toNat % 16
    let n := if fmt = 11 then 18 else 34
    Same (parts i is c) (fun p => eaOf i.fields (f.mod.getLsbD 4) 2 p) ea → ea % 2 = 0 →
    LiesAt s is.crew (ctxOf s c) ea n .load m → s.mem.poisonIn m.pa n = false →
    let noted := noteRange s (coreOf is.crew) (ctxOf s c) ea n false
    let bs := (List.range n).map fun k => noted.mem.seen (coreOf is.crew) (m.pa + k)
    let s1 := (linesOf [(m, n)]).foldl (fun s l => noteRead s is.crew (l * 128)) noted
    let s' := if f.mod.getLsbD 9 then acquireAt s1 is.crew (f.mod.toNat / 64 % 8) m.pa
      else (holdPieces s1 (coreOf is.crew) [(m, n)] none).1
    Replies i s is c s' fun l => [widenScaled fmt (recordCode fmt bs l) (recordScale fmt bs l)])

/-- LD replies with its widened elements, plain, acquiring and on records. -/
def Obligations.LoadInstructionsReply : Prop :=
  Claim.LoadsReplyWithTheirElements ∧ Claim.AcquiringAndRecordLoadsReply

/-- 19 R220 and R221 with 11 R148, R153 and R156: ST of elements: the lanes store in ascending order, each the bytes its words
narrow to under the rounding of the encoding (AddressesAndElementsFollowTheFormats); as a release the crew's release comes
first, where some lane stores, and the lines stored carry what it gives. The flags are set before the next instruction (the
model's choice, log 100); a reducing store sets none, and finds room in the staging pool (log 72). -/
def Sys2Proof.Claim.StoresStoreTheirElements : Prop :=
  ∀ (f : F64) s is c, Ready (.st f) s is c → is.lanes ≠ 0#32 → Unscaled f →
    let i : Instr := .st f
    let z := accessSize f
    let q := f.mod.getLsbD 5
    let fmt := f.mod.toNat % 16
    let rel := f.mod.getLsbD 9
    let scope := f.mod.toNat / 64 % 8
    let env := issueEnv i i.form is c
    let at' (p : Part1) : Nat := eaOf i.fields (f.mod.getLsbD 4) z p
    let narrowed (p : Part1) : List Byte × Flags :=
      storeBytes fmt q (storeMode (f.mod.toNat / 4096 % 8) (seedOf env) (at' p % 2 ^ 32)) p.c
    let flags (p : Part1) : Flags :=
      if (windowAt s (ctxOf s c) (at' p % 2 ^ 57)).isSome then 0#5 else (narrowed p).2
    let run (s0 : State) := inTurn (fun s1 p =>
      threadStore s1 is.crew (ctxOf s c) (at' p) z (narrowed p).1 (!rel) (if q then none else some fmt))
      (parts i is c) s0
    let r := run (if rel then releaseAt s is.crew scope else s)
    AllPerformed r.2 → (rel = true → ∃ e ∈ (run s).2, ∃ bs ls pa, e.2 = .bytes bs ls pa) →
    (∀ p ∈ parts i is c, windowAt s (ctxOf s c) (at' p % 2 ^ 57) = none) ∨
      s.mem.staged.length + (parts i is c).length ≤ s.sys.record.hbmrsv / 16 →
    let s1 := orFlagsNow r.1 is.crew ((parts i is c).foldl (fun a p => a ||| flags p) 0#5)
    let s' := if rel ∧ 1 ≤ scope then r.2.foldl (fun s' e =>
        match e.2 with
        | .bytes _ _ pa => carry s' (releaseSig s is.crew scope (lanesOf is.lanes)) pa
        | _ => s') s1
      else s1
    Leaves i s is c s'

/-- 19 R222: ST of a record by lanes that agree on its address stores the whole record once: the codes and scales of
their values, 0 for other lanes. Lanes that differ all raise 0x04C, or the lower cause of their own address, which counts in the comparison all the same (the
model's choice, log 98). -/
def Sys2Proof.Claim.RecordStoresStoreTheWholeRecord : Prop :=
  (∀ (f : F64) s is c ea pa bs ls, Ready (.st f) s is c → f.mod.toNat % 16 ∈ [10, 11, 12] →
    let i : Instr := .st f
    let fmt := f.mod.toNat % 16
    let n := if fmt = 11 then 18 else 34
    let rel := f.mod.getLsbD 9
    let scope := f.mod.toNat / 64 % 8
    let s0 := if rel then releaseAt s is.crew scope else s
    let r := recordBytes fmt (f.mod.toNat / 4096 % 8) (seedOf (issueEnv i i.form is c)) (ea % 2 ^ 57)
      ((parts i is c).map fun p => (p.l, w p.c 0))
    let t := threadStore s0 is.crew (ctxOf s c) ea 2 r.1 (!rel) none
    Same (parts i is c) (fun p => eaOf i.fields (f.mod.getLsbD 4) 2 p) ea →
    windowAt s (ctxOf s c) ((ea + n - 1) % 2 ^ 57) = none → t.2 = .bytes bs ls pa →
    (rel = true → ∃ bs ls pa, (threadStore s is.crew (ctxOf s c) ea 2 r.1 false none).2 = .bytes bs ls pa) →
    let s1 := orFlagsNow t.1 is.crew r.2
    r.1.length = n ∧ Leaves i s is c (if rel ∧ 1 ≤ scope then carry s1 (releaseSig s is.crew scope (lanesOf is.lanes)) pa else s1)) ∧
  (∀ (f : F64) s is c, Ready (.st f) s is c → f.mod.toNat % 16 ∈ [10, 11, 12] →
    is.handler = false → (s.context (ctxOf s c)).hen = true →
    let i : Instr := .st f
    let n := if f.mod.toNat % 16 = 11 then 18 else 34
    let at' (p : Part1) : Nat := eaOf i.fields (f.mod.getLsbD 4) 2 p
    (∃ p ∈ parts i is c, ∃ q ∈ parts i is c, at' p ≠ at' q) →
    let inWindow (a : Nat) : Bool := (windowAt s (ctxOf s c) (a % 2 ^ 57)).isSome || (windowAt s (ctxOf s c) ((a + n - 1) % 2 ^ 57)).isSome
    -- the cause of the lane's own address, where it is below 0x04C
    let cause (a : Nat) : Nat :=
      if a % 2 ≠ 0 then 0x040
      else
        let limit := if inWindow a then 0x04B else 0x04C
        match meet s (coreOf is.crew) (ctxOf s c) a n .store with
        | .bad k => min k limit
        | _ => limit
    OneGroup is c →
    ∃ t d, exec i s = .next t ∧ t.crews.get is.crew = some d ∧ d.regs = c.regs ∧ MachineKept is s t ∧
      ∀ l ∈ lanesOf is.lanes,
        (d.thread l).handler = true ∧ (d.thread l).pc = (s.context (ctxOf s c)).hbase ∧
        (d.thread l).h.getD 0 0#32 = BitVec.ofNat 32 (cause (at' (partAt i.form i.fields c l)) + is.rep * 2 ^ 16) ∧
        (d.thread l).h.getD 3 0#32 = BitVec.ofNat 32 (at' (partAt i.form i.fields c l)))

/-- ST stores its narrowed elements lane by lane, and a whole record once. -/
def Obligations.StoreInstructionsStore : Prop :=
  Claim.StoresStoreTheirElements ∧ Claim.RecordStoresStoreTheWholeRecord

/-- 19 R223: LDS and STS access the scratchpad of the crew's team lane by lane; lanes that agree on the address of a
record load or store it whole. -/
def Obligations.ScratchLoadsAndStoresComplete : Prop :=
  (∀ (f : F64) s is c, Ready (.lds f) s is c → is.lanes ≠ 0#32 → Unscaled f →
    let i : Instr := .lds f
    let z := accessSize f
    let r := inTurn (fun s p => (s, scratchLoad s c.team (scratchEaOf i.fields (f.mod.getLsbD 4) z p) z z))
      (parts i is c) s
    AllPerformed r.2 →
    Replies i s is c s fun l => loadWords (f.mod.toNat % 16) (bytesOf r.2 l)) ∧
  (∀ (f : F64) s is c, Ready (.sts f) s is c → is.lanes ≠ 0#32 → Unscaled f →
    let i : Instr := .sts f
    let z := accessSize f
    let q := f.mod.getLsbD 5
    let fmt := f.mod.toNat % 16
    let at' (p : Part1) : Nat := scratchEaOf i.fields (f.mod.getLsbD 4) z p
    let narrowed (p : Part1) : List Byte × Flags :=
      storeBytes fmt q (storeMode (f.mod.toNat / 4096 % 8) (seedOf (issueEnv i i.form is c)) (at' p)) p.c
    let r := inTurn (fun s p => scratchStore s [threadWriter is.crew p.l] c.team (at' p) z (narrowed p).1) (parts i is c) s
    AllPerformed r.2 →
    Leaves i s is c (orFlagsNow r.1 is.crew ((parts i is c).foldl (fun a p => a ||| (narrowed p).2) 0#5))) ∧
  (∀ (f : F64) s is c ea k, Ready (.lds f) s is c → f.mod.toNat % 16 ∈ [10, 11, 12] →
    let i : Instr := .lds f
    let fmt := f.mod.toNat % 16
    let n := if fmt = 11 then 18 else 34
    Same (parts i is c) (fun p => scratchEaOf i.fields (f.mod.getLsbD 4) 2 p) ea → ea % 2 = 0 →
    scratchAt s c.team ea n = some k → s.mem.scratchPoisoned k n = false →
    let bs := scratchSeen s c.team k n
    Replies i s is c s fun l => [widenScaled fmt (recordCode fmt bs l) (recordScale fmt bs l)]) ∧
  (∀ (f : F64) s is c ea k, Ready (.sts f) s is c → f.mod.toNat % 16 ∈ [10, 11, 12] →
    let i : Instr := .sts f
    let fmt := f.mod.toNat % 16
    let n := if fmt = 11 then 18 else 34
    let r := recordBytes fmt (f.mod.toNat / 4096 % 8) (seedOf (issueEnv i i.form is c)) ea
      ((parts i is c).map fun p => (p.l, w p.c 0))
    Same (parts i is c) (fun p => scratchEaOf i.fields (f.mod.getLsbD 4) 2 p) ea → ea % 2 = 0 →
    scratchAt s c.team ea n = some k →
    Leaves i s is c (orFlagsNow (scratchWrite s ((lanesOf is.lanes).map (threadWriter is.crew)) c.team k r.1) is.crew r.2))

namespace Sys2Proof.Claim

open Sys2Proof.Machine

/-- The new value of n bytes under an operation of ATOM and ARED (19 R224), on the values as n-byte words. -/
def atomValue (op : Nat) (n : Nat) (old v : BitVec (8 * n)) : BitVec (8 * n) :=
  if op = 0 then v
  else if op = 1 then old + v
  else if op = 2 then old &&& v
  else if op = 3 then old ||| v
  else if op = 4 then old ^^^ v
  else if op = 5 then (if old.sle v then old else v)
  else if op = 6 then (if v.sle old then old else v)
  else if op = 7 then (if old.ule v then old else v)
  else if op = 8 then (if v.ule old then old else v)
  else
    let a := old.setWidth 32
    let b := v.setWidth 32
    (if op = 9 then (sumOf a b).1 else if op = 10 then (lesserOf a b).1 else (greaterOf a b).1).setWidth (8 * n)

/-- The word or pair an operand holds, in n bytes. -/
def operandWord (n : Nat) (ws : List Word) : BitVec (8 * n) := (pairOf ws).setWidth (8 * n)

/-- The accesses of an atomic's lanes in ascending order, from the state s0, with the new bytes f gives. -/
def atomics (i : Instr) (f : F64) (s s0 : State) (is : Issue) (c : Crew) (n : Nat)
    (new : Part1 → List Byte → Option (List Byte)) : State × List (Nat × Got) :=
  inTurn (fun s1 p => threadAtomic s1 is.crew (ctxOf s c) (eaOf i.fields (f.mod.getLsbD 6) n p) n (new p))
    (parts i is c) s0

/-- Some lane's access of an atomic was performed and, by the test, wrote. -/
def someWrote (wrote : Nat → List Byte → Bool) (r : State × List (Nat × Got)) : Bool :=
  r.2.any fun e => match e.2 with | .bytes bs _ _ => wrote e.1 bs | _ => false

/-- The accesses of an atomic from the state they start in (11 R142, R148; 19 R225): as a release, after the crew's release,
where some lane writes; else, at core scope or wider, with the crew's held stores sent, where some lane's access is
performed. run is what the accesses do from a state. -/
def atomFrom (f : F64) (s : State) (is : Issue) (wrote : Nat → List Byte → Bool) (run : State → State × List (Nat × Got)) :
    State × List (Nat × Got) :=
  let scope := f.mod.toNat / 128 % 8
  run (if f.mod.getLsbD 11 && someWrote wrote (run s) then releaseAt s is.crew scope
    else if decide (2 ≤ scope) && someWrote (fun _ _ => true) (run s) then
      sendEntries s (coreOf is.crew) fun e => e.stores.contains is.crew
    else s)

/-- The state an atomic leaves: as a release the lines it wrote carry what the crew's release gives, as an acquire it takes
what the lines it read carried (11 R148, R153; 19 R225). -/
def atomEnd (f : F64) (s : State) (is : Issue) (wrote : Nat → List Byte → Bool) (r : State × List (Nat × Got)) : State :=
  let scope := f.mod.toNat / 128 % 8
  let s1 := if f.mod.getLsbD 11 && decide (1 ≤ scope) then
      r.2.foldl (fun s' e => match e.2 with
        | .bytes bs _ pa => if wrote e.1 bs then carry s' (releaseSig s is.crew scope (lanesOf is.lanes)) pa else s'
        | _ => s') r.1
    else r.1
  if f.mod.getLsbD 10 then
    r.2.foldl (fun s e => match e.2 with | .bytes _ _ pa => acquireAt s is.crew scope pa | _ => s) s1
  else s1

end Sys2Proof.Claim

/-- 19 R224 and R225: ATOM and CAS give each lane the old value as a memory reply and ARED gives none; the lanes act in
ascending order, ATOM and ARED with the operation of the encoding, CAS only where the old value equals vd bit for bit. That
the reply's words are bound at issue is the model's choice (log 6). -/
def Obligations.AtomicInstructionsComplete : Prop :=
  (∀ (f : F64) s is c, Ready (.atom f) s is c → is.lanes ≠ 0#32 → f.mod.toNat % 16 ≤ 11 →
    let n := if f.mod.toNat / 16 % 4 = 1 then 8 else 4
    f.mod.toNat / 16 % 4 ≤ 1 → (n = 8 → f.mod.toNat % 16 ≤ 8) →
    let r := atomFrom f s is (fun _ _ => true) fun s0 => atomics (.atom f) f s s0 is c n fun p old =>
      some (bytesOfWord n (atomValue (f.mod.toNat % 16) n (wordOfBytes n old) (operandWord n p.c)))
    AllPerformed r.2 →
    Replies (.atom f) s is c (atomEnd f s is (fun _ _ => true) r) fun l => byteWords (bytesOf r.2 l)) ∧
  (∀ (f : F64) s is c, Ready (.ared f) s is c → is.lanes ≠ 0#32 → f.mod.toNat % 16 ≤ 11 →
    let n := if f.mod.toNat / 16 % 4 = 1 then 8 else 4
    f.mod.toNat / 16 % 4 ≤ 1 → (n = 8 → f.mod.toNat % 16 ≤ 8) →
    let r := atomFrom f s is (fun _ _ => true) fun s0 => atomics (.ared f) f s s0 is c n fun p old =>
      some (bytesOfWord n (atomValue (f.mod.toNat % 16) n (wordOfBytes n old) (operandWord n p.c)))
    AllPerformed r.2 → Leaves (.ared f) s is c (atomEnd f s is (fun _ _ => true) r)) ∧
  (∀ (f : F64) s is c, Ready (.cas f) s is c → is.lanes ≠ 0#32 → f.mod.toNat / 16 % 4 ≤ 2 →
    let n := 4 * 2 ^ (f.mod.toNat / 16 % 4)
    let wrote (l : Nat) (old : List Byte) : Bool :=
      old == (partAt (Instr.form (.cas f)) (Instr.fields (.cas f)) c l).d.flatMap (bytesOfWord 4)
    let r := atomFrom f s is wrote fun s0 => atomics (.cas f) f s s0 is c n fun p old =>
      if old = p.d.flatMap (bytesOfWord 4) then some (p.c.flatMap (bytesOfWord 4)) else none
    AllPerformed r.2 →
    Replies (.cas f) s is c (atomEnd f s is wrote r) fun l => byteWords (bytesOf r.2 l))

/-! ## Addresses, elements and records (chapter 09; 19 R218, R220, R222) -/

namespace Sys2Proof.Claim

open Sys2Proof.Machine

/-- The bytes of an element of a format that is not block-scaled (09 R107). -/
def formatBytes (fmt : Nat) : Nat := [1, 2, 4, 8, 1, 1, 2, 2, 4, 2].getD fmt 0

/-- The exact value of a finite number. -/
def ratOf (x : FNum) : Rat := (x.val.num : Rat) / (x.val.den : Rat)

/-- The magnitude of a number, and the place of the highest set bit of a positive one. -/
def mag (r : Rat) : Rat := if r < 0 then -r else r
def topBit (r : Rat) : Int :=
  let e : Int := (Nat.log2 r.num.toNat : Int) - (Nat.log2 r.den : Int)
  if r < (2 : Rat) ^ e then e - 1 else e

/-- The value of a code without its scale: of M8 by the classes of 09 R109, told by the highest set bit of the payload; of H4
and H8 n + ½ (R110). -/
def codeValue (fmt c : Nat) : Rat :=
  if fmt = 10 then
    let p := c % 128
    let marker := Nat.log2 p
    let base : Int := [-19, -18, -16, -12, -8, -4, 0].getD marker 0
    let fb := marker - min marker 2
    let e := p % 2 ^ marker / 2 ^ fb
    let f := p % 2 ^ fb
    if p = 0 then 0 else (if 128 ≤ c then -1 else 1) * (2 : Rat) ^ (base + e) * (1 + (f : Rat) / (2 : Rat) ^ fb)
  else
    let n : Int := if fmt = 11 then (BitVec.ofNat 4 c).toInt else (BitVec.ofNat 8 c).toInt
    (n : Rat) + 1 / 2

/-- A code of a block reads as NaN (09 R111, R112). -/
def readsNan (fmt c e8 : Nat) : Bool := e8 = 255 || (fmt = 10 && c = 0x80)

/-- The scale of an E8 (09 R111). -/
def scaleValue (e8 : Nat) : Rat := (2 : Rat) ^ ((e8 : Int) - 127)

/-- A value between the grid values at lo and lo + 1 of a grid, at the fraction x of the way, goes to the upper one under a
mode; even: the code at lo ends in 0 (09 R113, R117). -/
def goesUp (m : StoreMode) (even : Bool) (x : Rat) : Bool :=
  match m with
  | .mode .rne => decide (1 / 2 < x) || (decide (x = 1 / 2) && !even)
  | .mode .rtz => false
  | .mode .rdn => false
  | .mode .rup => true
  | .mode .rmm => decide (1 / 2 ≤ x)
  | .sr r => decide ((r : Rat) < x * 2 ^ 32)

/-- m / g rounded to an integer for a magnitude of the sign given: the directed modes and the stochastic one are on the signed
grid. -/
def roundQuotient (mode : StoreMode) (neg : Bool) (m g : Nat) : Nat :=
  let lo := m / g
  let x : Rat := (m % g : Nat) / (g : Rat)
  if m % g = 0 then lo
  else if neg then
    match mode with
    | .mode .rdn => lo + 1
    | .mode .rup => lo
    | .sr r => if (r : Rat) < (1 - x) * 2 ^ 32 then lo else lo + 1
    | md => if goesUp md (lo % 2 = 0) x then lo + 1 else lo
  else if goesUp mode (lo % 2 = 0) x then lo + 1 else lo

/-- A store of a word as BF16 (09 R114, R117, R118): the code is the rounded upper half of the magnitude, with the sign. -/
def storeHalf (mode : StoreMode) (x : Word) : Nat × Flags :=
  let neg := x.msb
  let sign := if neg then 0x8000 else 0
  let m := x.toNat % 2 ^ 31
  if isNan x then (0x7FC0, flagIf (isSnan x) flagNV)
  else if m = 0x7F800000 then (sign + 0x7F80, 0)
  else
    let inexact := decide (m % 2 ^ 16 ≠ 0)
    let tiny := decide (m < 2 ^ 23) && decide (roundQuotient mode neg m (2 ^ 15) < 2 ^ 8)
    match mode with
    | .sr _ =>
      if 0x7F7F0000 < m then (sign + 0x7F7F, flagNX ||| flagOF)
      else (sign + roundQuotient mode neg m (2 ^ 16), flagIf inexact flagNX ||| flagIf (inexact && tiny) flagUF)
    | .mode _ =>
      let c := roundQuotient mode neg m (2 ^ 16)
      (sign + c, flagIf inexact flagNX ||| flagIf (c = 0x7F80) flagOF ||| flagIf (inexact && tiny) flagUF)

/-- A saturating store of an integer (09 R115, R118). -/
def storeSaturated (lo hi v : Int) : Int × Flags := if v < lo then (lo, flagNX) else if hi < v then (hi, flagNX) else (v, 0)

/-- The M8 code of y, and whether it saturates (09 R113, R116): payloads rise with their magnitudes, and no code is −0. -/
def storeM8 (mode : StoreMode) (y : Rat) : Nat × Bool :=
  let neg := decide (y < 0)
  let a := mag y
  let at' (p : Nat) : Rat := codeValue 10 p
  let lo := ((List.range 127).filter fun p => at' (p + 1) ≤ a).length
  let x := (a - at' lo) / (at' (lo + 1) - at' lo)
  let up := match mode with
    | .mode .rdn => neg
    | .mode .rup => !neg
    | .sr r => if neg then !decide ((r : Rat) < (1 - x) * 2 ^ 32) else goesUp (.sr r) true x
    | md => goesUp md (lo % 2 = 0) x
  if 31 / 2 < a then ((if neg then 0xFF else 0x7F), true)
  else
    let p := if at' lo = a then lo else if up then lo + 1 else lo
    (if p = 0 then 0 else if neg then 0x80 + p else p, false)

/-- The H4 or H8 code, of n bits, of y with a sign, and whether it saturates (09 R110, R113, R116). -/
def storeH (n : Nat) (mode : StoreMode) (neg : Bool) (y : Rat) : Nat × Bool :=
  let top : Int := 2 ^ (n - 1)
  let lo := (y - 1 / 2).floor
  let x := y - 1 / 2 - lo
  let code (k : Int) : Nat := (BitVec.ofInt n k).toNat
  if y = 0 then (code (if neg then -1 else 0), false)
  else if (top : Rat) - 1 / 2 < y then (code (top - 1), true)
  else if y < 1 / 2 - (top : Rat) then (code (-top), true)
  else if x = 0 then (code lo, false)
  else
    match mode with
    | .mode .rtz => (code (if y < 0 then min (lo + 1) (-1) else max lo 0), false)
    | .mode .rmm => (code (if 1 / 2 < x ∨ (x = 1 / 2 ∧ 0 ≤ y) then lo + 1 else lo), false)
    | md => (code (if goesUp md (lo % 2 = 0) x then lo + 1 else lo), false)

/-- A word's magnitude for the scale, as its bits: an infinity counts as the largest finite number (09 R116). -/
def scaleBits (x : Word) : Nat := min (x.toNat % 2 ^ 31) 0x7F7FFFFF

/-- The E8 of a block of words (09 R116). -/
def blockE8 (fmt : Nat) (xs : List Word) : Nat :=
  let most := xs.foldl (fun a x => max a (scaleBits x)) 0
  let place : Int := if fmt = 10 then 3 else if fmt = 11 then 2 else 6
  if xs.any isNan then 255
  else if most = 0 then 0
  else (min 254 (max 0 (topBit (exact (BitVec.ofNat 32 most)) - place + 127))).toNat

/-- The code of a word in a block of scale e8, with its flags (09 R116, R118). -/
def blockElement (fmt e8 : Nat) (mode : StoreMode) (x : Word) : Nat × Flags :=
  let bits := if fmt = 11 then 4 else 8
  if e8 = 255 then (if fmt = 10 then 0x80 else 0, if isNan x then flagNV else flagNX)
  else if isNan x then (if fmt = 10 then 0x80 else 0, flagNV)
  else if (num32 x).isInf then
    (if fmt = 10 then (if x.msb then 0xFF else 0x7F) else if x.msb then 2 ^ (bits - 1) else 2 ^ (bits - 1) - 1, flagNX)
  else
    let y := exact x / scaleValue e8
    let r := if fmt = 10 then storeM8 mode y else storeH bits mode x.msb y
    (r.1, flagIf (codeValue fmt r.1 ≠ y) flagNX ||| flagIf r.2 flagOF)

/-- A product of finite numbers as Millstone adds it: truncated to a multiple of u (09 R122). -/
def truncated (u : Rat) (p : FNum) : Rat := (if p.isNeg then -1 else 1) * ((mag (ratOf p) / u).floor : Rat) * u

/-- The step of a K-step's products, of which there is one (09 R122). -/
def stepWord (ps : List FNum) : Word :=
  let inf (n : Bool) : Bool := ps.any fun p => p.isInf && p.isNeg == n
  let logs := (ps.filter fun p => !p.isZero).map fun p => topBit (mag (ratOf p))
  let u : Rat := (2 : Rat) ^ (logs.foldl max (logs.headD 0) - 55)
  if ps.any FNum.isNan || (inf true && inf false) then canonicalNan
  else if inf true then infWord true
  else if inf false then infWord false
  else if ps.all FNum.isZero then zeroWord (ps.all FNum.isNeg)
  else nearest ((ps.map (truncated u)).foldl (· + ·) 0)

/-- The halfword and the byte at an offset. -/
def halfAt (bs : List Byte) (o : Nat) : Word := (wordOfBytes 2 (bs.drop o)).setWidth 32
def byteAt (bs : List Byte) (o : Nat) : Nat := (bs.getD o 0).toNat

end Sys2Proof.Claim

/-- 19 R217 and R218: the effective address is the base plus the index and the displacement in units of the access size, modulo
2^64, or 2^32 in scratchpad; the displacement is imm8 sign-extended, or its low five bits with a group index. -/
def Sys2Proof.Claim.AddressesAreFormedExactly : Prop :=
  ∀ (f : Fields) ix z (p : Part1), f.imm < 256 →
    let disp : BitVec 64 := if f.g then (BitVec.ofNat 5 f.imm).signExtend 64 else (BitVec.ofNat 8 f.imm).signExtend 64
    let idx : BitVec 64 := if ix then (w p.b 0).signExtend 64 else 0#64
    (ix = true → p.b ≠ []) →
    eaOf f ix z p = (pairOf p.a + idx * BitVec.ofNat 64 z + disp * BitVec.ofNat 64 z).toNat ∧
    scratchEaOf f ix z p =
      (w p.a 0 + idx.setWidth 32 * BitVec.ofNat 32 z + disp.setWidth 32 * BitVec.ofNat 32 z).toNat

/-- 09 R107 to R112 and 19 R220 and R222: what a load delivers of an element's bytes: zero- or sign-extended, the bits, BF16
widened with 16 zero bits, pairs and quadruples word by word; and of a record's code and scale the exact value, an infinity
beyond the FP32 range, or the NaN. -/
def Sys2Proof.Claim.LoadsWidenTheirElements : Prop :=
  (∀ fmt bs, fmt < 10 → fmt ≠ 3 → bs.length = formatBytes fmt → loadWords fmt bs =
    [if fmt = 4 then (wordOfBytes 1 bs).signExtend 32 else if fmt = 6 then (wordOfBytes 2 bs).signExtend 32
     else if fmt = 9 then halfAt bs 0 <<< (16 : Nat) else if fmt = 0 ∨ fmt = 5 then (wordOfBytes 1 bs).setWidth 32
     else if fmt = 1 ∨ fmt = 7 then halfAt bs 0 else wordOfBytes 4 bs]) ∧
  (∀ fmt bs, bs.length = 8 → loadWords fmt bs = [wordOfBytes 4 bs, wordOfBytes 4 (bs.drop 4)]) ∧
  (∀ fmt bs, bs.length = 16 →
    loadWords fmt bs = [wordOfBytes 4 bs, wordOfBytes 4 (bs.drop 4), wordOfBytes 4 (bs.drop 8), wordOfBytes 4 (bs.drop 12)]) ∧
  (∀ fmt bs l, fmt ∈ [10, 11, 12] → l < 32 →
    recordCode fmt bs l = (if fmt ≠ 11 then byteAt bs l else if l % 2 = 0 then byteAt bs (l / 2) % 16 else byteAt bs (l / 2) / 16) ∧
    recordScale fmt bs l = byteAt bs ((if fmt = 11 then 16 else 32) + l / 16)) ∧
  (∀ fmt c e8, fmt ∈ [10, 11, 12] → c < (if fmt = 11 then 16 else 256) → e8 < 256 →
    widenScaled fmt c e8 = if readsNan fmt c e8 then 0x7FC00000#32 else nearest (codeValue fmt c * scaleValue e8))

/-- 09 R107 and R113 to R118 and 19 R222: what a store writes of a word, with its flags: the low bytes, a saturated integer, or
BF16 rounded under the mode with IEEE overflow; and of the lanes of a record the codes and scales of its blocks, lanes that do
not store counting as +0, with the flags of those that do. -/
def Sys2Proof.Claim.StoresNarrowTheirWords : Prop :=
  (∀ fmt mode ws, storeBytes fmt true mode ws = (ws.flatMap (bytesOfWord 4), 0)) ∧
  (∀ mode ws, storeBytes 3 false mode ws = (ws.flatMap (bytesOfWord 4), 0)) ∧
  (∀ fmt mode (x : Word), fmt ∈ [0, 1, 2, 8] → storeBytes fmt false mode [x] = (bytesOfWord (formatBytes fmt) x, 0)) ∧
  (∀ fmt mode (x : Word), fmt ∈ [4, 5, 6, 7] →
    let r := if fmt = 4 then storeSaturated (-128) 127 x.toInt else if fmt = 5 then storeSaturated 0 255 x.toNat
      else if fmt = 6 then storeSaturated (-32768) 32767 x.toInt else storeSaturated 0 65535 x.toNat
    storeBytes fmt false mode [x] = (bytesOfWord (formatBytes fmt) (BitVec.ofInt 32 r.1), r.2)) ∧
  (∀ mode (x : Word), storeBytes 9 false mode [x] =
    (bytesOfWord 2 (BitVec.ofNat 16 (storeHalf mode x).1), (storeHalf mode x).2)) ∧
  (∀ fmt rnd seed base (vals : List (Nat × Word)), fmt ∈ [10, 11, 12] → (∀ e ∈ vals, e.1 < 32) → (vals.map Prod.fst).Nodup →
    let word (l : Nat) : Word := ((vals.find? fun e => e.1 = l).map Prod.snd).getD 0#32
    let e8 (b : Nat) : Nat := blockE8 fmt ((List.range 16).map fun k => word (16 * b + k))
    let counter (l : Nat) : Nat := if fmt = 11 then 2 * (base + l / 2) + l % 2 else base + l
    let mode (l : Nat) : StoreMode :=
      if rnd = 4 then .sr (mix32 (BitVec.ofNat 32 (counter l)) seed).toNat else .mode (Mode.ofCode rnd)
    let element (l : Nat) : Nat × Flags := blockElement fmt (e8 (l / 16)) (mode l) (word l)
    let r := recordBytes fmt rnd seed base vals
    r.1.length = (if fmt = 11 then 18 else 34) ∧
    (∀ l, l < 32 → recordCode fmt r.1 l = (element l).1 ∧ recordScale fmt r.1 l = e8 (l / 16)) ∧
    r.2 = vals.foldl (fun a e => a ||| (element e.1).2) 0#5)

/-- 09 R122, R123 and R126: the element of a canonical tile is read from its step with its block's scale, held exactly; a K-step
adds the sum of its products, each truncated, rounded once, those of +0 left out with zero-skip; and an output element runs its
steps in ascending order. -/
def Sys2Proof.Claim.TilesAndStepsAreExact : Prop :=
  (∀ (h : TileHead) bs r k, h.fmt ∈ [9, 10, 11] → r < h.rows → k < h.klen →
    let e := if h.fmt = 9 then 24 else if h.fmt = 10 then 48 else 96
    let step := 64 + 48 * (r * h.steps + k / e)
    let scale := byteAt bs (64 + 48 * h.rows * h.steps + 8 * (r * h.steps + k / e) + k % e / 16)
    let code := if h.fmt = 10 then byteAt bs (step + k % e)
      else if k % e % 2 = 0 then byteAt bs (step + k % e / 2) % 16 else byteAt bs (step + k % e / 2) / 16
    if h.fmt = 9 then tileElem h bs r k = num32 (halfAt bs (step + 2 * (k % e)) <<< (16 : Nat))
    else
      match tileElem h bs r k with
      | .nan => readsNan h.fmt code scale = true
      | .inf _ => False
      | .fin n m => readsNan h.fmt code scale = false ∧ ratOf (.fin n m) = codeValue h.fmt code * scaleValue scale ∧
        (n = true ↔ codeValue h.fmt code < 0)) ∧
  (∀ (pairs : List (FNum × FNum)) zs acc, (∀ p ∈ pairs, (∀ n m, p.1 = .fin n m → 0 ≤ m.num ∧ 0 < m.den) ∧
      ∀ n m, p.2 = .fin n m → 0 ≤ m.num ∧ 0 < m.den) →
    let plusZero (x : FNum) : Bool := x.isZero && !x.isNeg
    let ps := (pairs.filter fun p => !(zs && (plusZero p.1 || plusZero p.2))).map fun p => p.1.mul p.2
    kstep pairs zs acc = if ps = [] then acc else (sumOf acc (stepWord ps)).1) ∧
  (∀ (h : TileHead) (a b : Nat → FNum) zs acc, h.fmt ∈ [9, 10, 11] →
    let e := if h.fmt = 9 then 24 else if h.fmt = 10 then 48 else 96
    dotSteps h a b zs acc = (List.range h.steps).foldl
      (fun v k => kstep ((List.range (min e (h.klen - e * k))).map fun q => (a (e * k + q), b (e * k + q))) zs v) acc)

/-- 09 R107 to R118, R122, R123 and R126, 19 R217, R218, R220 and R222: effective addresses, the widening of loads, the narrowing
of stores with its flags, records and canonical tiles follow the formats exactly. -/
def Obligations.AddressesAndElementsFollowTheFormats : Prop :=
  Claim.AddressesAreFormedExactly ∧ Claim.LoadsWidenTheirElements ∧ Claim.StoresNarrowTheirWords ∧ Claim.TilesAndStepsAreExact

/-- 19 R227 to R229 with 11 R142, R148 and R153: FENCE sends the crew's held stores at core scope or wider; unless its kind is
acq it releases at its scope, and later stores carry what that release gives; unless its kind is rel the crew acquires what
the lines it has read carried. PREF does nothing but start the migration of a capacity page with MIG, and sets no A bit (the
model's reading, log 39), nor does CCTL, which acts on the line of each lane's address and changes no byte its core sees: IINV, WB
and INV leave nothing of the line dirty in the core's L1, its bytes at their home, and IINV no copy in any instruction cache; L2WB
and L2FL leave nothing of it dirty in L2, its bytes in memory; other lines stay. -/
def Obligations.FencesPrefetchesAndCacheOperationsComplete : Prop :=
  (∀ (f : F64) s is c, Ready (.fence f) s is c →
    let kind := f.mod.toNat % 4
    let scope := f.mod.toNat / 4 % 8
    let s0 := if 2 ≤ scope then sendEntries s (coreOf is.crew) fun e => e.stores.contains is.crew else s
    let s1 := releaseAt s0 is.crew scope
    let s2 := s1.setCrews (s1.crews.modify is.crew fun c => { c with fence := c.fence.join (releaseSig s0 is.crew scope (lanesOf is.lanes)) })
    let s3 := if kind = 0 ∨ scope = 0 then s0 else s2
    Leaves (.fence f) s is c
      (if kind = 1 ∨ scope = 0 then s3 else s3.setCrews (s3.crews.modify is.crew fun c => c.acquire c.reads))) ∧
  (∀ (f : F64) s is c, Ready (.pref f) s is c →
    Leaves (.pref f) s is c ((parts (.pref f) is c).foldl (fun s p =>
      let ea := eaOf (Instr.fields (.pref f)) (f.mod.getLsbD 2) 128 p
      match reach s (coreOf is.crew) (ctxOf s c) ea .load with
      | .capacity pte at' big =>
        if f.mod.getLsbD 5 then startMigration s (faultDie s (coreOf is.crew)) (ctxOf s c) ea pte at' big else s
      | _ => s) s)) ∧
  (∀ (f : F64) s is c, Ready (.cctl f) s is c →
    let r := inTurn (fun s1 p =>
      match reach s1 (coreOf is.crew) (ctxOf s c) (eaOf (Instr.fields (.cctl f)) (f.mod.getLsbD 4) 128 p) .cache with
      | .ok m => (cacheOp s1 (coreOf is.crew) (f.mod.toNat % 16) m.pa, .bytes [] [] m.pa)
      | .capacity _ _ _ => (s1, .bytes [] [] 0)
      | .bad k => (s1, .raise k)) (parts (.cctl f) is c) s
    AllPerformed r.2 → Leaves (.cctl f) s is c r.1) ∧
  (∀ s core op pa a, MemGood s.mem → a < 2 ^ 52 →
    (cacheOp s core op pa).mem.seen core a = s.mem.seen core a) ∧
  (∀ s core op pa a, MemGood s.mem → a < 2 ^ 52 →
    let t := cacheOp s core op pa
    let copies (s : State) (k : Nat) : Option Byte := s.mem.icache.get (l1Key k a)
    if a / 128 = pa / 128 then
      (op ∈ [0, 1, 2] → t.mem.l1.get (l1Key core a) = none ∧ t.mem.home a = s.mem.seen core a ∧ t.mem.ram.read a = s.mem.ram.read a) ∧
      (∀ k, copies t k = if op = 0 then none else copies s k) ∧
      (op ∈ [3, 4] → t.mem.l2.get a = none ∧ t.mem.ram.read a = s.mem.home a ∧
        t.mem.l1.get (l1Key core a) = s.mem.l1.get (l1Key core a))
    else
      t.mem.l1.get (l1Key core a) = s.mem.l1.get (l1Key core a) ∧ t.mem.home a = s.mem.home a ∧
        t.mem.ram.read a = s.mem.ram.read a ∧ ∀ k, copies t k = copies s k)

/-- 19 R230 and R231: a BAR by the last threads the barrier waits for completes it: every live thread of the team wakes
past its BAR and the generation rises; while another crew of the team, or another thread of this one, is awake, the group
sleeps at its PC and the generation stays. In handler mode BAR raises 0x080. -/
def Sys2Proof.Claim.BarWaitsForTheWholeTeam : Prop :=
  (∀ (f : F64) s is c t, Ready (.bar f) s is c → is.handler = false → is.lanes ≠ 0#32 → Map.sorted s.crews = true →
    (∀ l ∈ lanesOf is.lanes, (c.thread l).live = true) → s.teams.get c.team = some t → t.barBad = false →
    (∀ e ∈ s.crews, e.2.team = c.team → ∀ l ∈ e.2.liveLanes,
      (e.2.thread l).wait = .barrier ∨ (e.1 = is.crew ∧ inMask is.lanes l = true)) →
    ∃ u t', exec (.bar f) s = .next u ∧ u.teams.get c.team = some t' ∧
      t'.barGen = t.barGen + 1#32 ∧ t'.barCount = 0 ∧ t'.barFlags = [] ∧
      (∀ k d, s.crews.get k = some d → d.team = c.team → ∃ d', u.crews.get k = some d' ∧
        ∀ l ∈ d.liveLanes, d'.thread l = { d.thread l with wait := .awake, pc := (d.thread l).pc + 8#57 }) ∧
      (∀ k d, s.crews.get k = some d → d.team ≠ c.team → u.crews.get k = some d) ∧ u.near = s.near ∧ u.disp = s.disp) ∧
  (∀ (f : F64) s is c t, Ready (.bar f) s is c → is.handler = false → Map.sorted s.crews = true →
    s.teams.get c.team = some t → t.barBad = false → (∀ l n, (c.thread l).wait ≠ .conv n) →
    (∃ e ∈ s.crews, e.2.team = c.team ∧ ∃ l ∈ e.2.liveLanes, (e.2.thread l).wait = .awake ∧
      ¬ (e.1 = is.crew ∧ inMask is.lanes l = true)) →
    ∃ u t' d, exec (.bar f) s = .next u ∧ u.teams.get c.team = some t' ∧ t'.barGen = t.barGen ∧
      u.crews.get is.crew = some d ∧ CrewKept c d ∧ OthersKept is.crew s u ∧ u.mem = s.mem ∧
      ∀ l, l < 32 → d.thread l = if inMask is.lanes l then { c.thread l with wait := .barrier } else c.thread l) ∧
  (∀ (f : F64) s is c t, Ready (.bar f) s is c → is.handler = true → OneGroup is c → is.lanes ≠ 0#32 →
    s.teams.get c.team = some t → ∃ u d, exec (.bar f) s = .next u ∧ u.crews.get is.crew = some d ∧
      (d.held.get 0x080).isSome = true ∧
      ∀ l ∈ lanesOf is.lanes, (d.thread l).handler = true ∧ (d.thread l).pc = is.next ∧ (d.thread l).wait = .awake)

/-- 19 R232: WAITBIT gives a lane whose bit has the chosen value its word at once, with an acquire at its scope; a lane
whose bit has not sleeps at its PC with a limit of 2^(LIMIT + 6) clocks, none for 0, and the clock of its read, from which the
next is due. -/
def Sys2Proof.Claim.WaitbitWaitsForItsBit : Prop :=
  (∀ (f : F64) s is c, Ready (.waitbit f) s is c → is.lanes ≠ 0#32 →
    let i : Instr := .waitbit f
    let r := inTurn (fun s1 p =>
      let r := threadLoad s1 is.crew (ctxOf s c) (eaOf i.fields (f.mod.getLsbD 7) 8 p) 8 8 false
      match r.2 with
      | .bytes _ _ pa => (acquireAt r.1 is.crew (f.mod.toNat / 256 % 8) pa, r.2)
      | _ => r) (parts i is c) s
    AllPerformed r.2 → (∀ l ∈ lanesOf is.lanes,
      (wordOfBytes 8 (bytesOf r.2 l)).getLsbD (f.mod.toNat % 64) = f.mod.getLsbD 6) →
    Replies i s is c r.1 fun l => byteWords (bytesOf r.2 l)) ∧
  (∀ (f : F64) s is c, Ready (.waitbit f) s is c →
    let i : Instr := .waitbit f
    let at' (p : Part1) : Nat := eaOf i.fields (f.mod.getLsbD 7) 8 p
    let r := inTurn (fun s1 p =>
      let r := threadLoad s1 is.crew (ctxOf s c) (at' p) 8 8 false
      match r.2 with
      | .bytes bs _ pa =>
        let s2 := acquireAt r.1 is.crew (f.mod.toNat / 256 % 8) pa
        let sl : Sleeper :=
          { crew := is.crew, lanes := maskOf [p.l], since := s2.clock, seq := c.issues + 1, next := is.next
            what := .waitbit (at' p) (f.mod.toNat % 64) (f.mod.getLsbD 6)
              (if f.mod.toNat / 2048 % 16 = 0 then none else some (s2.clock + 2 ^ (f.mod.toNat / 2048 % 16 + 6)))
              f.vd.toNat (wordOfBytes 8 bs) s2.clock (f.mod.toNat / 256 % 8) }
        ((s2.setSerial (s2.serial + 1)).setSleepers (s2.sleepers.set s2.serial sl), r.2)
      | _ => r) (parts i is c) s
    AllPerformed r.2 → (∀ l ∈ lanesOf is.lanes,
      (wordOfBytes 8 (bytesOf r.2 l)).getLsbD (f.mod.toNat % 64) ≠ f.mod.getLsbD 6) →
    ∃ t d, exec i s = .next t ∧ t.crews.get is.crew = some d ∧ t.sleepers = r.1.sleepers ∧
      ∀ l, l < 32 → if inMask is.lanes l then
          ∃ id sl, d.thread l = { c.thread l with wait := .op id } ∧ t.sleepers.get id = some sl ∧ sl.lanes = maskOf [l]
        else d.thread l = c.thread l)

/-- BAR waits for the whole team and completes with the last; WAITBIT answers at once or sleeps. -/
def Obligations.BarAndWaitbitWait : Prop :=
  Claim.BarWaitsForTheWholeTeam ∧ Claim.WaitbitWaitsForItsBit

namespace Sys2Proof.Claim

open Sys2Proof.Machine

/-- What a LAUNCH does for its participants in ascending lane order (19 R233): none where an address is misaligned or
unreadable, or where the word of a record rejected at once waits for a page. -/
def launchInTurn (key ctx : Nat) (who : Agent) : List Part1 → State → Option (State × List (Nat × Word))
  | [], s => some (s, [])
  | p :: ps, s =>
    let ea := (pairOf p.a).toNat
    let s1 := releaseAt s key 5
    if ea % 64 ≠ 0 then none
    else
      match engineRead s1 256 ctx ea 128 with
      | .ok bs false =>
        (match takeRecord s1 who ctx bs with
         | .taken s2 => (launchInTurn key ctx who ps (forgetUnread s2 who)).map fun r => (r.1, (p.l, 0#32) :: r.2)
         | .full => (launchInTurn key ctx who ps s1).map fun r => (r.1, (p.l, 1#32) :: r.2)
         | .waits _ => none)
      | _ => none

/-- The word of a lane. -/
def wordOfLane (ws : List (Nat × Word)) (l : Nat) : Word := ((ws.find? fun e => e.1 = l).map Prod.snd).getD 0#32

end Sys2Proof.Claim

/-- 19 R233 with 03 R31 and R35: LAUNCH takes the participants' records in lane order and answers 0 for one taken and 1
for a full queue; a valid record enters the queue it names as a launch of its fields. -/
def Obligations.LaunchPostsRecordsInLaneOrder : Prop :=
  (∀ (f : F64) s is c s' ws, Ready (.launch f) s is c → is.lanes ≠ 0#32 →
    launchInTurn is.crew (ctxOf s c) (.check is.crew is.pc.toNat) (parts (.launch f) is c) s = some (s', ws) → s'.crews.get is.crew ≠ none →
    ∃ t d c' r, exec (.launch f) s = .next t ∧ t.crews.get is.crew = some d ∧ s'.crews.get is.crew = some c' ∧
      (∀ l, l < 32 → d.thread l = if inMask is.lanes l then is.after (c'.thread l) else c'.thread l) ∧
      d.pend = c'.pend ++ [r] ∧
      (∀ l, l < 32 → r.writes.get (32 * f.vd.toNat + l) =
        if inMask is.lanes l = true then some (wordOfLane ws l) else none) ∧
      CrewKept c' d ∧ MachineKept is s' t) ∧
  (∀ s who ctx bs s', recordBad s ctx bs = false → takeRecord s who ctx bs = .taken s' →
    let r := LaunchRecord.parse bs
    s.serial ∈ (s'.queue r.jobq.toNat).launches ∧
    s'.launches.get s.serial = some
      { record := r, ctx := ctx, bad := false, next := 0, retired := 0, killed := false, placed := false
        faulted := false, halted := false, reset := false, done := false }) ∧
  (∀ s who ctx bs, recordBad s ctx bs = false →
    64 ≤ ((s.queue (LaunchRecord.parse bs).jobq.toNat).launches.filter fun id =>
      match s.launches.get id with | some l => !l.done | none => false).length →
    takeRecord s who ctx bs = .full)

namespace Sys2Proof.Claim

open Sys2Proof.Machine

/-- The CSR map of 19 R235 for a lane: number and value. -/
def csrMap (s : State) (is : Issue) (c : Crew) (l : Nat) : List (Nat × Word) :=
  let th := c.thread l
  let k := s.core (coreOf is.crew)
  let base := (s.context (ctxOf s c)).hbase
  [(0x001, c.fflags.setWidth 32), (0x002, bit c.stallchk), (0x010, th.tlbase.setWidth 32),
   (0x011, (th.tlbase.extractLsb' 32 25).setWidth 32), (0x012, th.tlsp),
   (0x013, ((recordOf s c).map LaunchRecord.tlsize).getD 0#32), (0x020, scrclOf s is.crew c),
   (0x100, (k.part (is.crew / 32 % 6)).rfpsn), (0x101, base.setWidth 32),
   (0x102, (base.extractLsb' 32 25).setWidth 32), (0x110, k.poolMin), (0x111, k.poolCap)] ++
    (List.range 16).map fun n => (0x180 + n, th.h.getD n 0#32)

/-- The value of a CSR. -/
def csrWord (s : State) (is : Issue) (c : Crew) (n l : Nat) : Word :=
  (((csrMap s is c l).find? fun e => e.1 = n).map Prod.snd).getD 0#32

/-- What a CSRW makes of an old value: written, bits set, bits cleared (19 R234). -/
def csrWritten (op : Nat) (old v : Word) : Word :=
  if op = 0 then v else if op = 1 then old ||| v else old &&& ~~~v

/-- The value a CSRW of a CSR with one owner brings: va of the lowest participant, or all set bits (19 R234). -/
def csrOperand (op : Nat) (ps : List Part1) : Word :=
  if op = 0 then (ps.head?.map fun p => w p.a 0).getD 0#32 else ps.foldl (fun v p => v ||| w p.a 0) 0#32

end Sys2Proof.Claim

/-- 19 R234 and R235: CSRR gives every participant the value of its CSR. -/
def Sys2Proof.Claim.CsrrReadsTheNamedRegister : Prop :=
  ∀ (f : F64) s is c, Ready (.csrr f) s is c → (∃ v, (f.mod.toNat % 4096, v) ∈ csrMap s is c 0) →
    Gives (.csrr f) s is c s c (onward is) fun p => ([csrWord s is c (f.mod.toNat % 4096) p.l], 0)

/-- 19 R234 with 05 R65 and 21 R240: CSRW writes the copy of each thread, or the one register of crew or core. -/
def Sys2Proof.Claim.CsrwWritesTheNamedRegister : Prop :=
  let number (f : F64) : Nat := f.mod.toNat % 4096
  let op (f : F64) : Nat := f.mod.toNat / 4096 % 4
  let brought (f : F64) (is : Issue) (c : Crew) : Word := csrOperand (op f) (parts (.csrw f) is c)
  (∀ (f : F64) s is c, Ready (.csrw f) s is c → number f = 0x012 →
    Gives (.csrw f) s is c s c (fun l t =>
      let v := csrWritten (op f) t.tlsp (w (partAt (Instr.form (.csrw f)) (Instr.fields (.csrw f)) c l).a 0)
      is.after { t with tlsp := v &&& ~~~7#32 }) nothing) ∧
  (∀ (f : F64) s is c (n : Fin 16), Ready (.csrw f) s is c → number f = 0x180 + n →
    Gives (.csrw f) s is c s c (fun l t =>
      let v := csrWritten (op f) (t.h.getD n 0#32) (w (partAt (Instr.form (.csrw f)) (Instr.fields (.csrw f)) c l).a 0)
      is.after { t with h := t.h.set n v }) nothing) ∧
  (∀ (f : F64) s is c, Ready (.csrw f) s is c → is.lanes ≠ 0#32 → number f = 0x001 →
    Gives (.csrw f) s is c s
      { c with fflags := (csrWritten (op f) (c.fflags.setWidth 32) (brought f is c)).setWidth 5 } (onward is) nothing) ∧
  (∀ (f : F64) s is c, Ready (.csrw f) s is c → is.lanes ≠ 0#32 → number f = 0x002 →
    Gives (.csrw f) s is c s
      { c with stallchk := (csrWritten (op f) (bit c.stallchk) (brought f is c)).getLsbD 0 } (onward is) nothing) ∧
  (∀ (f : F64) s is c, Ready (.csrw f) s is c → is.lanes ≠ 0#32 → number f = 0x110 →
    let k := s.core (coreOf is.crew)
    let v := csrWritten (op f) k.poolMin (brought f is c)
    poolOk v k.poolCap = true →
    Gives (.csrw f) s is c (s.setCore (coreOf is.crew) { k with poolMin := v }) c (onward is) nothing) ∧
  (∀ (f : F64) s is c, Ready (.csrw f) s is c → is.lanes ≠ 0#32 → number f = 0x111 →
    let k := s.core (coreOf is.crew)
    let v := csrWritten (op f) k.poolCap (brought f is c)
    poolOk k.poolMin v = true →
    Gives (.csrw f) s is c (s.setCore (coreOf is.crew) { k with poolCap := v }) c (onward is) nothing)

/-- CSRR and CSRW read and write the register they name. -/
def Obligations.CsrAccessesReachTheNamedRegister : Prop :=
  Claim.CsrrReadsTheNamedRegister ∧ Claim.CsrwWritesTheNamedRegister

namespace Sys2Proof.Claim

open Sys2Proof.Machine

/-- Where HRET takes a thread (27 R313), from its recorded PC p and index i: n is the count of the REP unit at p, 0 where
p holds a plain instruction, and len the bytes of the unit or instruction. -/
def resumesAt (skip : Bool) (n len : Nat) (p : Addr) (i : Nat) : Addr × Nat :=
  let i := if i < n then i else 0
  if skip = false then (p, i) else if i + 1 < n then (p, i + 1) else (p + BitVec.ofNat 57 len, 0)

/-- The recorded PC and repeat index of a handler thread (27 R311). -/
def recorded (t : Thread) : Addr × Nat :=
  ((t.h.getD 2 0#32 ++ t.h.getD 1 0#32).setWidth 57, ((t.h.getD 0 0#32).extractLsb' 16 6).toNat)

end Sys2Proof.Claim

/-- 19 R236 with 27 R313 and R315: HRET with no cause held takes each thread out of handler mode to its resume point; with
causes held the threads enter again with the lowest, chained, and it is held no more. Nothing stands arrived at a
convergence register of the crew, and its state is not lost. -/
def Sys2Proof.Claim.HretReturnsToTheResumePoint : Prop :=
  ∀ (f : F64) s is c n len, Ready (.hret f) s is c → c.lost = false → (∀ e ∈ c.conv, e.2.arrived = 0#32) →
    is.lanes ≠ 0#32 → (∀ l ∈ lanesOf is.lanes, (c.thread l).wait = .awake) →
    let skip := f.mod.getLsbD 0
    let goal (t : Thread) : Addr × Nat := resumesAt skip n len (recorded t).1 (recorded t).2
    (∀ l ∈ lanesOf is.lanes,
      unitAt s (coreOf is.crew) (ctxOf s c) (recorded (c.thread l)).1 = .ok (n, len) ∧
        (goal (c.thread l)).1.getLsbD 0 = false) →
    (c.held = [] →
      Gives (.hret f) s is c s c (fun _ t => { t with pc := (goal t).1, rep := (goal t).2, handler := false }) nothing) ∧
    (∀ code at' rest, c.held = (code, at') :: rest →
      Gives (.hret f) s is c s { c with held := rest } (fun _ t =>
        { t with
          pc := (s.context (ctxOf s c)).hbase, rep := 0
          h := [BitVec.ofNat 32 (code + (goal t).2 * 2 ^ 16 + 2 ^ 24), BitVec.ofNat 32 (goal t).1.toNat,
                BitVec.ofNat 32 ((goal t).1.toNat / 2 ^ 32), 0#32, 0#32, 0#32, 0#32, is.lanes,
                BitVec.ofNat 32 rest.length, BitVec.ofNat 32 at'.toNat, BitVec.ofNat 32 (at'.toNat / 2 ^ 32),
                0#32, 0#32, 0#32, 0#32, 0#32] }) nothing)

/-- 19 R236 with 27 R317 and R318: HESC writes an escalation entry of four dwords at the ring's head and moves the head,
and its threads sleep at their PC until a resume names the entry; with a full ring it does not issue. -/
def Sys2Proof.Claim.HescWritesAnEntryAndParks : Prop :=
  (∀ (f : F64) s is c l rest, Ready (.hesc f) s is c → lanesOf is.lanes = l :: rest → MemGood s.mem →
    let ctx := ctxOf s c
    let cx := s.context ctx
    evFull cx = false →
    let pa := cx.evbase.toNat / 4096 * 4096 + 32 * (cx.evhead.toNat % 2 ^ ringLog cx.evlog.toNat)
    let p := partAt (Instr.form (.hesc f)) (Instr.fields (.hesc f)) c l
    ∃ t d sl, exec (.hesc f) s = .next t ∧ t.crews.get is.crew = some d ∧
      (∀ k, k < 32 → d.thread k = if inMask is.lanes k then { c.thread k with wait := .op s.serial } else c.thread k) ∧
      t.sleepers.get s.serial = some sl ∧ sl.crew = is.crew ∧ sl.lanes = is.lanes ∧ sl.next = is.next ∧
      sl.what = .escalated cx.evhead.toNat false ∧
      (t.context ctx).evhead = cx.evhead + 1 ∧ OthersKept is.crew s t ∧
      (∀ j, j < 32 → t.mem.home (pa + j) =
        ([((c.thread l).h.getD 0 0#32).toNat % 1024 + 4096 + teamIndex s c * 2 ^ 32,
          c.index + is.crew / 192 * 2 ^ 16 + is.lanes.toNat * 2 ^ 32, is.pc.toNat, (w p.a 0).toNat].flatMap
            fun v => (List.range 8).map fun k => BitVec.ofNat 8 (v / 2 ^ (8 * k))).getD j 0)) ∧
  (∀ (f : F64) s is c, Ready (.hesc f) s is c → is.lanes ≠ 0#32 → evFull (s.context (ctxOf s c)) = true →
    ∃ t d, exec (.hesc f) s = .next t ∧ t.crews.get is.crew = some d ∧ d.threads = c.threads ∧ d.regs = c.regs ∧
      d.pend = c.pend ∧ d.issues = c.issues ∧ t.mem = s.mem ∧ t.disp = s.disp)

/-- HRET returns to the resume point or takes a held cause; HESC writes an entry and parks its threads. -/
def Obligations.HandlersReturnAndEscalate : Prop :=
  Claim.HretReturnsToTheResumePoint ∧ Claim.HescWritesAnEntryAndParks

/-! ## Registers, results and exceptions (05; 27 R308 to R317) -/

namespace Sys2Proof.Claim

open Sys2Proof.Machine

/-- A result written to its crew (05 R67, R70, R71): a word reaches its register unless a later instruction's result is
there, and makes it live and clean; the group register, the flags and the list of results follow. -/
def Written (p : Pending) (c d : Crew) : Prop :=
  (∀ k, d.regs.get k =
    match p.writes.get k with
    | some v =>
      if (match c.regs.get k with | some old => decide (p.seq < old.seq) | none => false) then c.regs.get k
      else some { val := v, live := true, poison := false, seq := p.seq }
    | none => c.regs.get k) ∧
  (∀ n, d.gregs.get n = match p.greg with
    | some (k, v) => if n = k then some { val := v, poison := false } else c.gregs.get n
    | none => c.gregs.get n) ∧
  d.fflags = c.fflags ||| p.flags ∧ d.pend = c.pend.filter (fun q => q ≠ p) ∧ d.threads = c.threads ∧
  d.conv = c.conv ∧ d.held = c.held ∧ d.tokens = c.tokens

/-- The event ring of a context has taken an entry of four dwords, at its place in memory, and its head has advanced (27 R318). -/
structure EventAt (s t : State) (ctx : Nat) (dwords : List Nat) : Prop where
  head : (t.context ctx).evhead = (s.context ctx).evhead + 1
  entry : let cx := s.context ctx
    let log := if 4 ≤ cx.evlog.toNat ∧ cx.evlog.toNat ≤ 12 then cx.evlog.toNat else 4
    ∀ k, k < 32 → t.mem.home (cx.evbase.toNat / 4096 * 4096 + 32 * (cx.evhead.toNat % 2 ^ log) + k) =
      (BitVec.ofNat 64 (dwords.getD (k / 8) 0)).extractLsb' (8 * (k % 8)) 8

/-- Only a crew changes. -/
def OnlyCrew (key : Nat) (s t : State) : Prop :=
  OthersKept key s t ∧ t.mem = s.mem ∧ t.cores = s.cores ∧ t.disp = s.disp ∧ t.sys = s.sys ∧ t.near = s.near ∧
  t.teams = s.teams ∧ t.tctxs = s.tctxs ∧ t.launches = s.launches ∧ t.sleepers = s.sleepers ∧ t.clock = s.clock

end Sys2Proof.Claim

/-- 05 R67 to R71 with 13 R163 and 19 R219: a result whose write clock has come, a scoreboarded result and a memory reply
that has left Sluice are written to their registers. -/
def Sys2Proof.Claim.ResultsReachTheirRegisters : Prop :=
  (∀ s key seq c p, s.crews.get key = some c →
    c.pend.find? (fun p => p.seq = seq && !p.memory && (match p.due with | some d => decide (d ≤ s.clock) | none => true)) =
      some p → Map.sorted p.writes = true →
    ∃ t d, exec (.resultWrite key seq) s = .next t ∧ t.crews.get key = some d ∧ Written p c d ∧ OnlyCrew key s t) ∧
  (∀ s key seq c p, s.crews.get key = some c →
    c.pend.find? (fun p => p.seq = seq && p.memory && p.lines.isEmpty) = some p → Map.sorted p.writes = true →
    ∃ t d, exec (.memoryReply key seq) s = .next t ∧ t.crews.get key = some d ∧ Written p c d ∧ OnlyCrew key s t)

/-- 05 R69, R71, R74 and R75: what a thread's read of a v register raises, the lowest cause first, and what it reads. -/
def Sys2Proof.Claim.ReadsRaiseWhatTheRegisterSays : Prop :=
  ∀ (c : Crew) r l,
    (c.stallchk = false → c.isPoison r l = false → c.readCause r l = none) ∧
    (c.stallchk = false → c.isPoison r l = true → c.readCause r l = some 0x100) ∧
    (c.stallchk = true → (∃ p ∈ c.pend, p.due.isSome = true ∧ (p.writes.get (32 * r + l)).isSome = true) →
      c.readCause r l = some 0x010) ∧
    (c.stallchk = true → (∀ p ∈ c.pend, p.due.isSome = true → p.writes.get (32 * r + l) = none) →
      c.isLive r l = false → c.readCause r l = some 0x011) ∧
    (c.stallchk = true → (∀ p ∈ c.pend, p.due.isSome = true → p.writes.get (32 * r + l) = none) →
      c.isLive r l = true → c.isPoison r l = false → c.readCause r l = none) ∧
    (c.isLive r l = false → c.word r l = 0#32) ∧
    (∀ x, c.regs.get (32 * r + l) = some x → x.live = true → c.word r l = x.val)

/-- Results reach their registers, and reads raise what a register says. -/
def Obligations.RegistersAreReadAndWrittenAsStated : Prop :=
  Claim.ResultsReachTheirRegisters ∧ Claim.ReadsRaiseWhatTheRegisterSays

/-- 27 R308 to R311 with 15 R185: of the threads of an ADD, those whose reads raise a cause enter the handler with the
registers of a first entry, each mask holding the threads that enter with the same cause; the others complete. -/
def Sys2Proof.Claim.OnlyTheRaisingThreadsEnter : Prop :=
  ∀ (f : V3) s is c, s.cur = some is → s.crews.get is.crew = some c → is.handler = false → OneGroup is c →
    (s.context (ctxOf s c)).hen = true →
    let i : Instr := .add f
    groupBar i i.form is c = none →
    let cause (l : Nat) := laneCause (Form.lift i.form is.seedUp) i.fields c l
    let together (k : Nat) : Lanes :=
      maskOf ((lanesOf is.lanes).filter fun l => match cause l with | some (j, _) => decide (j = k) | none => false)
    ∃ t d, exec i s = .next t ∧ t.crews.get is.crew = some d ∧ CrewKept c d ∧ MachineKept is s t ∧
      (∀ l, l < 32 → d.thread l =
        if inMask is.lanes l = false then c.thread l
        else
          match cause l with
          | none => is.after (c.thread l)
          | some (k, v) =>
            { c.thread l with
              h := entryWords (c.thread l) is (together k) k v c.held.length, handler := true, wait := .awake
              pc := (s.context (ctxOf s c)).hbase, rep := 0 }) ∧
      (∀ l, l < 32 → (inMask is.lanes l = false ∨ (cause l).isSome = true) → ∀ r, d.isLive r l = c.isLive r l) ∧
      (∀ l, l < 32 → inMask is.lanes l = true → cause l = none → ∃ p ∈ d.pend, p.seq = c.issues + 1 ∧
        p.writes.get (32 * f.vd.toNat + l) =
          some (w (partAt i.form i.fields c l).a 0 + w (partAt i.form i.fields c l).b 0))

/-- 05 R73, 07 R94 and 19 R236: an ADD whose destination lies beyond the allocation raises 0x004, and an HKILL outside handler
mode, which is privileged, 0x003, in every thread of the group, before any register is read. -/
def Sys2Proof.Claim.BarredInstructionsRaiseInEveryThread : Prop :=
  (∀ (f : V3) s is c, s.cur = some is → s.crews.get is.crew = some c → OneGroup is c → CanEnter s is c →
    (Instr.add f).bitsOk = true → c.nregs ≤ f.vd.toNat → AllRaise (.add f) s is c 0x004 0) ∧
  (∀ (f : F64) s is c, s.cur = some is → s.crews.get is.crew = some c → OneGroup is c → CanEnter s is c →
    is.handler = false → groupBar (.hkill f) (Instr.form (.hkill f)) is c = some 0x003 →
    AllRaise (.hkill f) s is c 0x003 0)

/-- Of the threads of an ADD only those that raise enter the handler, and a barred ADD or HKILL raises in every thread. -/
def Obligations.TrapsEnterOnlyTheirThreads : Prop :=
  Claim.OnlyTheRaisingThreadsEnter ∧ Claim.BarredInstructionsRaiseInEveryThread

/-- 27 R310, R317 and R318: where HEN is 0 the trap of a BRK escalates at once: the handler registers are written, the PC stays,
an entry goes to the event ring with the cause, the team and crew, the core, the lanes and the PC, and the threads sleep until
the resume that names it. The context has no escalation waiting. -/
def Obligations.WithoutAHandlerTrapsEscalate : Prop :=
  ∀ (f : I8) s is c, Ready (.brk f) s is c → is.handler = false → is.lanes ≠ 0#32 → OneGroup is c →
    let ctx := ctxOf s c
    let cx := s.context ctx
    MemGood s.mem → cx.hen = false → cx.waiting = [] → evFull cx = false →
    ∃ t d sl, exec (.brk f) s = .next t ∧ t.crews.get is.crew = some d ∧ CrewKept c d ∧
      (∀ l, l < 32 → d.thread l = if inMask is.lanes l then
          { c.thread l with
            h := entryWords (c.thread l) is is.lanes 0x180 0 c.held.length, handler := true, wait := .op s.serial }
        else c.thread l) ∧
      t.sleepers.get s.serial = some sl ∧ sl.what = .escalated cx.evhead.toNat true ∧ sl.lanes = is.lanes ∧
      (t.context ctx).waiting = [] ∧
      EventAt s t ctx [0x180 + 4096 + 2 ^ 32 * ((s.teams.get c.team).map Team.index).getD 0,
        c.index + 2 ^ 16 * coreOf is.crew + 2 ^ 32 * is.lanes.toNat, is.pc.toNat, 0]

/-! ## Engine commands, tokens and rings (chapter 21) -/

namespace Sys2Proof.Claim

open Sys2Proof.Machine

/-- The token an engine command names, and the completion word it will write (21 R238). -/
def namedToken (f : F64) : Option Nat := if f.mod.getLsbD 4 then some (f.mod.toNat % 16) else none
def namedWord (f : F64) (p : Part1) : Option WordAt :=
  if f.mod.getLsbD 5 then some { addr := pairOf p.d, seq := (w p.d 3 ++ w p.d 2).setWidth 48 } else none
def namedScope (f : F64) : Nat := f.mod.toNat / 64 % 8

/-- The scope of a command's implicit release: of an SJOB's that of the system (11 R154). -/
def releaseScope (f : F64) (queue : Nat) : Nat := if queue = 2 then 6 else namedScope f

/-- The lowest participant's command may enter its queue: its word is aligned, and the queue, the pool and the token allow
it (21 R239). -/
structure MayEnter (i : Instr) (f : F64) (s : State) (is : Issue) (c : Crew) (p : Part1) (queue entries : Nat) : Prop where
  ready : Ready i s is c
  first : (parts i is c).head? = some p
  word : ∀ x, namedWord f p = some x → x.addr.toNat % 8 = 0
  room : mayAccept s is.crew is.pc queue entries (namedToken f) = true

/-- The number of the acceptance of the group's command, where it has been accepted before this issue (21 R239). -/
def acceptedBefore (s : State) (is : Issue) : Option Nat := (waiterAt s is.crew is.pc).bind Waiter.accepted

/-- The token n of a crew. -/
def tokenIn (c : Crew) (n : Nat) : Token := (c.tokens.get n).getD .idle

/-- A state in which an engine command has been posted (21 R237 to R239, R241, R243): the release at its scope has been
performed, the threads move on, and the command with this work stands among its core's commands by the order of acceptance.
Its token is pending since its acceptance, which is this issue unless it came before. It knows the scratchpad writes that its
crew knows, and those of the thread that posts it (11 R149, R154). -/
structure PostedIn (f : F64) (s : State) (is : Issue) (c : Crew) (p : Part1) (queue entries : Nat) (work : Work)
    (t : State) : Prop where
  crew : ∃ c2 d, (releaseAt s is.crew (releaseScope f queue)).crews.get is.crew = some c2 ∧ t.crews.get is.crew = some d ∧
    (∀ l, l < 32 → d.thread l = if inMask is.lanes l then is.after (c.thread l) else c.thread l) ∧
    CrewKept { c2 with tokens := d.tokens } d ∧
    d.tokens = (match namedToken f, acceptedBefore s is with
      | some k, none => c.tokens.set k { tokenIn c k with state := .pending }
      | _, _ => c.tokens)
  command : ∃ x before behind, (s.core (coreOf is.crew)).commands = before ++ behind ∧
    (t.core (coreOf is.crew)).commands = before ++ x :: behind ∧ (∀ y ∈ before, y.serial ≤ x.serial) ∧
    (∀ y ∈ behind.head?, x.serial < y.serial) ∧ x.serial = (acceptedBefore s is).getD s.serial ∧
    x.queue = queue ∧ x.entries = entries ∧ x.ctx = ctxOf s c ∧ x.team = c.team ∧ x.crew = is.crew ∧ x.lane = p.l ∧
    x.token = namedToken f ∧ x.word = namedWord f p ∧ x.scope = releaseScope f queue ∧ x.after = f.mod.getLsbD 12 ∧
    x.know = c.know.set (32 * is.crew + p.l) s.free ∧ x.claimed = none ∧ x.started = false ∧ x.result = none ∧ x.work = work
  waiters : ∀ y, y ∈ (t.core (coreOf is.crew)).waiters ↔
    y ∈ (s.core (coreOf is.crew)).waiters ∧ ¬ (y.crew = is.crew ∧ y.pc = is.pc)
  rings : (t.core (coreOf is.crew)).rings = (s.core (coreOf is.crew)).rings
  mem : t.mem = (releaseAt s is.crew (releaseScope f queue)).mem
  others : OthersKept is.crew (releaseAt s is.crew (releaseScope f queue)) t
  near : t.near = s.near
  teams : TeamsKept s t

/-- The issue of an engine command posts it with this work. -/
def PostsWork (i : Instr) (f : F64) (s : State) (is : Issue) (c : Crew) (p : Part1) (queue entries : Nat) (work : Work) : Prop :=
  ∃ t, exec i s = .next t ∧ PostedIn f s is c p queue entries work t

end Sys2Proof.Claim

/-- 21 R249 to R252: TCOPY of a sound layout record posts the copy to queue COPY with the fields of its record, origin and
destination; a misaligned record address raises 0x040. -/
def Sys2Proof.Claim.TcopyPostsItsCopy : Prop :=
  (∀ (f : F64) s is c p bs, MayEnter (.tcopy f) f s is c p 0 2 → (pairOf p.a).toNat % 64 = 0 →
    let core := coreOf is.crew
    let ctx := ctxOf s c
    let s1 := releaseAt s is.crew (namedScope f)
    let l := Layout.parse bs
    let ring := if f.mod.getLsbD 14 then some f.vb.toNat else none
    let addr := if f.mod.getLsbD 14 then 0#32 else w p.b 0
    let origin := p.c.map BitVec.toNat
    engineRead s1 core ctx (pairOf p.a).toNat 64 = .ok bs false → layoutBad bs = false →
    tcopyCause s1 core c.team l origin (f.mod.getLsbD 9) (f.mod.getLsbD 10) (f.mod.getLsbD 13) ring addr = none →
    (l.pair = true → ∃ g, engineRead s1 core ctx (canonical (l.sbase.setWidth 57)) 8 = .ok g false ∧
      (wordOfBytes 8 g).extractLsb' 62 2 = 0#2) →
    PostsWork (.tcopy f) f s is c p 0 2
      (.tcopy l (f.mod.getLsbD 9) (f.mod.getLsbD 10) (f.mod.getLsbD 11) (f.mod.getLsbD 13) origin
        (match ring with | some n => .ring n | none => .scratch addr))) ∧
  (∀ (f : F64) s is c p, Ready (.tcopy f) s is c → (parts (.tcopy f) is c).head? = some p → namedWord f p = none →
    (pairOf p.a).toNat % 64 ≠ 0 → OneGroup is c → CanEnter s is c → waiterAt s is.crew is.pc = none →
    (∀ e ∈ s.sys.faults, ∀ x ∈ e.2.unread, x.1 ≠ .check is.crew is.pc.toNat) →
    AllRaise (.tcopy f) s is c 0x040 (pairOf p.a).toNat)

/-- 21 R254 and R260: BCOPY and COMBINE post their work; the operands of BCOPY are aligned to 16 bytes and inside the
team's scratchpad or its ring, the window of COMBINE is enabled. -/
def Sys2Proof.Claim.BcopyAndCombinePostTheirWork : Prop :=
  (∀ (f : F64) s is c p, MayEnter (.bcopy f) f s is c p 0 1 →
    let ss := f.mod.getLsbD 9
    let sd := f.mod.getLsbD 10
    let rng := f.mod.getLsbD 11
    let len := (w p.c 0).toNat
    let src := if ss then (w p.a 0).toNat else (pairOf p.a).toNat
    let dst := if sd then (w p.b 0).toNat else (pairOf p.b).toNat
    src % 16 = 0 → (rng = false → dst % 16 = 0) →
    (ss = true → len ≠ 0 → scratchAt s c.team src len ≠ none) →
    (sd = true → rng = false → len ≠ 0 → scratchAt s c.team dst len ≠ none) →
    (rng = true → sd = false ∧ ∃ r, ringOf s (coreOf is.crew) c.team f.vb.toNat = some r ∧ len ≤ r.size) →
    PostsWork (.bcopy f) f s is c p 0 1
      (.bcopy (if ss then .scratch (w p.a 0) else .virt (pairOf p.a))
        (if rng then .ring f.vb.toNat else if sd then .scratch (w p.b 0) else .virt (pairOf p.b)) len)) ∧
  (∀ (f : F64) s is c p, MayEnter (.combine f) f s is c p 1 1 →
    let n := f.mod.toNat / 512 % 4
    ((s.context (ctxOf s c)).window n).en = true → ((s.context (ctxOf s c)).window n).op ≠ 3 →
    PostsWork (.combine f) f s is c p 1 1 (.combine n))

/-- 21 R261 to R265: EMBG, EMBW and SJOB post their descriptor or card; SJOB's goes on to an engine of its stack at once
when one has room and the card can be read. -/
def Sys2Proof.Claim.PoolingAndJobCommandsPostTheirWork : Prop :=
  (∀ (f : F64) s is c p bs, MayEnter (.embg f) f s is c p 1 4 → (pairOf p.a).toNat % 64 = 0 →
    engineRead (releaseAt s is.crew (namedScope f)) (coreOf is.crew) (ctxOf s c) (pairOf p.a).toNat 64 = .ok bs false →
    poolBad bs = false → PostsWork (.embg f) f s is c p 1 4 (.embg (PoolDesc.parse (pairOf p.a) bs))) ∧
  (∀ (f : F64) s is c p bs, MayEnter (.embw f) f s is c p 1 2 → (pairOf p.a).toNat % 64 = 0 → (w p.c 0).toNat % 16 = 0 →
    engineRead (releaseAt s is.crew (namedScope f)) (coreOf is.crew) (ctxOf s c) (pairOf p.a).toNat 64 = .ok bs false →
    poolBad bs = false →
    scratchAt s c.team (w p.c 0).toNat (poolRowBytes (PoolDesc.parse (pairOf p.a) bs)) ≠ none →
    PostsWork (.embw f) f s is c p 1 2 (.embw (PoolDesc.parse (pairOf p.a) bs) (w p.b 0).toNat (w p.c 0))) ∧
  (∀ (f : F64) s is c p, MayEnter (.sjob f) f s is c p 2 2 → (pairOf p.a).toNat % 64 = 0 →
    let v := (w p.b 0).toNat
    v < 128 → v % 16 < s.sys.stacks →
    ∃ t, exec (.sjob f) s = .next (handJobs t (coreOf is.crew) 1024) ∧
      PostedIn f s is c p 2 2
        (.sjob (v % 16) (if v / 64 % 2 = 1 then none else some (v / 16 % 4)) [pairOf p.a]) t) ∧
  (∀ s core c stack engine card e bs fuel,
    (s.core core).commands.find? (fun c => c.queue = 2 && !c.started && c.result.isNone) = some c →
    (∀ x ∈ (s.core core).waiters, x.queue = 2 → ∀ n, x.accepted = some n → c.serial ≤ n) →
    c.work = .sjob stack engine card → chooseEngine s stack engine = some e →
    engineRead s core c.ctx (card.headD 0).toNat 64 = .ok bs false →
    (∀ x ∈ (s.core core).commands, x.queue = 2 → x.started = false → x.result = none → x = c) →
    ∃ j, ((handJobs s core (fuel + 2)).engine e).queue = (s.engine e).queue ++ [j] ∧ j.serial = c.serial ∧
      j.core = core ∧ j.ctx = c.ctx ∧ j.ended = none ∧
      j.card = (List.range 8).map fun k => BitVec.ofNat 64 (recAt bs (8 * k) 8))

/-- TCOPY, BCOPY, COMBINE, EMBG, EMBW and SJOB post their work. -/
def Obligations.MillraceCommandsPostTheirWork : Prop :=
  Claim.TcopyPostsItsCopy ∧ Claim.BcopyAndCombinePostTheirWork ∧ Claim.PoolingAndJobCommandsPostTheirWork

/-- 21 R244 with 11 R154 and 27 R311: TOKWAIT moves on past an idle or complete token and acquires what its completion
carries, sleeps on a pending one, and raises the cause of a failed one with the address of the failed access; TOKTEST gives
the state's code with the status above it, and acquires from a token that has completed or failed. -/
def Sys2Proof.Claim.TokenInstructionsFollowTheToken : Prop :=
  let tok (f : F64) (c : Crew) : Token := tokenIn c (f.mod.toNat % 16)
  (∀ (f : F64) s is c, Ready (.tokwait f) s is c → is.lanes ≠ 0#32 →
    ((tok f c).state = .idle ∨ (tok f c).state = .complete) →
    Gives (.tokwait f) s is c s (c.acquire (tok f c).carried) (onward is) nothing) ∧
  (∀ (f : F64) s is c, Ready (.tokwait f) s is c → is.lanes ≠ 0#32 → (tok f c).state = .pending →
    ∃ sl, sl.crew = is.crew ∧ sl.lanes = is.lanes ∧ sl.next = is.next ∧ sl.what = .token (f.mod.toNat % 16) ∧
      Gives (.tokwait f) s is c (s.setSleepers (s.sleepers.set s.serial sl)) c
        (fun _ t => { t with wait := .op s.serial }) nothing) ∧
  (∀ (f : F64) s is c, Ready (.tokwait f) s is c → is.lanes ≠ 0#32 → OneGroup is c → CanEnter s is c →
    (tok f c).state = .failed → AllRaise (.tokwait f) s is c (tok f c).cause (tok f c).ea) ∧
  (∀ (f : F64) s is c, Ready (.toktest f) s is c →
    let overs : Bool := (tok f c).state = .complete || (tok f c).state = .failed
    Gives (.toktest f) s is c s (if overs then c.acquire (tok f c).carried else c) (onward is) fun _ =>
    ([BitVec.ofNat 32 ((match (tok f c).state with
      | .idle => 0 | .pending => 1 | .complete => 2 | .failed => 3) + 256 * (tok f c).status)], 0))

/-- 21 R257 and R259 with 11 R154: RINGSET lays out a ring in the team's scratchpad reservation on its own core; RINGACQ takes
the next filled slot's address and acquires what the ring's fills and releases carry, answers 0xFFFFFFFF with TRY or sleeps;
RINGREL releases at core scope and frees a slot taken, and raises 0x0C7 when none is. RINGSET's operands are those of the lowest
participant (the model's reading, log 33). -/
def Sys2Proof.Claim.RingInstructionsMoveTheRingsCounters : Prop :=
  let n (f : F64) : Nat := f.mod.toNat % 16
  let address (r : Ring) : Word := r.base + BitVec.ofNat 32 (r.size * (r.acq.toNat % 2 ^ r.log))
  (∀ (f : F64) s is c p k, Ready (.ringset f) s is c → (parts (.ringset f) is c).head? = some p →
    let log := f.mod.toNat / 16 % 16
    let size := (w p.b 0).toNat
    size % 16 = 0 → 16 ≤ size → size ≤ 2 ^ 19 → (w p.a 0).toNat % 16 = 0 →
    ownPad s c.team (coreOf is.crew) (w p.a 0).toNat (size * 2 ^ log) = some k →
    ((s.core (coreOf is.crew)).rings.get (n f) = none ∨
      ∃ r, (s.core (coreOf is.crew)).rings.get (n f) = some r ∧
        if r.team = c.team then r.claim = r.rel ∧ ringNamed s (coreOf is.crew) (n f) = false
        else s.teams.get r.team = none) →
    Gives (.ringset f) s is c
      (setRing s (coreOf is.crew) (n f)
        { team := c.team, base := w p.a 0, size := size, log := log, claim := 0, fill := 0, acq := 0, rel := 0
          carried := { sig := 0#512, know := [] } })
      c (onward is) nothing) ∧
  (∀ (f : F64) s is c r, Ready (.ringacq f) s is c → is.lanes ≠ 0#32 →
    ringOf s (coreOf is.crew) c.team (n f) = some r →
    (r.fill ≠ r.acq →
      Gives (.ringacq f) s is c (setRing s (coreOf is.crew) (n f) { r with acq := r.acq + 1 }) (c.acquire r.carried) (onward is)
        fun _ => ([address r], 0)) ∧
    (r.fill = r.acq → f.mod.getLsbD 4 = true →
      Gives (.ringacq f) s is c s c (onward is) fun _ => ([0xFFFFFFFF#32], 0)) ∧
    (r.fill = r.acq → f.mod.getLsbD 4 = false →
      ∃ sl, sl.crew = is.crew ∧ sl.lanes = is.lanes ∧ sl.next = is.next ∧ sl.what = .ringAcq (n f) f.vd.toNat ∧
        Gives (.ringacq f) s is c (s.setSleepers (s.sleepers.set s.serial sl)) c
          (fun _ t => { t with wait := .op s.serial }) nothing)) ∧
  (∀ (f : F64) s is c r, Ready (.ringrel f) s is c → is.lanes ≠ 0#32 →
    ringOf s (coreOf is.crew) c.team (n f) = some r →
    (r.acq ≠ r.rel →
      Leaves (.ringrel f) s is c (setRing (releaseAt s is.crew 2) (coreOf is.crew) (n f)
        { r with rel := r.rel + 1, carried := r.carried.join (releaseSig s is.crew 2 (lanesOf is.lanes)) })) ∧
    (r.acq = r.rel → OneGroup is c → CanEnter s is c → AllRaise (.ringrel f) s is c 0x0C7 0))

/-- TOKWAIT and TOKTEST follow the token; RINGSET, RINGACQ and RINGREL move a ring's counters. -/
def Obligations.TokensAndRingsFollowTheirCounters : Prop :=
  Claim.TokenInstructionsFollowTheToken ∧ Claim.RingInstructionsMoveTheRingsCounters

/-- 21 R239, R241 to R243 and R258: the oldest waiting command is accepted once the pool and its token allow, and its token is
pending from then on; a ring copy claims its slot; a finished command at the head of its queue, behind no accepted one that
has not been posted, publishes: it leaves its queue and its token completes, or fails for the statuses 1, 5 and 6, with the
cause and address of the failed access, and carries what the command knows with its own scratchpad writes (11 R154). -/
def Sys2Proof.Claim.CommandsEnterAndLeaveTheirQueues : Prop :=
  (∀ s core queue x d, (s.core core).waiters.find? (fun x => x.queue = queue && x.accepted.isNone) = some x →
    coreOf x.crew = core → s.crews.get x.crew = some d →
    (∀ y ∈ (s.core core).waiters, y.crew = x.crew → y.pc = x.pc → y = x) →
    poolFits (s.core core) queue x.entries = true → (∀ k, x.token = some k → (tokenIn d k).state ≠ .pending) →
    ∃ t, exec (.commandAccept core queue) s = .next t ∧
      (t.core core).waiters = (s.core core).waiters.map (fun y =>
        if y = x then
          { x with accepted := some s.serial, was := ((x.token.map fun k => (tokenIn d k).state)).getD .idle }
        else y) ∧
      t.crews = (match x.token with
        | some k => s.crews.modify x.crew fun d => { d with tokens := d.tokens.set k { tokenIn d k with state := .pending } }
        | none => s.crews) ∧
      t.mem = s.mem ∧ (t.core core).commands = (s.core core).commands) ∧
  (∀ s core k c n r, s.cores.findSome? (fun e => (claimable s e.1).map fun x => (e.1, x)) = some (core, c, n, r) →
    (s.core core).rings.get n = some k →
    ∃ t, exec .ringSlotClaim s = .next t ∧ t.crews = s.crews ∧ t.mem = s.mem ∧
      (t.core core).rings.get n = some { r with claim := r.claim + 1 } ∧
      ∀ x ∈ (t.core core).commands, x.serial = c.serial → x.claimed = some r.claim) ∧
  (∀ s core queue c s1 st cause ea, queue < 2 → headCommand s core queue = some c →
    ((ringOfWork c.work).isSome = true → c.claimed.isSome = true) → wordPage s core c = none →
    workDone s core c = some (.ended s1 st cause ea) →
    exec (.millracePublish core queue) s = .next (publish s1 core c 0x10 st cause ea (decide (st = 1 ∨ st = 5 ∨ st = 6)))) ∧
  (∀ s core c st cause ea k d, c.word = none → c.token = some k → s.crews.get c.crew = some d →
    let failed := decide (st = 1 ∨ st = 5 ∨ st = 6)
    let t := publish s core c 0x10 st cause ea failed
    ∃ d', t.crews.get c.crew = some d' ∧
      d'.tokens.get k = some
        { state := if failed then .failed else .complete, status := st, cause := if failed then cause else 0x0C9
          ea := if failed then ea else 0
          carried := { sig := BitVec.allOnes 512, know := c.know.set (2 ^ 22 + 4 * core + c.queue) s.free } } ∧
      ∀ x ∈ (t.core core).commands, x.serial ≠ c.serial)

/-- 03 R45 and R46 with 21 R242 and 11 R154: publication writes the command's completion word, 0x10 in its top byte, then the status
and the 48 bits of the command's sequence, as a release that carries what the command knows, and no other byte but those of its
page table entry; a word that cannot be written is dropped with the event 0x141, and its token fails with 0x0C9. -/
def Sys2Proof.Claim.CompletionWordsAreWritten : Prop :=
  (∀ s core key c x st cause ea m, MemGood s.mem → coreOf key = core → c.word = some x →
    LiesAt s key c.ctx x.addr.toNat 8 .store m → windowAt s c.ctx (x.addr.toNat % 2 ^ 57) = none →
    let t := publish s core c 0x10 st cause ea false
    let word : BitVec 64 := BitVec.ofNat 64 (0x10 * 2 ^ 56 + st * 2 ^ 48 + x.seq.toNat)
    (∀ a, a < 2 ^ 52 → NotTheEntry s core c.ctx x.addr.toNat true a →
      t.mem.seen core a = if m.pa ≤ a ∧ a < m.pa + 8 then word.extractLsb' (8 * (a - m.pa)) 8 else s.mem.seen core a) ∧
    t.mem.carried.get (m.pa / 128) = some (((s.mem.carried.get (m.pa / 128)).getD { sig := 0#512, know := [] }).join
      { sig := BitVec.allOnes 512, know := c.know.set (2 ^ 22 + 4 * core + c.queue) s.free })) ∧
  (∀ s core c x st cause ea failed k, MemGood s.mem → c.word = some x →
    meet s core c.ctx x.addr.toNat 8 .store = .bad k →
    let t := publish s core c 0x10 st cause ea failed
    let team := ((s.teams.get c.team).map Team.index).getD 0
    let queue := ((s.launchOf c.team).map fun l => l.record.jobq.toNat).getD 0
    (c.token = none → evFull (s.context c.ctx) = false → EventAt s t c.ctx [0x141 + 2 ^ 32 * team, 0, 0, queue]) ∧
    ∀ n d, c.token = some n → s.crews.get c.crew = some d →
      ∃ d' x, t.crews.get c.crew = some d' ∧ d'.tokens.get n = some x ∧ x.state = .failed ∧ x.status = st ∧
        x.cause = (if failed then cause else 0x0C9) ∧ x.ea = if failed then ea else 0)

/-! ## What the copies and folds of Millrace write (11 R157; 21 R250 to R255, R260) -/

namespace Sys2Proof.Claim

open Sys2Proof.Machine

/-- A 57-bit address as a canonical one (11 R128). -/
def canonicalOf (a : Nat) : Nat := ((BitVec.ofNat 57 a).signExtend 64).toNat

/-- An engine of a core reads the byte at an address without a cause, a migration, poison or a device. -/
def CanRead (s : State) (core ctx a : Nat) : Prop :=
  ∃ m, reach s core ctx a .load = .ok m ∧ (∀ p, s.sys.target m.pa ≠ .window p) ∧ s.mem.poisonAt m.pa = false

/-- The byte it reads: the one the core sees. -/
def byteOf (s : State) (core ctx a : Nat) : Byte :=
  match reach s core ctx a .load with
  | .ok m => s.mem.seen core m.pa
  | _ => 0

/-- An engine of a core may write the byte at an address, a plain one also into a reducing window (21 R255). -/
def CanWrite (s : State) (core ctx a : Nat) (plain : Bool) : Prop :=
  (∃ m, reach s core ctx a .store = .ok m) ∧ (plain = true ∨ windowAt s ctx (a % 2 ^ 57) = none)

/-- The state after the writes of a command, in turn, and that none of them fails. -/
def afterWrites (s : State) (who : Agent) (core ctx : Nat) (plain : Bool) (ws : List (Nat × List Byte)) : State :=
  ws.foldl (fun t e => (engineWrite t who core ctx e.1 e.2 plain).1) s
def AllWritten (s : State) (who : Agent) (core ctx : Nat) (plain : Bool) (ws : List (Nat × List Byte)) : Prop :=
  ∀ k, k < ws.length → ∀ e, ws[k]? = some e →
    ∃ bs ls pa, (engineWrite (afterWrites s who core ctx plain (ws.take k)) who core ctx e.1 e.2 plain).2 = .bytes bs ls pa

/-- Bytes at consecutive addresses of a page are written together. -/
def joined : List (Nat × Byte) → List (Nat × List Byte)
  | [] => []
  | (a, b) :: rest =>
    match joined rest with
    | (n, bs) :: more => if a + 1 = n ∧ n % 4096 ≠ 0 then (a, b :: bs) :: more else (a, [b]) :: (n, bs) :: more
    | [] => [(a, [b])]

/-- No engine command of a team owns one of n scratchpad bytes (23 R279). -/
def NotOwned (s : State) (team k n : Nat) : Prop := ∀ o, o < n → inFootprint s team ((k + o) / 16) = false

/-- The work of a command, once its reads are noted in the state u, writes scratchpad bytes, by key, and nothing else, and
ends without a failure. -/
def WritesPad (s u : State) (core : Nat) (c : Command) (byte : Nat → Option Byte) : Prop :=
  ∃ t, workDone s core c = some (.ended t 0 0 0) ∧ (∀ b, t.mem.scratchByte b = (byte b).getD (s.mem.scratchByte b)) ∧
    ∀ cr a, t.mem.seen cr a = u.mem.seen cr a

/-- The address of the row of an element (21 R247), and the extent of a dimension, 1 for one the tensor does not have (the
model's choice, log 20). -/
def rowAt (l : Layout) (ix : List Nat) : Nat :=
  l.base.toNat + 16 * (ix.getD 1 0 * l.stride.getD 1 0 + ix.getD 2 0 * l.stride.getD 2 0 + ix.getD 3 0 * l.stride.getD 3 0 +
    ix.getD 4 0 * l.stride.getD 4 0)
def extentOf (l : Layout) (d : Nat) : Nat := if d < l.ndim then l.size.getD d 0 else 1

/-- Bytes of a record of a block-scaled format (19 R222). -/
def recordLength (fmt : Nat) : Nat := if fmt = 11 then 18 else 34

/-- The addresses of the code of an element and of its block's scale (21 R247), and the code and scale there. -/
def codeAddress (l : Layout) (ix : List Nat) : Nat :=
  let i := ix.getD 0 0
  let start := if l.scl = 2 then rowAt l ix + i / 32 * recordLength l.fmt else rowAt l ix
  let j := if l.scl = 2 then i % 32 else i
  if l.fmt = 11 then start + j / 2 else if l.fmt < 10 then start + j * formatBytes l.fmt else start + j
def scaleAddress (l : Layout) (ix : List Nat) : Nat :=
  let i := ix.getD 0 0
  if l.scl = 1 then l.sbase.toNat + 16 * ix.getD 1 0 * l.sstride + i / 16
  else rowAt l ix + i / 32 * recordLength l.fmt + (if l.fmt = 11 then 16 else 32) + i % 32 / 16
def codeIn (s : State) (core ctx : Nat) (l : Layout) (ix : List Nat) : Nat :=
  let b := (byteOf s core ctx (canonicalOf (codeAddress l ix))).toNat
  if l.fmt = 11 then (if ix.getD 0 0 % 2 = 1 then b / 16 else b % 16) else b
def scaleIn (s : State) (core ctx : Nat) (l : Layout) (ix : List Nat) : Nat := (byteOf s core ctx (canonicalOf (scaleAddress l ix))).toNat

/-- The codes and the scale of a block of 16 elements of which the first n are elements of the tensor or the tile: copied, or
formed anew from their exact values (21 R250, R251). -/
def blockOf (s : State) (core ctx : Nat) (l : Layout) (ix : Nat → List Nat) (n : Nat) (copy : Bool) : (Nat → Nat) × Nat :=
  let word (k : Nat) : Word :=
    let c := codeIn s core ctx l (ix k)
    let e := scaleIn s core ctx l (ix k)
    if readsNan l.fmt c e then 0x7FC00000#32 else nearest (codeValue l.fmt c * scaleValue e)
  let e8 := blockE8 l.fmt ((List.range n).map word)
  if n = 0 then (fun _ => 0, 0)
  else if copy then (fun k => if k < n then codeIn s core ctx l (ix k) else 0, scaleIn s core ctx l (ix 0))
  else (fun k => if k < n then (blockElement l.fmt e8 (.mode .rne) (word k)).1 else 0, e8)

/-- Bytes of a row of a plain tile, the pitch of its rows, and where byte o of row r lies after the swizzle (21 R250). -/
def rowLength (l : Layout) : Nat :=
  if l.scl = 0 then l.tile0 * formatBytes l.fmt else l.tile0 / 32 * recordLength l.fmt
def rowPitch (l : Layout) : Nat := (rowLength l + 15) / 16 * 16
def tilePlace (l : Layout) (r o : Nat) : Nat :=
  r * rowPitch l + (if l.swz = 1 then (o / 16 ^^^ r % 8) * 16 + o % 16 else o)

/-- The index of the element of row r and column c of a tile, and that it lies in the tensor. -/
def tileIndex (origin : List Nat) (r c : Nat) : List Nat := (origin.getD 0 0 + c) :: (origin.getD 1 0 + r) :: origin.drop 2
def inTensor (l : Layout) (origin : List Nat) (r c : Nat) : Bool :=
  decide (origin.getD 0 0 + c < extentOf l 0) && decide (origin.getD 1 0 + r < extentOf l 1)

/-- A sound layout and origin for a plain copy (21 R248, R252). -/
structure PlainTile (l : Layout) (origin : List Nat) : Prop where
  format : if l.scl = 0 then l.fmt < 10 else l.fmt ∈ [10, 11, 12] ∧ (l.scl = 1 ∨ l.scl = 2) ∧ l.tile0 % 32 = 0
  swizzle : l.swz = 1 → rowPitch l % 128 = 0
  first : origin.getD 0 0 < extentOf l 0

end Sys2Proof.Claim

/-- 21 R242 and 11 R135: an engine reads the bytes its core sees with their poison, and a write leaves its bytes at their home and
every other byte as it was but its page table entry; a translation's cause is its failure, and so is a reducing window for a
write that is no plain one (log 17). Its reads first set A bits and change no other bit. -/
def Sys2Proof.Claim.EnginesReachTheirBytes : Prop :=
  ∀ (s : State) who key ctx ea n, MemGood s.mem →
    let core := coreOf key
    (∀ k, meet s core ctx ea n .load = .bad k → engineRead s core ctx ea n = .bad k) ∧
    (∀ m, LiesAt s key ctx ea n .load m → engineRead s core ctx ea n =
      .ok ((List.range n).map fun k => s.mem.seen core (m.pa + k)) (s.mem.poisonIn m.pa n)) ∧
    (∀ (bs : List Byte) plain, bs.length = n →
      (∀ k, plain = true → meet s core ctx ea n .store = .bad k → engineWrite s who core ctx ea bs plain = (s, .raise k)) ∧
      ∀ m, LiesAt s key ctx ea n .store m →
        if plain = false ∧ windowAt s ctx (ea % 2 ^ 57) ≠ none then engineWrite s who core ctx ea bs plain = (s, .raise 0x04B)
        else
          let r := engineWrite s who core ctx ea bs plain
          r.2 = .bytes [] [] m.pa ∧ ∀ a, a < 2 ^ 52 → NotTheEntry s core ctx ea true a →
            r.1.mem.seen core a = if m.pa ≤ a ∧ a < m.pa + n then bs.getD (a - m.pa) 0 else s.mem.seen core a) ∧
    ∀ addrs, (noteReads s core ctx addrs).mem.scratch = s.mem.scratch ∧
      ∀ cr a, a < 2 ^ 52 → (noteReads s core ctx addrs).mem.seen cr a = s.mem.seen cr a ∨
        (noteReads s core ctx addrs).mem.seen cr a = s.mem.seen cr a ||| 0x40#8

/-- 21 R254 and R255: BCOPY copies its bytes, to scratchpad or by plain writes of 16-byte granules in ascending order, where
source and destination do not overlap; a source byte that cannot be read, the first, ends it with its cause and address. -/
def Sys2Proof.Claim.BcopyCopiesItsBytes : Prop :=
  ∀ (s : State) core (c : Command) src dst len, MemGood s.mem → c.result = none → c.work = .bcopy src dst len → 0 < len →
    let at' (p : Place) : Option Nat := padOf s core c.team c.claimed p len
    let u := noteReads s core c.ctx (match src with
      | .virt a => (List.range len).map fun o => (a + BitVec.ofNat 64 o).toNat
      | _ => [])
    let from' (a : BitVec 64) (o : Nat) : Nat := (a + BitVec.ofNat 64 o).toNat
    let source (o : Nat) : Byte := match src, at' src with
      | .virt a, _ => byteOf u core c.ctx (from' a o)
      | _, some k => s.mem.scratchByte (k + o)
      | _, none => 0
    let readable : Prop := match src with
      | .virt a => ∀ o, o < len → CanRead u core c.ctx (from' a o)
      | _ => ∃ k, at' src = some k ∧ NotOwned s c.team k len ∧ ∀ o, o < len → s.mem.scratchPoisoned (k + o) 1 = false
    (readable → ∀ k, (∀ a, dst ≠ .virt a) → at' dst = some k → NotOwned s c.team k len →
      (∀ j, (∀ a, src ≠ .virt a) → at' src = some j → j + len ≤ k ∨ k + len ≤ j) →
      WritesPad s u core c fun b => if k ≤ b ∧ b < k + len then some (source (b - k)) else none) ∧
    (readable → ∀ a, dst = .virt a → a.toNat % 16 = 0 →
      (∀ o, o < len → from' a o = canonicalOf (from' a o) ∧ CanWrite u core c.ctx (from' a o) true) →
      (∀ b o1 o2 m1 m2, src = .virt b → o1 < len → o2 < len → reach u core c.ctx (from' b o1) .load = .ok m1 →
        reach u core c.ctx (from' a o2) .store = .ok m2 → m1.pa ≠ m2.pa) →
      let ws := (List.range ((len + 15) / 16)).map fun g =>
        (from' a (16 * g), (List.range (min 16 (len - 16 * g))).map fun j => source (16 * g + j))
      AllWritten u (.command c.serial) core c.ctx true ws →
      workDone s core c = some (.ended (afterWrites u (.command c.serial) core c.ctx true ws) 0 0 0)) ∧
    (∀ a k j, src = .virt a → (∀ b, dst ≠ .virt b) → at' dst = some j → reach u core c.ctx a.toNat .load = .bad k →
      workDone s core c = some (.ended u (if k = 0x048 then 5 else 1) k a.toNat))

/-- 21 R250 and R251: TCOPY IN in the plain form writes each row of the tile with its codes bit for bit, and of a block-scaled
tensor its records, blocks copied where the origin is a multiple of 16 and else formed anew; positions outside the tensor are
zero bytes, rows are swizzled, and no other byte is written. -/
def Sys2Proof.Claim.PlainTilesAreCopiedIn : Prop :=
  ∀ (s : State) core (c : Command) l role tr origin dst k, MemGood s.mem → c.result = none →
    c.work = .tcopy l false false role tr origin dst → PlainTile l origin →
    padOf s core c.team c.claimed dst (rowPitch l * l.tile1) = some k → NotOwned s c.team k (rowPitch l * l.tile1) →
    let u := noteReads s core c.ctx (tcopyReads l false false tr origin)
    (l.scl = 0 →
      let z := formatBytes l.fmt
      (∀ r o, r < l.tile1 → o < l.tile0 * z → inTensor l origin r (o / z) = true →
        CanRead u core c.ctx (canonicalOf (codeAddress l (tileIndex origin r (o / z)) + o % z))) →
      WritesPad s u core c fun b =>
        ((List.range l.tile1).flatMap fun r => (List.range (l.tile0 * z)).map fun o => (r, o)).findSome? fun e =>
          if b ≠ k + tilePlace l e.1 e.2 then none
          else if inTensor l origin e.1 (e.2 / z) then
            some (byteOf u core c.ctx
              (canonicalOf (codeAddress l (tileIndex origin e.1 (e.2 / z)) + e.2 % z)))
          else some 0) ∧
    (l.scl ≠ 0 →
      (∀ r q, r < l.tile1 → q < l.tile0 → inTensor l origin r q = true →
        CanRead u core c.ctx (canonicalOf (codeAddress l (tileIndex origin r q))) ∧
        CanRead u core c.ctx (canonicalOf (scaleAddress l (tileIndex origin r q)))) →
      ∃ t, workDone s core c = some (.ended t 0 0 0) ∧ (∀ cr a, t.mem.seen cr a = u.mem.seen cr a) ∧
        (∀ b, (∀ r o, r < l.tile1 → o < rowLength l → b ≠ k + tilePlace l r o) → t.mem.scratchByte b = s.mem.scratchByte b) ∧
        ∀ r q j, r < l.tile1 → q < l.tile0 / 32 → j < 32 →
          let record := (List.range (recordLength l.fmt)).map fun o =>
            t.mem.scratchByte (k + tilePlace l r (q * recordLength l.fmt + o))
          let m := 2 * q + j / 16
          let n := if extentOf l 1 ≤ origin.getD 1 0 + r then 0 else min 16 (extentOf l 0 - (origin.getD 0 0 + 16 * m))
          let block := blockOf u core c.ctx l (fun i => tileIndex origin r (16 * m + i)) n (origin.getD 0 0 % 16 = 0)
          recordCode l.fmt record j = block.1 (j % 16) ∧ recordScale l.fmt record j = block.2)

/-- 21 R250: TCOPY OUT writes, of each row inside the tensor, the bytes of its positions inside it: the codes, and of a
block-scaled tensor the codes and scales of its blocks; and no others. -/
def Sys2Proof.Claim.PlainTilesAreCopiedOut : Prop :=
  ∀ (s : State) core (c : Command) l can role tr origin dst k, MemGood s.mem → c.result = none →
    c.work = .tcopy l true can role tr origin dst → can = false → PlainTile l origin →
    (l.scl ≠ 0 → extentOf l 0 % 32 = 0 ∧ origin.getD 0 0 % (if l.scl = 1 then 16 else 32) = 0) →
    padOf s core c.team c.claimed dst (rowPitch l * l.tile1) = some k → NotOwned s c.team k (rowPitch l * l.tile1) →
    let n := min l.tile0 (extentOf l 0 - origin.getD 0 0)
    let z := formatBytes l.fmt
    let half := if l.fmt = 11 then 8 else 16
    let byte (r o : Nat) : Byte := s.mem.scratchByte (k + tilePlace l r o)
    let puts (r : Nat) : List (Nat × Byte) :=
      if extentOf l 1 ≤ origin.getD 1 0 + r then []
      else if l.scl = 0 then (List.range (n * z)).map fun o => (codeAddress l (tileIndex origin r (o / z)) + o % z, byte r o)
      else (List.range (n / 16)).flatMap fun m =>
        let ix := tileIndex origin r (16 * m)
        let first := m / 2 * recordLength l.fmt
        ((List.range half).map fun j => (codeAddress l ix + j, byte r (first + m % 2 * half + j))) ++
          [(scaleAddress l ix, byte r (first + 2 * half + m % 2))]
    let ws := (List.range l.tile1).flatMap fun r => (joined (puts r)).map fun e => (canonicalOf e.1, e.2)
    (∀ r, r < l.tile1 → ∀ x ∈ puts r, CanWrite s core c.ctx (canonicalOf x.1) false) →
    (∀ r o, r < l.tile1 → o < rowLength l → s.mem.scratchPoisoned (k + tilePlace l r o) 1 = false) →
    AllWritten s (.command c.serial) core c.ctx false ws →
    workDone s core c = some (.ended (afterWrites s (.command c.serial) core c.ctx false ws) 0 0 0)

/-- 09 R125 to R127 and 21 R251: TCOPY IN of a canonical tile writes its header, and each element of its rows and steps, BF16 bit
for bit, blocks of M8 and H4 copied where they coincide with whole ones and else formed anew, padding zero; and no other byte. -/
def Sys2Proof.Claim.CanonicalTilesAreExpanded : Prop :=
  ∀ (s : State) core (c : Command) l role tr origin dst k, MemGood s.mem → c.result = none →
    c.work = .tcopy l false true role tr origin dst → l.fmt ∈ [9, 10, 11] → (l.scl = 0 ↔ l.fmt = 9) → l.scl < 3 →
    let x := origin.getD 0 0
    let y := origin.getD 1 0
    let e := if l.fmt = 9 then 24 else if l.fmt = 10 then 48 else 96
    let rows := if tr then min l.tile0 (extentOf l 0 - x) else min l.tile1 (extentOf l 1 - y)
    let klen := if tr then min l.tile1 (extentOf l 1 - y) else min l.tile0 (extentOf l 0 - x)
    let steps := (klen + e - 1) / e
    let size := 64 + (if l.fmt = 9 then 48 else 56) * rows * steps
    let ix (r q : Nat) : List Nat := if tr then tileIndex origin q r else tileIndex origin r q
    0 < rows → 0 < klen → rows ≤ 64 → steps ≤ 64 →
    padOf s core c.team c.claimed dst size = some k → NotOwned s c.team k size →
    let u := noteReads s core c.ctx (tcopyReads l false true tr origin)
    (∀ r q, r < rows → q < klen →
      CanRead u core c.ctx (canonicalOf (codeAddress l (ix r q))) ∧
      CanRead u core c.ctx (canonicalOf (if l.fmt = 9 then codeAddress l (ix r q) + 1 else scaleAddress l (ix r q)))) →
    ∃ t, workDone s core c = some (.ended t 0 0 0) ∧ (∀ cr a, t.mem.seen cr a = u.mem.seen cr a) ∧
      (∀ b, b < k ∨ k + size ≤ b → t.mem.scratchByte b = s.mem.scratchByte b) ∧
      let tile := (List.range size).map fun o => t.mem.scratchByte (k + o)
      byteAt tile 0 = l.fmt ∧ byteAt tile 1 = (if role then 1 else 0) ∧ halfAt tile 2 = BitVec.ofNat 32 rows ∧
      halfAt tile 4 = BitVec.ofNat 32 steps ∧ halfAt tile 6 = BitVec.ofNat 32 klen ∧
      (∀ o, 8 ≤ o → o < 64 → byteAt tile o = 0) ∧
      ∀ r q, r < rows → q < e * steps →
        let step := 64 + 48 * (r * steps + q / e)
        if l.fmt = 9 then
          ∀ b, b < 2 → tile.getD (step + 2 * (q % e) + b) 0 =
            if q < klen then byteOf u core c.ctx (canonicalOf (codeAddress l (ix r q) + b)) else 0
        else
          let n := min 16 (klen - q / 16 * 16)
          let block := blockOf u core c.ctx l (fun i => ix r (q / 16 * 16 + i)) n (!tr && decide (x % 16 = 0) && decide (n = 16))
          (if l.fmt = 10 then byteAt tile (step + q % e)
            else if q % e % 2 = 0 then byteAt tile (step + q % e / 2) % 16 else byteAt tile (step + q % e / 2) / 16) =
            block.1 (q % 16) ∧
          byteAt tile (64 + 48 * rows * steps + 8 * (r * steps + q / e) + q % e / 16) = block.2 ∧
          ∀ b, e / 16 ≤ b → b < 8 → byteAt tile (64 + 48 * rows * steps + 8 * (r * steps + q / e) + b) = 0

/-- 11 R157 and 21 R260: COMBINE adds to each element of its window the slots staged for it, in ascending order of their source,
in FP32, a BF16 element rounded once at the end, or modulo 2^32; frees them; and changes no other byte. -/
def Sys2Proof.Claim.CombineFoldsItsWindow : Prop :=
  ∀ (s : State) core (c : Command) win op, MemGood s.mem → c.result = none → c.work = .combine win →
    let mine (e : Nat × Staged) : Bool := decide (e.2.ctx = c.ctx) && decide (e.2.win = win)
    let size := if op = 1 then 2 else 4
    (∀ e ∈ s.mem.staged, mine e = true → e.2.op = op ∧ e.1 / 256 + 4 ≤ 2 ^ 52 ∧ s.sys.target (e.1 / 256) = .hbm ∧
      s.mem.poisonIn (e.1 / 256) size = false) →
    (∀ e ∈ s.mem.staged, ∀ f ∈ s.mem.staged, mine e = true → mine f = true → e.1 / 256 < f.1 / 256 →
      e.1 / 256 + size ≤ f.1 / 256) →
    ∃ t, workDone s core c = some (.ended t 0 0 0) ∧ t.mem.staged = s.mem.staged.filter (fun e => !mine e) ∧
      (∀ a, a < 2 ^ 52 → (∀ e ∈ s.mem.staged, mine e = true → ¬ (e.1 / 256 ≤ a ∧ a < e.1 / 256 + size)) →
        t.mem.seen core a = s.mem.seen core a) ∧
      ∀ e ∈ s.mem.staged, mine e = true →
        let pa := e.1 / 256
        let old := (List.range 4).map fun k => s.mem.seen core (pa + k)
        let slot (src : Nat) : Option Word := ((s.mem.staged.find? fun x => x.1 = pa * 256 + src && mine x).map fun x => x.2.val)
        let sum := (List.range 256).foldl (fun v src => match slot src with
          | some x => if op = 2 then v + x else (sumOf v x).1
          | none => v) (if op = 1 then halfAt old 0 <<< (16 : Nat) else wordOfBytes 4 old)
        (List.range size).map (fun k => t.mem.seen core (pa + k)) =
          bytesOfWord size (if op = 1 then BitVec.ofNat 32 (storeHalf (.mode .rne) sum).1 else sum)

/-- 21 R239, R241 to R243, R250 to R255, R258 and R260 with 03 R45 and R46 and 11 R157: commands are accepted, claim their ring
slots and publish in their order, with their completion words; and the work a TCOPY, BCOPY or COMBINE has done then is that of
its rules. That a command does all its work in the step that publishes it is the model's choice (log 42). -/
def Obligations.CommandsAreAcceptedAndPublished : Prop :=
  Claim.CommandsEnterAndLeaveTheirQueues ∧ Claim.CompletionWordsAreWritten ∧ Claim.EnginesReachTheirBytes ∧ Claim.BcopyCopiesItsBytes ∧
    Claim.PlainTilesAreCopiedIn ∧ Claim.PlainTilesAreCopiedOut ∧ Claim.CanonicalTilesAreExpanded ∧ Claim.CombineFoldsItsWindow

/-! ## Millstone (chapter 23) -/

namespace Sys2Proof.Claim

open Sys2Proof.Machine

/-- The instruction puts its threads to sleep at their PC until what it waits for; all else is as in s' and c'. -/
def SleepsIn (i : Instr) (s : State) (is : Issue) (c : Crew) (s' : State) (c' : Crew) (what : Awaits) : Prop :=
  ∃ sl, sl.crew = is.crew ∧ sl.lanes = is.lanes ∧ sl.next = is.next ∧ sl.what = what ∧
    Gives i s is c (s'.setSleepers (s'.sleepers.set s.serial sl)) c' (fun _ t => { t with wait := .op s.serial }) nothing

/-- The same with nothing else changed. -/
abbrev Sleeps (i : Instr) (s : State) (is : Issue) (c : Crew) (what : Awaits) : Prop := SleepsIn i s is c s c what

/-- The tiles a mask names. -/
def maskOfTiles (ts : List Nat) : BitVec 64 := ts.foldl (fun m t => m ||| (1#64 <<< t)) 0#64

/-- The bytes at a scratch address are inside the issuing core's part of its team's reservation, at the key k (23 R269). -/
def OwnBytes (s : State) (is : Issue) (c : Crew) (addr : Word) (n k : Nat) : Prop :=
  ownPad s c.team (coreOf is.crew) addr.toNat n = some k

/-- A canonical tile with a sound header at an aligned scratch address: header and key (23 R269, R285). -/
def TileAt (s : State) (is : Issue) (c : Crew) (addr : Word) (h : TileHead) (k : Nat) : Prop :=
  addr.toNat % 64 = 0 ∧
    tileOperand s c.team (coreOf is.crew) addr.toNat = .ok { head := h, key := k, bytes := s.mem.scratchBytes k 64 }

/-- The number a command of queue MATRIX takes: that of its acceptance (21 R239, R241). -/
def serialHere (s : State) (is : Issue) : Nat := (acceptedBefore s is).getD s.serial

/-- Every write of the tiles' headers happens before the core's next Millstone command with these writes known: those its
signers knew at their latest MOPR, and those of earlier commands of queue MATRIX (23 R268, R277). -/
def HeadsOrdered (s : State) (is : Issue) (know : Map Nat) (heads : List Nat) : Prop :=
  ∀ k ∈ heads, ∀ g, g < 4 → s.mem.orderedFor (know.set (2 ^ 22 + 4 * coreOf is.crew + 3) s.free) (k / 16 + g) = true

/-- An A tile and a B tile that may be multiplied (23 R285). -/
def Paired (a b : TileHead) : Prop := a.role = 0 ∧ b.role = 1 ∧ a.fmt = b.fmt ∧ a.steps = b.steps ∧ a.klen = b.klen

/-- A command of the lowest participant may enter queue MATRIX (21 R239; 23 R267); command serials are fresh. -/
structure MillEnter (i : Instr) (s : State) (is : Issue) (c : Crew) (p : Part1) (entries : Nat) : Prop where
  ready : Ready i s is c
  first : (parts i is c).head? = some p
  room : mayAccept s is.crew is.pc 3 entries none = true
  fresh : ∀ x ∈ (s.core (coreOf is.crew)).commands, x.serial ≠ serialHere s is

/-- The team holds the core's Millstone. -/
def Reserved (s : State) (is : Issue) (c : Crew) : Prop := (s.core (coreOf is.crew)).mill = some c.team

/-- The team holds tile t of the core. -/
def HoldsTile (s : State) (is : Issue) (c : Crew) (t : Word) : Prop :=
  t.toNat < 64 ∧ (s.core (coreOf is.crew)).tiles.get t.toNat = some c.team

/-- The issue posts a command to queue MATRIX: the threads move on, the command stands among its core's commands by the order
of acceptance, with its work, the headers its checks read and the scratchpad writes ordered before it, and its scratchpad
bytes are footprints until a wait covers them; its result is unpredictable from the start where a header's write is not
ordered before it (23 R267, R268, R277, R279; log 79). -/
def MillPosts (i : Instr) (s : State) (is : Issue) (c : Crew) (p : Part1) (entries : Nat) (word : Option WordAt) (scope : Nat)
    (work : Work) (ranges : List (Nat × Nat)) (heads : List Nat) (dest : MillDest) : Prop :=
  let core := coreOf is.crew
  ∃ t d x before behind, ∃ loose : Bool, exec i s = .next t ∧ t.crews.get is.crew = some d ∧
    (∀ l, l < 32 → d.thread l = if inMask is.lanes l then is.after (c.thread l) else c.thread l) ∧
    d.pend = c.pend ∧ CrewKept c d ∧ OthersKept is.crew s t ∧ t.mem = s.mem ∧ TeamsKept s t ∧ t.near = s.near ∧
    (s.core core).commands = before ++ behind ∧ (t.core core).commands = before ++ x :: behind ∧
    (∀ y ∈ before, y.serial < x.serial) ∧ (∀ y ∈ behind.head?, x.serial < y.serial) ∧ x.serial = serialHere s is ∧
    x.queue = 3 ∧ x.entries = entries ∧
    x.ctx = ctxOf s c ∧ x.team = c.team ∧ x.crew = is.crew ∧ x.lane = p.l ∧ x.token = none ∧ x.word = word ∧
    x.scope = scope ∧ x.till = s.clock ∧ x.result = none ∧ x.work = work ∧ x.know = c.mopr ∧
    x.heads = heads.map (fun k => s.mem.scratchBytes k 64) ∧ (loose = false ↔ HeadsOrdered s is c.mopr heads) ∧
    (t.core core).footprints = (s.core core).footprints ++ (ranges.map fun r =>
      { team := c.team, serial := serialHere s is, first := r.1 / 16, count := (r.1 + r.2 + 15) / 16 - r.1 / 16
        dest := dest, touched := loose }) ∧
    (t.core core).mill = (s.core core).mill ∧ (t.core core).tiles = (s.core core).tiles ∧
    (t.core core).variance = (s.core core).variance

/-- The joint register an MMA or MMAS signs, of the team on the core (23 R281). -/
def JointIs (s : State) (is : Issue) (c : Crew) (n : Nat) (j : Joint) : Prop :=
  ∃ t, s.tctxs.get (c.team * 256 + coreOf is.crew) = some t ∧ t.joints.get n = some j

/-- A signature short of the count puts its threads to sleep and stands in the joint register (23 R282). -/
def Signs (i : Instr) (s : State) (is : Issue) (c : Crew) (n : Nat) (j : Joint) (fields : List Word) : Prop :=
  ∃ t d sl, exec i s = .next t ∧ t.crews.get is.crew = some d ∧
    (∀ l, l < 32 → d.thread l = if inMask is.lanes l then { c.thread l with wait := .op s.serial } else c.thread l) ∧
    d.signed = c.signed ++ [s.serial] ∧ t.sleepers.get s.serial = some sl ∧ sl.what = .joint n ∧ sl.lanes = is.lanes ∧
    sl.next = is.next ∧ t.mem = s.mem ∧ (t.core (coreOf is.crew)).commands = (s.core (coreOf is.crew)).commands ∧
    JointIs t is c n { j with
      sigs := j.sigs ++ [{ crew := is.crew, sleeper := s.serial, fields := fields, know := c.mopr }] }

/-- The last signature posts the operation once, its crews named as signers, and the joint register is empty (23 R282); every
write that happened before a signer's latest MOPR is ordered before it (23 R277). -/
def PostsSigned (i : Instr) (s : State) (is : Issue) (c : Crew) (n : Nat) (j : Joint) (work : Work) : Prop :=
  ∃ t d x before behind, exec i s = .next t ∧ t.crews.get is.crew = some d ∧
    (∀ l, l < 32 → d.thread l = if inMask is.lanes l then is.after (c.thread l) else c.thread l) ∧
    (s.core (coreOf is.crew)).commands = before ++ behind ∧
    (t.core (coreOf is.crew)).commands = before ++ x :: behind ∧ (∀ y ∈ before, y.serial < x.serial) ∧
    (∀ y ∈ behind.head?, x.serial < y.serial) ∧ x.work = work ∧ x.serial = serialHere s is ∧
    x.know = j.sigs.foldl (fun m g => (Carried.join { sig := 0#512, know := m } { sig := 0#512, know := g.know }).know) c.mopr ∧
    x.signers = j.sigs.map Signature.crew ++ [is.crew] ∧ x.serial ∈ d.signed ∧ t.mem = s.mem ∧
    JointIs t is c n { j with sigs := [] }

end Sys2Proof.Claim

/-- 23 R270 to R275, R277 and R281: MRES takes a free Millstone or the team's own and answers 1, else 0; MREL ends the
reservation or sleeps while commands remain; ACCALLOC grants the lowest free tiles, answers SHORT, or sleeps until the end of a clock
grants them, and raises 0x0C6 beyond the team's ACC; ACCFREE frees the tiles it names, or raises 0x0C3; MOPR releases, and the writes its crew knows
are ordered before its next commands; JSET sets a count. -/
def Obligations.MillstoneReservationAndTilesFollowTheirRules : Prop :=
  let k (s : State) (is : Issue) : Core := s.core (coreOf is.crew)
  let held (s : State) (is : Issue) (c : Crew) : Nat := ((k s is).tiles.filter fun e => e.2 = c.team).length
  let free (s : State) (is : Issue) : List Nat := (List.range 64).filter fun t => ((k s is).tiles.get t).isNone
  (∀ (f : F64) s is c, Ready (.mres f) s is c → is.lanes ≠ 0#32 →
    ((k s is).mill = none → Gives (.mres f) s is c
      (s.setCore (coreOf is.crew) { k s is with mill := some c.team, variance := { s := 0, mean := 0, m2 := 0, reason := 0 } })
      c (onward is) fun _ => ([1#32], 0)) ∧
    (∀ o, (k s is).mill = some o → Gives (.mres f) s is c s c (onward is) fun _ => ([bit (o = c.team)], 0))) ∧
  (∀ (f : F64) s is c, Ready (.mrel f) s is c →
    (¬ Reserved s is c → Gives (.mrel f) s is c s c (onward is) nothing) ∧
    (Reserved s is c → millSerials s (coreOf is.crew) c.team = [] →
      Gives (.mrel f) s is c (s.setCore (coreOf is.crew) { k s is with mill := none }) c (onward is) nothing) ∧
    (is.lanes ≠ 0#32 → Reserved s is c → millSerials s (coreOf is.crew) c.team ≠ [] →
      Sleeps (.mrel f) s is c (.release (millSerials s (coreOf is.crew) c.team)))) ∧
  (∀ (f : F64) s is c r, Ready (.accalloc f) s is c → is.lanes ≠ 0#32 → recordOf s c = some r →
    allocWaits s (coreOf is.crew) = [] →
    let n := f.imm.toNat
    (r.acc.toNat < n + held s is c → OneGroup is c → CanEnter s is c → AllRaise (.accalloc f) s is c 0x0C6 0) ∧
    (n + held s is c ≤ r.acc.toNat → f.mod.getLsbD 0 = false → n ≤ (free s is).length →
      Gives (.accalloc f) s is c
        (s.setCore (coreOf is.crew)
          { k s is with tiles := ((free s is).take n).foldl (fun m t => m.set t c.team) (k s is).tiles })
        c (onward is) fun _ => (pairWords (maskOfTiles ((free s is).take n)) ++ [0#32], 0)) ∧
    (n + held s is c ≤ r.acc.toNat → f.mod.getLsbD 0 = false → (free s is).length < n →
      Gives (.accalloc f) s is c s c (onward is) fun _ => ([0#32, 0#32, 1#32], 0)) ∧
    (n + held s is c ≤ r.acc.toNat → f.mod.getLsbD 0 = true →
      Sleeps (.accalloc f) s is c (.alloc n f.vd.toNat))) ∧
  (∀ (s : State) id sl c n dst r, s.sleepers = [(id, sl)] → sl.what = .alloc n dst → s.crews.get sl.crew = some c →
    recordOf s c = some r → (∃ l, l < 32 ∧ inMask sl.lanes l = true ∧ (c.thread l).wait = .op id) →
    let core := s.core (coreOf sl.crew)
    let free := (List.range 64).filter fun t => (core.tiles.get t).isNone
    let t := serveAllocs s
    if n + (core.tiles.filter fun e => e.2 = c.team).length ≤ r.acc.toNat ∧ n ≤ free.length then
      (t.core (coreOf sl.crew)).tiles = (free.take n).foldl (fun m t => m.set t c.team) core.tiles ∧ t.sleepers = [] ∧
      ∃ d p, t.crews.get sl.crew = some d ∧ d.pend = c.pend ++ [p] ∧
        (∀ j l, l < 32 → p.writes.get (32 * j + l) =
          if inMask sl.lanes l = true ∧ (c.thread l).wait = .op id ∧ dst ≤ j then
            (pairWords (maskOfTiles (free.take n)) ++ [0#32])[j - dst]?
          else none) ∧
        ∀ l, l < 32 → d.thread l =
          if inMask sl.lanes l = true ∧ (c.thread l).wait = .op id then
            { c.thread l with wait := .awake, pc := sl.next, rep := 0 }
          else c.thread l
    else t = s) ∧
  (∀ (f : F64) s is c p, Ready (.accfree f) s is c → (parts (.accfree f) is c).head? = some p →
    let named (t : Nat) : Bool := t < 64 && (pairOf p.a).getLsbD t
    ((∃ t, named t = true ∧ (k s is).tiles.get t ≠ some c.team) → OneGroup is c → CanEnter s is c →
      AllRaise (.accfree f) s is c 0x0C3 0) ∧
    ((∀ t, named t = true → (k s is).tiles.get t = some c.team) → (k s is).commands = [] →
      allocWaits s (coreOf is.crew) = [] →
      Gives (.accfree f) s is c
        (s.setCore (coreOf is.crew)
          { k s is with tiles := (k s is).tiles.filter fun e => !(e.2 = c.team && (pairOf p.a).getLsbD e.1) })
        c (onward is) nothing)) ∧
  (∀ (f : F64) s is c, Ready (.mopr f) s is c →
    let s1 := releaseAt s is.crew 2
    Leaves (.mopr f) s is c
      (s1.setCrews (s1.crews.modify is.crew fun d => { d with
        mopr := (lanesOf is.lanes).foldl (fun m l => m.set (32 * is.crew + l) s.free) c.know }))) ∧
  (∀ (f : F64) s is c r t j, Ready (.jset f) s is c → recordOf s c = some r →
    s.tctxs.get (c.team * 256 + coreOf is.crew) = some t → (t.joints.get (f.mod.toNat % 8)).getD .empty = j → j.bad = false →
    let share := (r.crews.toNat + 1) / (r.cores.toNat + 1)
    let here := (s.crews.filter fun e => e.2.team = c.team && coreOf e.1 = coreOf is.crew).length
    (j.sigs = [] → f.imm.toNat ≤ share ∨ f.imm.toNat ≤ here →
      Gives (.jset f) s is c
        (s.setTctx c.team (coreOf is.crew)
          { t with joints := t.joints.set (f.mod.toNat % 8) { j with need := some f.imm.toNat } })
        c (onward is) nothing) ∧
    (j.sigs ≠ [] ∨ share < f.imm.toNat ∧ here < f.imm.toNat → OneGroup is c → CanEnter s is c →
      AllRaise (.jset f) s is c 0x082 0))

/-- 23 R267, R276, R284, R285, R287 and R288: a Millstone command whose reservation, tile, addresses and headers are in
order posts to queue MATRIX with its operands; without the reservation MMA raises 0x0C2. -/
def Sys2Proof.Claim.MillstoneCommandsPostTheirWork : Prop :=
  (∀ (f : F64) s is c p ha hb ka kb, MillEnter (.mma f) s is c p 2 → f.mod.getLsbD 3 = false → Reserved s is c →
    HoldsTile s is c (w p.c 0) → TileAt s is c (w p.a 0) ha ka → TileAt s is c (w p.b 0) hb kb → Paired ha hb →
    (f.mod.getLsbD 5 = true → (∀ x ∈ (s.core (coreOf is.crew)).waiters, x.queue = 3 → ∀ n, x.accepted = some n →
        serialHere s is ≤ n) ∧
      ∃ rows, indexInForce s (coreOf is.crew) c.team (serialHere s is) = some rows ∧
      ∀ x ∈ rows, x = 0xFFFFFFFF#32 ∨ x.toNat < ha.rows) →
    MillPosts (.mma f) s is c p 2 none 2
      (.mma (w p.c 0).toNat (w p.a 0) (w p.b 0) (f.mod.getLsbD 4) (f.mod.getLsbD 5) (f.mod.getLsbD 6))
      [(ka, ha.bytes), (kb, hb.bytes)] [ka, kb]
      (.tile (w p.c 0).toNat 0 (if f.mod.getLsbD 5 then 64 else ha.rows) hb.rows false)) ∧
  (∀ (f : F64) s is c p ha hb ka kb ja jb g, MillEnter (.mmas f) s is c p 4 → f.mod.getLsbD 3 = false → Reserved s is c →
    HoldsTile s is c (w p.c 0) → TileAt s is c (w p.a 0) ha ka → TileAt s is c (w p.b 0) hb kb → Paired ha hb →
    g = ((List.range 5).map fun k => c.greg (f.mod.toNat / 16 % 512 + k)) →
    OwnBytes s is c (w g 0) (4 * ha.klen) ja → (w g 0).toNat % 16 = 0 →
    OwnBytes s is c (w g 1) (4 * ha.klen) jb → (w g 1).toNat % 16 = 0 →
    1 ≤ (w g 2).toNat → (w g 2).toNat ≤ 1048576 →
    MillPosts (.mmas f) s is c p 4 none 2
      (.mmas (w p.c 0).toNat (w p.a 0) (w p.b 0) (w g 0) (w g 1) (w g 2) (w g 3) (w g 4))
      [(ka, ha.bytes), (kb, hb.bytes), (ja, 4 * ha.klen), (jb, 4 * ha.klen)] [ka, kb]
      (.tile (w p.c 0).toNat 0 ha.rows hb.rows true)) ∧
  (∀ (f : F64) s is c p h k d, MillEnter (.mnorm f) s is c p 2 → Reserved s is c → TileAt s is c (w p.a 0) h k →
    (w p.b 0).toNat % 16 = 0 → OwnBytes s is c (w p.b 0) (4 * h.klen) d →
    MillPosts (.mnorm f) s is c p 2 none 2 (.mnorm (w p.b 0) (w p.a 0)) [(k, h.bytes), (d, 4 * h.klen)] [k]
      (.pad d (4 * h.klen))) ∧
  (∀ (f : F64) s is c p, MillEnter (.midx f) s is c p 1 → Reserved s is c →
    let i : Instr := .midx f
    MillPosts i s is c p 1 none 2
      (.midx ((List.range 64).map fun l =>
        if inMask is.lanes (l % 32) then
          (if l < 32 then w (partAt i.form i.fields c l).a 0 else w (partAt i.form i.fields c (l - 32)).b 0)
        else 0xFFFFFFFF#32)) [] [] (.pad 0 0)) ∧
  (∀ (f : F64) s is c p k, MillEnter (.accrd f) s is c p 1 → HoldsTile s is c (w p.c 0) →
    let first := f.imm.toNat % 64
    let count := f.mod.toNat % 64 + 1
    first + count ≤ 64 → (w p.b 0).toNat % 16 = 0 → OwnBytes s is c (w p.b 0) (256 * count) k →
    (f.mod.getLsbD 6 = true → (pairOf p.d).toNat % 8 = 0) →
    MillPosts (.accrd f) s is c p 1
      (if f.mod.getLsbD 6 then some { addr := pairOf p.d, seq := (w p.d 3 ++ w p.d 2).setWidth 48 } else none)
      (f.mod.toNat / 128 % 8) (.accrd (w p.b 0) (w p.c 0).toNat first count) [(k, 256 * count)] []
      (.pad k (256 * count))) ∧
  (∀ (f : F64) s is c p k, MillEnter (.accwr f) s is c p 1 → HoldsTile s is c (w p.c 0) →
    let first := f.imm.toNat % 64
    let count := f.mod.toNat % 64 + 1
    first + count ≤ 64 → (w p.b 0).toNat % 16 = 0 → OwnBytes s is c (w p.b 0) (256 * count) k →
    MillPosts (.accwr f) s is c p 1 none 2 (.accwr (w p.c 0).toNat (w p.b 0) first count) [(k, 256 * count)] []
      (.tile (w p.c 0).toNat first count 64 false)) ∧
  (∀ (f : F64) s is c p, MillEnter (.acczero f) s is c p 1 → HoldsTile s is c (w p.c 0) →
    MillPosts (.acczero f) s is c p 1 none 2 (.acczero (w p.c 0).toNat) [] [] (.pad 0 0)) ∧
  (∀ (f : F64) s is c p, Ready (.mma f) s is c → (parts (.mma f) is c).head? = some p → f.mod.getLsbD 3 = false →
    ¬ Reserved s is c → waiterAt s is.crew is.pc = none →
    (∀ e ∈ s.sys.faults, ∀ x ∈ e.2.unread, x.1 ≠ .check is.crew is.pc.toNat) →
    (∀ x ∈ [w p.a 0, w p.b 0], x.toNat % 64 = 0 ∧ ∃ k, OwnBytes s is c x 64 k) → OneGroup is c → CanEnter s is c →
    AllRaise (.mma f) s is c 0x0C2 0)

/-- 23 R281 and R282: a signature short of the count sleeps in its joint register; the one that makes the count posts the
operation once; a signature that differs from the first, a second one of a crew, and one without a count raise 0x082. -/
def Sys2Proof.Claim.JointSignaturesFormOneOperation : Prop :=
  let n (f : F64) : Nat := f.mod.toNat % 8
  let fields (f : F64) (p : Part1) : List Word := [w p.a 0, w p.b 0, w p.c 0, f.mod.setWidth 32]
  (∀ (f : F64) s is c p j k, Ready (.mma f) s is c → (parts (.mma f) is c).head? = some p → f.mod.getLsbD 3 = true →
    is.handler = false → JointIs s is c (n f) j → j.bad = false → j.need = some k → j.sigs.length + 1 < k →
    (∀ g ∈ j.sigs, g.crew ≠ is.crew ∧ g.fields = fields f p) → Signs (.mma f) s is c (n f) j (fields f p)) ∧
  (∀ (f : F64) s is c p j k, Ready (.mmas f) s is c → (parts (.mmas f) is c).head? = some p → f.mod.getLsbD 3 = true →
    is.handler = false → JointIs s is c (n f) j → j.bad = false → j.need = some k → j.sigs.length + 1 < k →
    let g := fields f p ++ (List.range 5).map fun k => c.greg (f.mod.toNat / 16 % 512 + k)
    (∀ x ∈ j.sigs, x.crew ≠ is.crew ∧ x.fields = g) → Signs (.mmas f) s is c (n f) j g) ∧
  (∀ (f : F64) s is c p j ha hb ka kb, MillEnter (.mma f) s is c p 2 → f.mod.getLsbD 3 = true → is.handler = false →
    Reserved s is c → HoldsTile s is c (w p.c 0) → TileAt s is c (w p.a 0) ha ka → TileAt s is c (w p.b 0) hb kb →
    Paired ha hb → f.mod.getLsbD 5 = false →
    JointIs s is c (n f) j → j.bad = false → j.need = some (j.sigs.length + 1) →
    (∀ g ∈ j.sigs, g.crew ≠ is.crew ∧ g.fields = fields f p ∧
      ∀ sl, s.sleepers.get g.sleeper = some sl → sl.crew ≠ is.crew) →
    PostsSigned (.mma f) s is c (n f) j
      (.mma (w p.c 0).toNat (w p.a 0) (w p.b 0) (f.mod.getLsbD 4) false (f.mod.getLsbD 6))) ∧
  (∀ (f : F64) s is c p j, Ready (.mma f) s is c → (parts (.mma f) is c).head? = some p → f.mod.getLsbD 3 = true →
    is.handler = false → JointIs s is c (n f) j → j.bad = false → OneGroup is c → CanEnter s is c →
    (j.need = none ∨ (∃ g ∈ j.sigs, g.crew = is.crew) ∨ (∃ g rest, j.sigs = g :: rest ∧ g.fields ≠ fields f p)) →
    AllRaise (.mma f) s is c 0x082 0)

/-- Millstone's posting instructions queue their work, and joint signatures form one operation. -/
def Obligations.MillstoneInstructionsPostAndJoin : Prop :=
  Claim.MillstoneCommandsPostTheirWork ∧ Claim.JointSignaturesFormOneOperation

/-- 23 R278, R280 and R290: MWAIT and MVAR go on at once when no command and no signed operation is outstanding, acquiring what
the commands' publications carried and raising what the commands reported, once, and sleep otherwise; MVAR gives the variance
register, and raises 0x0C2 without the reservation. -/
def Sys2Proof.Claim.MillstoneWaitsCoverThePostedCommands : Prop :=
  let core (is : Issue) : Nat := coreOf is.crew
  let quiet (s : State) (is : Issue) (c : Crew) : Prop := millSerials s (core is) c.team = [] ∧ c.signed = []
  let named (s : State) (is : Issue) (c : Crew) (also : List Nat) : List Nat :=
    sortAsc (((s.core (core is)).footprints.filter fun f => f.team = c.team).map Footprint.serial ++ also)
  let covered (c : Crew) (f : Footprint) : Bool := f.team = c.team
  let told (s : State) (is : Issue) (c : Crew) (n : Nat) : Bool :=
    (s.core (core is)).footprints.any fun f => covered c f && f.serial = n
  let overs (s : State) (is : Issue) (c : Crew) : State :=
    acquireSig (s.setCore (core is) { s.core (core is) with
      footprints := (s.core (core is)).footprints.filter fun f => !covered c f
      reports := (s.core (core is)).reports.filter fun e => !told s is c e.1 }) is.crew (s.core (core is)).milled
  let knowing (s : State) (is : Issue) (c : Crew) : Crew := c.acquire (s.core (core is)).milled
  let silent (s : State) (is : Issue) (c : Crew) : Prop := ∀ e ∈ (s.core (core is)).reports, told s is c e.1 = false
  let lowest (s : State) (is : Issue) (c : Crew) (cause : Nat) : Prop :=
    (∃ e ∈ (s.core (core is)).reports, told s is c e.1 = true ∧ e.2 = cause) ∧
      ∀ e ∈ (s.core (core is)).reports, told s is c e.1 = true → cause ≤ e.2
  (∀ (f : F64) s is c, Ready (.mwait f) s is c → is.lanes ≠ 0#32 → quiet s is c →
    (silent s is c → Gives (.mwait f) s is c (overs s is c) (knowing s is c) (onward is) nothing) ∧
    (∀ cause, lowest s is c cause → OneGroup is c → CanEnter s is c →
      RaisedByAll (exec (.mwait f) s) s is (knowing s is c) (overs s is c) cause 0)) ∧
  (∀ (f : F64) s is c, Ready (.mwait f) s is c → is.lanes ≠ 0#32 → ¬ quiet s is c →
    let l := sortAsc (millSerials s (core is) c.team ++ c.signed)
    Sleeps (.mwait f) s is c (.mill l (named s is c l) none)) ∧
  (∀ (f : F64) s is c, Ready (.mvar f) s is c → is.lanes ≠ 0#32 → Reserved s is c → quiet s is c →
    (silent s is c →
      let v := (s.core (core is)).variance
      Gives (.mvar f) s is c (overs s is c) (knowing s is c) (onward is) fun _ =>
        ([BitVec.ofNat 32 v.s, v.mean, varWord v.s v.m2, BitVec.ofNat 32 v.reason], 0)) ∧
    (∀ cause, lowest s is c cause → OneGroup is c → CanEnter s is c →
      RaisedByAll (exec (.mvar f) s) s is (knowing s is c) (overs s is c) cause 0)) ∧
  (∀ (f : F64) s is c, Ready (.mvar f) s is c → is.lanes ≠ 0#32 → Reserved s is c → ¬ quiet s is c →
    let l := sortAsc (millSerials s (core is) c.team ++ c.signed)
    Sleeps (.mvar f) s is c (.mill l (named s is c l) (some f.vd.toNat))) ∧
  (∀ (f : F64) s is c, Ready (.mvar f) s is c → ¬ Reserved s is c → OneGroup is c → CanEnter s is c →
    AllRaise (.mvar f) s is c 0x0C2 0)

namespace Sys2Proof.Claim

open Sys2Proof.Machine

/-- No crew has written into the command's footprint since it was posted, and its headers were ordered (23 R277, R279). -/
def Untouched (s : State) (core : Nat) (c : Command) : Prop :=
  ∀ f ∈ (s.core core).footprints, f.serial = c.serial → f.touched = false

/-- The table of 23 R289, in the order of its construction: q as it stands, and small and large the indices yet to settle. -/
inductive AliasTable : (Nat → Nat) → List Nat → List Nat → (Nat → Nat) → (Nat → Nat) → Prop where
  | overs (q small large thr alt) : (small = [] ∨ large = []) → (∀ k ∈ small ++ large, thr k = 2 ^ 32) →
      AliasTable q small large thr alt
  | keep (q sm small lg large thr alt) : thr sm = q sm → alt sm = lg → 2 ^ 32 ≤ q lg - (2 ^ 32 - q sm) →
      AliasTable (fun k => if k = lg then q lg - (2 ^ 32 - q sm) else q k) small (lg :: large) thr alt →
      AliasTable q (sm :: small) (lg :: large) thr alt
  | move (q sm small lg large thr alt) : thr sm = q sm → alt sm = lg → q lg - (2 ^ 32 - q sm) < 2 ^ 32 →
      AliasTable (fun k => if k = lg then q lg - (2 ^ 32 - q sm) else q k) (small ++ [lg]) large thr alt →
      AliasTable q (sm :: small) (lg :: large) thr alt

/-- The running values of a sampled product (23 R288). -/
structure Estimate where
  tile : Nat → Nat → Word
  s : Nat
  mean : Word
  m2 : Word

/-- round_rne of an exact number (00 R7). -/
def roundNear (x : FNum) : Word := (round32 .rne x).1

/-- round_rne of a word's value divided by a positive count. -/
def shareOf (x : Word) (n : Nat) : Word := roundNear ((num32 x).mul (.fin false ⟨1, n⟩))

/-- The variance that the register gives (23 R288, R290). -/
def spread (x : Estimate) : Word := if 2 ≤ x.s then shareOf x.m2 (x.s - 1) else 0#32

/-- tol_met of 23 R288, compared exactly. -/
def WithinTolerance (x : Estimate) (tau : Word) : Prop :=
  (num32 (spread x)).isFin = true ∧ (num32 x.mean).isFin = true ∧ (num32 tau).isFin = true ∧ 0 ≤ exact tau ∧
    exact (spread x) ≤ x.s * (exact tau * exact tau) * (exact x.mean * exact x.mean)

/-- Sample i of 23 R288, i the samples drawn so far, for elements a and b of rows × cols rows, and the table thr and alt. -/
def sampleOnce (klen rows cols : Nat) (a b : Nat → Nat → FNum) (inv : Nat → Word) (thr alt : Nat → Nat) (seed : Word)
    (x : Estimate) : Estimate :=
  let c := klen * (mix32 (BitVec.ofNat 32 (2 * x.s)) seed).toNat / 2 ^ 32
  let k := if (mix32 (BitVec.ofNat 32 (2 * x.s + 1)) seed).toNat < thr c then c else alt c
  let e := roundNear (((num32 (inv k)).mul (FNum.sum ((List.range rows).map fun i => a i k))).mul
    (FNum.sum ((List.range cols).map fun j => b j k)))
  let d1 := (differenceOf e x.mean).1
  let mean := (sumOf x.mean (shareOf d1 (x.s + 1))).1
  let d2 := (differenceOf e mean).1
  { tile := fun i j => (sumOf (x.tile i j) (roundNear (((a i k).mul (b j k)).mul (num32 (inv k))))).1
    s := x.s + 1, mean, m2 := (sumOf x.m2 (productOf d1 d2).1).1 }

/-- Batches of up to six samples from x to y, until the tolerance is met, reason 1, or the cap is reached, reason 2; n counts
them (23 R288). -/
inductive Batches (one : Estimate → Estimate) (cap : Nat) (tau : Word) : Estimate → Estimate → Nat → Nat → Prop where
  | tol (x y) : y = Nat.repeat one (min (x.s + 6) cap - x.s) x → 6 ≤ y.s → WithinTolerance y tau →
      Batches one cap tau x y 1 1
  | cap (x y) : y = Nat.repeat one (min (x.s + 6) cap - x.s) x → ¬ (6 ≤ y.s ∧ WithinTolerance y tau) → y.s = cap →
      Batches one cap tau x y 2 1
  | more (x y z reason n) : y = Nat.repeat one (min (x.s + 6) cap - x.s) x → ¬ (6 ≤ y.s ∧ WithinTolerance y tau) →
      y.s ≠ cap → Batches one cap tau y z reason n → Batches one cap tau x z reason (n + 1)

/-- A norm vector's word stops a sampled product: it is NaN, infinite or negative (23 R288). -/
def badNorm (x : Word) : Bool := isNan x || (num32 x).isInf || ((num32 x).isNeg && !(num32 x).isZero)

/-- What an MMAS leaves in the corner of its tile and in the variance register, after n batches (23 R288, R289). -/
def SampledProduct (ha hb : TileHead) (a b : Nat → Nat → FNum) (na nb : List Word) (cap : Nat) (seed tau : Word)
    (tile : Nat → Nat → Word) (v : Variance) (n : Nat) : Prop :=
  let wgt (k : Nat) : Rat := exact (w na k) * exact (w nb k)
  let total : Rat := ((List.range ha.klen).map wgt).sum
  let bad : Prop := ∃ k, k < ha.klen ∧ (badNorm (w na k) = true ∨ badNorm (w nb k) = true)
  (bad → tile = (fun _ _ => 0x7FC00000#32) ∧ v = { s := 0, mean := 0#32, m2 := 0#32, reason := 4 }) ∧
  (¬ bad → total = 0 → tile = (fun _ _ => 0#32) ∧ v = { s := 0, mean := 0#32, m2 := 0#32, reason := 3 }) ∧
  (¬ bad → total ≠ 0 →
    let floors (k : Nat) : Nat := ((ha.klen : Rat) * wgt k * 2 ^ 32 / total).floor.toNat
    let owed := ha.klen * 2 ^ 32 - ((List.range ha.klen).map floors).sum
    let q (k : Nat) : Nat :=
      floors k + (if 0 < wgt k ∧ ((List.range k).filter fun i => 0 < wgt i).length < owed then 1 else 0)
    ∃ thr alt y reason,
      AliasTable q ((List.range ha.klen).filter fun k => q k < 2 ^ 32) ((List.range ha.klen).filter fun k => 2 ^ 32 ≤ q k)
        thr alt ∧
      Batches (sampleOnce ha.klen ha.rows hb.rows a b (fun k => nearest (total / wgt k)) thr alt seed) cap tau
        { tile := fun _ _ => 0#32, s := 0, mean := 0#32, m2 := 0#32 } y reason n ∧
      tile = (fun i j => shareOf (y.tile i j) y.s) ∧ v = { s := y.s, mean := y.mean, m2 := y.m2, reason := reason })

end Sys2Proof.Claim

/-- 23 R268, R276, R284, R285, R287 to R289 and R291: once the clocks of the oldest command of queue MATRIX have passed it does
its work and publishes; what the works do to accumulators, rows, norm vectors, the variance register and the index vector; a
wait for it alone ends. The command writes no completion word, and its operands are neither poisoned nor written to since. That a
norm word of −0 counts as zero, not as negative, is the model's reading (log 36). -/
def Sys2Proof.Claim.MillstoneCommandsDoTheirWork : Prop :=
  let inTile (core t k : Nat) : Prop := accKey core t 0 0 ≤ k ∧ k < accKey core t 0 0 + 4096
  (∀ s core c, headCommand s core 3 = some c → c.word = none → c.token = none → ringOfWork c.work = none →
    let r := millWork s core c
    c.till + r.clocks ≤ s.clock → (∀ e ∈ s.sleepers, coreOf e.2.crew ≠ core) →
    ∃ t, exec (.millstonePublish core) s = .next t ∧ t.mem = r.s.mem ∧ t.tctxs = r.s.tctxs ∧
      (t.core core).variance = (r.s.core core).variance ∧ (∀ x ∈ (t.core core).commands, x.serial ≠ c.serial) ∧
      (∀ k, (t.core core).reports.get k = if k = c.serial ∧ r.report.isSome then r.report else (s.core core).reports.get k)) ∧
  (∀ s core c id sl d covered, headCommand s core 3 = some c → c.word = none → c.token = none → ringOfWork c.work = none →
    let r := millWork s core c
    c.till + r.clocks ≤ s.clock → r.report = none → (s.core core).reports = [] → s.sleepers = [(id, sl)] →
    sl.what = .mill [c.serial] covered none → coreOf sl.crew = core → s.crews.get sl.crew = some d →
    ∃ t d', exec (.millstonePublish core) s = .next t ∧ t.crews.get sl.crew = some d' ∧ t.sleepers = [] ∧
      ∀ l, l < 32 → d'.thread l =
        if inMask sl.lanes l ∧ (d.thread l).wait = .op id then
          { d.thread l with wait := .awake, pc := sl.next, rep := 0 }
        else d.thread l) ∧
  (∀ s core (c : Command) rows t, c.work = .midx rows → Untouched s core c → s.tctxs.get (c.team * 256 + core) = some t →
    (millWork s core c).clocks = 1 ∧
    (millWork s core c).s.tctxs.get (c.team * 256 + core) = some { t with index := some rows }) ∧
  (∀ s core (c : Command) t, c.work = .acczero t → Untouched s core c → Map.sorted s.mem.acc = true → Map.sorted s.mem.accPoison = true →
    let m := (millWork s core c).s.mem
    (millWork s core c).clocks = 16 ∧ (millWork s core c).report = none ∧
    (∀ k, inTile core t k → m.accWord k = 0#32 ∧ m.accPoison.get (k / 4) = none) ∧
    ∀ k, ¬ inTile core t k → m.accWord k = s.mem.accWord k) ∧
  (∀ s core (c : Command) t src first count d, c.work = .accwr t src first count → Untouched s core c → first + count ≤ 64 →
    Map.sorted s.mem.acc = true → ownPad s c.team core src.toNat (256 * count) = some d →
    s.mem.scratchPoisoned d (256 * count) = false → 
    (∀ j < 256 * count, s.mem.orderedFor (c.know.set (2 ^ 22 + 4 * core + 3) s.free) ((d + j) / 16) = true) →
    let k0 := accKey core t first 0
    let m := (millWork s core c).s.mem
    (millWork s core c).clocks = 2 * count ∧ (millWork s core c).report = none ∧
    ∀ k, m.accWord k =
      if k0 ≤ k ∧ k < k0 + 64 * count then wordOfBytes 4 (s.mem.scratchBytes (d + 4 * (k - k0)) 4) else s.mem.accWord k) ∧
  (∀ s core (c : Command) t dst first count d, c.work = .accrd dst t first count → Untouched s core c → first + count ≤ 64 → MemGood s.mem →
    ownPad s c.team core dst.toNat (256 * count) = some d →
    let k0 := accKey core t first 0
    (∀ k, k < 64 * count → s.mem.accPoison.get ((k0 + k) / 4) = none) →
    (millWork s core c).clocks = 2 * count ∧ (millWork s core c).report = none ∧
    ∀ a, (millWork s core c).s.mem.scratchByte a =
      if d ≤ a ∧ a < d + 256 * count then (s.mem.accWord (k0 + (a - d) / 4)).extractLsb' (8 * ((a - d) % 4)) 8
      else s.mem.scratchByte a) ∧
  (∀ s core (c : Command) t a b zs ga clr ha hb ta tb, c.work = .mma t a b zs ga clr → Untouched s core c →
    readTile s c core a 0 = some (ha, ta, false) → readTile s c core b 1 = some (hb, tb, false) →
    ha.rows ≤ 64 → hb.rows ≤ 64 → Map.sorted s.mem.acc = true →
    let r := millWork s core c
    let idx := ((s.tctxs.get (c.team * 256 + core)).bind TeamCtx.index).getD []
    -- the row of A that row i takes, none for an empty row and for a row beyond A's
    let from' (i : Nat) : Option Nat :=
      if ga then (if i < 64 ∧ idx.getD i 0xFFFFFFFF#32 ≠ 0xFFFFFFFF#32 then some (idx.getD i 0xFFFFFFFF#32).toNat else none)
      else if i < ha.rows then some i else none
    let was (k : Nat) : Word := if clr = true ∧ inTile core t k then 0#32 else s.mem.accWord k
    r.clocks = (if ga then 5 else 4) * ha.steps + (if clr then 16 else 0) ∧
    (∀ i j x, from' i = some x → j < hb.rows → r.s.mem.accWord (accKey core t i j) =
      dotSteps ha (tileElem ha ta x) (tileElem hb tb j) zs (was (accKey core t i j))) ∧
    ∀ k, (∀ i j x, from' i = some x → j < hb.rows → k ≠ accKey core t i j) → r.s.mem.accWord k = was k) ∧
  (∀ s core (c : Command) dst a h bs d, c.work = .mnorm dst a → Untouched s core c →
    readTile s c core a 0 = some (h, bs, false) → ownPad s c.team core dst.toNat (4 * h.klen) = some d → MemGood s.mem →
    let r := millWork s core c
    let squares (k : Nat) : FNum := FNum.sum ((List.range h.rows).map fun r => (tileElem h bs r k).mul (tileElem h bs r k))
    r.clocks = h.steps * ((h.rows + 15) / 16) ∧ r.report = none ∧
    ∀ x, r.s.mem.scratchByte x =
      if d ≤ x ∧ x < d + 4 * h.klen then
        ((fsqrt (roundNear (squares ((x - d) / 4)))).1).extractLsb' (8 * ((x - d) % 4)) 8
      else s.mem.scratchByte x) ∧
  (∀ s core (c : Command) t a b na nb cap seed tau ha hb ta tb va vb tile v n,
    c.work = .mmas t a b na nb cap seed tau → Untouched s core c →
    readTile s c core a 0 = some (ha, ta, false) → readTile s c core b 1 = some (hb, tb, false) →
    readWords s c core na ha.klen = (va, false) → readWords s c core nb ha.klen = (vb, false) →
    ha.rows ≤ 64 → hb.rows ≤ 64 → Map.sorted s.mem.acc = true →
    1 ≤ ha.klen → 1 ≤ cap.toNat → SampledProduct ha hb (tileElem ha ta) (tileElem hb tb) va vb cap.toNat seed tau tile v n →
    let r := millWork s core c
    r.report = none ∧ (r.s.core core).variance = v ∧
    r.clocks = 2 * ha.klen + 16 + (if 3 ≤ v.reason then 0 else n + 16) ∧
    (∀ i j, i < ha.rows → j < hb.rows → r.s.mem.accWord (accKey core t i j) = tile i j) ∧
    ∀ k, (∀ i j, i < ha.rows → j < hb.rows → k ≠ accKey core t i j) →
      r.s.mem.accWord k = if inTile core t k then 0#32 else s.mem.accWord k)

/-- Millstone's commands do their work in acceptance order, and MWAIT and MVAR wait for them. -/
def Obligations.MillstoneWorkIsDoneAndAwaited : Prop :=
  Claim.MillstoneWaitsCoverThePostedCommands ∧ Claim.MillstoneCommandsDoTheirWork

/-! ## Trowel, weight versions and the frame budget (chapter 25) -/

namespace Sys2Proof.Claim

open Sys2Proof.Machine

/-- The form of an instruction on a bound table of d dimensions and 2L features (25 R297). -/
def hencForm (f : F64) (t : HashTable) : Form :=
  { (Instr.form (.henc f)) with d := .run (2 * t.levels.length) 1, a := .run t.dims 1 }
def hgradForm (f : F64) (t : HashTable) : Form :=
  { (Instr.form (.hgrad f)) with a := .run t.dims 1, b := .run (2 * t.levels.length) 1 }

/-- The table bound to a slot of a crew's team on its core. -/
def Bound (s : State) (is : Issue) (c : Crew) (n : Nat) (t : HashTable) : Prop :=
  ∃ x, s.tctxs.get (c.team * 256 + coreOf is.crew) = some x ∧ x.tables.get n = some t

/-- No table is bound there. -/
def Unbound (s : State) (is : Issue) (c : Crew) (n : Nat) : Prop :=
  ∀ x, s.tctxs.get (c.team * 256 + coreOf is.crew) = some x → x.tables.get n = none

/-- Feature k of entry e of a level whose table can be read (25 R295): the BF16 widened. -/
def feature (s : State) (team : Nat) (l : HashLevel) (e k : Nat) : Word :=
  match scratchAt s team (l.feat + 4 * e) 4 with
  | some a => (wordOfBytes 2 (s.mem.scratchBytes (a + 2 * k) 2) ++ 0#16).setWidth 32
  | none => 0#32

/-- A coordinate brought into [0, 1] (25 R297). -/
def unitOf (x : Word) : Rat :=
  if isNan x || (num32 x).isNeg then 0 else if (num32 x).isInf || decide (1 < exact x) then 1 else exact x

/-- A coordinate scaled to a resolution, its cell, and what is left of it, all of 25 R297. -/
def scaledTo (n : Nat) (x : Word) : Rat := exact (nearest (unitOf x * n))
def cellIn (n : Nat) (x : Word) : Nat := min (scaledTo n x).floor.toNat (n - 1)
def restIn (n : Nat) (x : Word) : Word := nearest (scaledTo n x - cellIn n x)

/-- Corner k of a point in a level: its entry, by its coordinates where the level is dense and else by their hash, and its
weight (25 R295, R297). -/
def cornerAt (l : HashLevel) (d : Nat) (xs : List Word) (k : Nat) : Nat × Word :=
  let c (j : Nat) : Nat := if j < d then cellIn l.n (w xs j) + k / 2 ^ j % 2 else 0
  let entry : Nat :=
    if (l.n + 1) ^ d ≤ 2 ^ l.logT then c 0 + c 1 * (l.n + 1) + c 2 * (l.n + 1) ^ 2
    else (c 0 ^^^ (c 1 * 0xA3C59AC3 % 2 ^ 32) ^^^ (c 2 * 0x5E2D58D9 % 2 ^ 32)) % 2 ^ l.logT
  (entry, (List.range d).foldl (fun wt j =>
    let part := if k / 2 ^ j % 2 = 1 then restIn l.n (w xs j) else nearest (1 - exact (restIn l.n (w xs j)))
    nearest (exact wt * exact part)) 0x3F800000#32)

/-- The cluster window holds n bytes from an address (11 R130). -/
def InWindow (a n : Nat) : Prop := 0x01000000 ≤ a ∧ a + n ≤ 0x01800000

/-- Level entry l of a table description is invalid (25 R295, R296). -/
def LevelBad (bs : List Byte) (l : Nat) : Prop :=
  let o := 16 + 16 * l
  let at' (k n : Nat) : Nat := (wordOfBytes n (bs.drop (o + k))).toNat
  at' 0 2 = 0 ∨ at' 2 1 = 0 ∨ 19 < at' 2 1 ∨ 1 < at' 3 1 ∨ at' 4 4 % 4 ≠ 0 ∨ ¬ InWindow (at' 4 4) (4 * 2 ^ at' 2 1) ∨
    at' 8 8 % 8 ≠ 0 ∨ (at' 3 1 = 0 ∧ ¬ (at' 12 4 = 0 ∧ InWindow (at' 8 4) (8 * 2 ^ at' 2 1)))

/-- The contributions of lanes in ascending order, each lane's in order (25 R298): none where one is barred. -/
def scatterInTurn (key ctx team : Nat) (t : HashTable) : List Part1 → State → Option State
  | [], s => some s
  | p :: ps, s =>
    match scatterLane s key p.l ctx team (contributions t p.a p.b) with
    | .ok s' => scatterInTurn key ctx team t ps s'
    | .error _ => none

end Sys2Proof.Claim

/-- 25 R295 to R298: which descriptions are invalid, and the fields of a sound one; the corners of a point in a level, dense
or hashed, with their weights; and the contributions of a lane, by level, corner and feature. -/
def Sys2Proof.Claim.TablesAndCornersFollowTheirDescription : Prop :=
  (∀ bs : List Byte, 16 + 16 * (byteAt bs 0 % 16 + 1) ≤ bs.length →
    (hashBad bs = true ↔ 32 ≤ byteAt bs 0 ∨ (∃ o, 1 ≤ o ∧ o < 16 ∧ byteAt bs o ≠ 0) ∨ ∃ l, l ≤ byteAt bs 0 % 16 ∧ LevelBad bs l) ∧
    (HashTable.parse bs).dims = (if byteAt bs 0 / 16 % 2 = 1 then 3 else 2) ∧
    (HashTable.parse bs).levels = (List.range (byteAt bs 0 % 16 + 1)).map fun l =>
      let at' (k n : Nat) : Nat := (wordOfBytes n (bs.drop (16 + 16 * l + k))).toNat
      { n := at' 0 2, logT := at' 2 1 % 32, gv := decide (at' 3 1 % 2 = 1), feat := at' 4 4, grad := at' 8 8 }) ∧
  (∀ (l : HashLevel) d xs, (d = 2 ∨ d = 3) → 1 ≤ l.n → l.n ≤ 65535 →
    cornersOf l d xs = (List.range (2 ^ d)).map (cornerAt l d xs)) ∧
  (∀ (t : HashTable) xs gs, contributions t xs gs = (List.range t.levels.length).flatMap fun lev =>
    ((t.levels[lev]?).map fun l => (cornersOf l t.dims xs).flatMap fun e => (List.range 2).map fun k =>
      (l, l.grad + 8 * e.1 + 4 * k, (productOf e.2 (w gs (2 * lev + k))).1)).getD [])

/-- 25 R299: in a launch with DET = 1 an HGRAD whose key is not the lowest outstanding one on its core does not issue, and its
crew waits; the lowest one of team index, number of HGRADs issued and crew index, where no team of the launch is saved and no
formed crew waits for its slot. An HGRAD that its registers bar is counted too. -/
def Sys2Proof.Claim.GradientsWaitForTheirTurn : Prop :=
  (∀ (f : F64) s is c t r, Bound s is c (f.mod.toNat % 4) t → ReadyAs (.hgrad f) (hgradForm f t) s is c →
    recordOf s c = some r → r.det = true → (∀ l ∈ t.levels, l.gv = true) → is.lanes = maskOf c.liveLanes → c.regrouped = false →
    hgradTurn s is.crew c = false →
    exec (.hgrad f) s = .next (s.setCrews (s.crews.modify is.crew fun c =>
      { c with waitSince := some (c.waitSince.getD s.clock) }))) ∧
  (∀ (f : F64) s is c t k, Bound s is c (f.mod.toNat % 4) t → s.cur = some is → s.crews.get is.crew = some c →
    groupBar (.hgrad f) (hgradForm f t) is c = some k → OneGroup is c → CanEnter s is c →
    AllRaise (.hgrad f) s is { c with hgrads := c.hgrads + 1 } k 0) ∧
  (∀ (s : State) key c x, s.teams.get c.team = some x → (∀ e ∈ s.disp.contexts, e.2.saved = []) →
    (s.core (coreOf key)).formed = [] →
    (hgradTurn s key c = true ↔ ∀ e ∈ s.crews, coreOf e.1 = coreOf key → e.1 ≠ key → e.2.liveLanes ≠ [] →
      ∀ y, s.teams.get e.2.team = some y → y.launch = x.launch →
        if y.index = x.index then (if e.2.index < c.index then c.hgrads < e.2.hgrads else c.hgrads ≤ e.2.hgrads)
        else x.index < y.index))

/-- 25 R295 to R299: HTAB reads a description's header and the entries of its levels, binds a sound one to its slot and raises
0x0CA for another; HENC gives every lane the features of all levels at its point and HGRAD makes the lanes' contributions in
order; both raise 0x0C5 on an unbound slot, and a launch with DET = 1 makes HGRAD obey its rules and wait for its turn. -/
def Sys2Proof.Claim.TrowelInstructionsComplete : Prop :=
  (∀ (f : F64) s is c p s0 head ls0 pa0 s1 bs ls pa x, Ready (.htab f) s is c → (parts (.htab f) is c).head? = some p →
    threadLoad s is.crew (ctxOf s c) (pairOf p.a).toNat 16 16 false = (s0, .bytes head ls0 pa0) →
    threadLoad s0 is.crew (ctxOf s c) (pairOf p.a).toNat (16 + 16 * ((head.getD 0 0).toNat % 16 + 1)) 16 false =
      (s1, .bytes bs ls pa) →
    s1.tctxs.get (c.team * 256 + coreOf is.crew) = some x →
    (hashBad bs = false → Leaves (.htab f) s is c
      (s1.setTctx c.team (coreOf is.crew) { x with tables := x.tables.set (f.mod.toNat % 4) (HashTable.parse bs) })) ∧
    (hashBad bs = true → OneGroup is c → CanEnter s is c → AllRaiseIn (.htab f) s is c s1 0x0CA 0)) ∧
  (∀ (f : F64) s is c t, Bound s is c (f.mod.toNat % 4) t → ReadyAs (.henc f) (hencForm f t) s is c →
    (∀ l ∈ lanesOf is.lanes, ∃ ws, encodeLane s c.team t ((partAt (hencForm f t) (Instr.fields (.henc f)) c l).a) = .ok ws) →
    GivesAs (hencForm f t) (.henc f) s is c s c (onward is) fun p =>
      (match encodeLane s c.team t p.a with | .ok ws => ws | .error _ => [], 0)) ∧
  (∀ s team (t : HashTable) xs, (∀ g, inFootprint s team g = false) →
    (∀ l ∈ t.levels, ∀ e ∈ cornersOf l t.dims xs, ∃ a, scratchAt s team (l.feat + 4 * e.1) 4 = some a ∧
      s.mem.scratchPoisoned a 4 = false) →
    encodeLane s team t xs = .ok (t.levels.flatMap fun l => (List.range 2).map fun k =>
      (cornersOf l t.dims xs).foldl (fun o e => (ffma e.2 (feature s team l e.1 k) o).1) 0#32)) ∧
  (∀ (f : F64) s is c, Unbound s is c (f.mod.toNat % 4) → OneGroup is c → CanEnter s is c →
    (ReadyAs (.henc f) { (Instr.form (.henc f)) with a := .raw } s is c → AllRaise (.henc f) s is c 0x0C5 0) ∧
    (ReadyAs (.hgrad f) { (Instr.form (.hgrad f)) with a := .raw, b := .raw } s is c →
      AllRaise (.hgrad f) s is { c with hgrads := c.hgrads + 1 } 0x0C5 0)) ∧
  (∀ (f : F64) s is c t r, Bound s is c (f.mod.toNat % 4) t → ReadyAs (.hgrad f) (hgradForm f t) s is c →
    recordOf s c = some r →
    let all := t.levels.all HashLevel.gv && is.lanes == maskOf c.liveLanes && !c.regrouped
    (r.det = false ∨ (all = true ∧ hgradTurn s is.crew c = true) →
      ∀ s', scatterInTurn is.crew (ctxOf s c) c.team t (partsAs (hgradForm f t) (.hgrad f) is c)
          (s.setCrews (s.crews.modify is.crew fun c => { c with hgrads := c.hgrads + 1 })) = some s' →
        LeavesAs (hgradForm f t) (.hgrad f) s is c s') ∧
    (r.det = true → all = false → OneGroup is c → CanEnter s is c →
      AllRaise (.hgrad f) s is { c with hgrads := c.hgrads + 1 } 0x0CA 0)) ∧
  (∀ s key lane ctx team (l : HashLevel) ea p k, l.gv = false → MemGood s.mem → scratchAt s team ea 4 = some k →
    s.mem.scratchPoisoned k 4 = false → (∀ g, inFootprint s team g = false) →
    ∃ s', contribute s key lane ctx team (l, ea, p) = .ok s' ∧ ∀ a, s'.mem.scratchByte a =
      if k ≤ a ∧ a < k + 4 then
        ((sumOf (wordOfBytes 4 (s.mem.scratchBytes k 4)) p).1).extractLsb' (8 * (a - k)) 8
      else s.mem.scratchByte a)

/-- 25 R295 to R299: what HTAB, HENC and HGRAD do, which descriptions are sound, where the corners of a point lie, and when an
HGRAD of a launch with DET = 1 waits. -/
def Obligations.TrowelBindsEncodesAndScatters : Prop :=
  Claim.TrowelInstructionsComplete ∧ Claim.TablesAndCornersFollowTheirDescription ∧ Claim.GradientsWaitForTheirTurn

namespace Sys2Proof.Claim

open Sys2Proof.Machine

/-- A version block's bytes with one word replaced, from the words of the old ones (25 R300). -/
def blockWith (old : List Byte) (k : Nat) (v : Word) : List Byte := ((byteWords old).set k v).flatMap (bytesOfWord 4)

/-- CUR of a version block. -/
def curOf (old : List Byte) : Nat := (w (byteWords old) 0).toNat % 2

/-- A block with one reader more of buffer CUR, if the count has room (25 R301). -/
def pinnedBlock (old : List Byte) : Option (List Byte) :=
  let rd := w (byteWords old) (2 + curOf old)
  if rd = 0xFFFFFFFF#32 then none else some (blockWith old (2 + curOf old) (rd + 1))

/-- A block with one reader less of a buffer, if it has one (25 R301). -/
def unpinnedBlock (b : Nat) (old : List Byte) : Option (List Byte) :=
  let rd := w (byteWords old) (2 + b)
  if rd = 0#32 then none else some (blockWith old (2 + b) (rd - 1))

/-- A block with CUR flipped and GEN raised (25 R302). -/
def flippedBlock (old : List Byte) : List Byte := blockWith old 0 ((w (byteWords old) 0 + 2#32) ^^^ 1#32)

/-- The line signatures of the accesses of a list, taken or carried in order. -/
def overAccesses (g : State → Nat → State) (es : List (Nat × Got)) (s : State) : State :=
  es.foldl (fun s e => match e.2 with | .bytes _ _ pa => g s pa | _ => s) s

end Sys2Proof.Claim

/-- 25 R300 to R302: VPIN counts a reader of buffer CUR and gives word 0, VUNPIN counts one off, VPUB flips CUR and raises
GEN, each one 16-byte atomic; a count at its limit raises 0x0CB. VDRAIN goes on when the other buffer has no reader and
sleeps while it has one. -/
def Sys2Proof.Claim.VersionBlocksCountTheirReaders : Prop :=
  let at' (p : Part1) : Nat := (pairOf p.a).toNat
  (∀ (f : F64) s is c, Ready (.vpin f) s is c → is.lanes ≠ 0#32 →
    let r := inTurn (fun s p => threadAtomic s is.crew (ctxOf s c) (at' p) 16 pinnedBlock) (parts (.vpin f) is c) s
    AllPerformed r.2 →
    ((∀ l ∈ lanesOf is.lanes, pinnedBlock (bytesOf r.2 l) ≠ none) →
      Replies (.vpin f) s is c (overAccesses (fun s pa => acquireAt s is.crew 5 pa) r.2 r.1)
        fun l => [w (byteWords (bytesOf r.2 l)) 0]) ∧
    ((∀ l ∈ lanesOf is.lanes, pinnedBlock (bytesOf r.2 l) = none) → OneGroup is c → CanEnter s is c →
      AllRaiseIn (.vpin f) s is c r.1 0x0CB 0)) ∧
  (∀ (f : F64) s is c, Ready (.vunpin f) s is c → is.lanes ≠ 0#32 →
    let run := inTurn (fun s1 p => threadAtomic s1 is.crew (ctxOf s c) (at' p) 16 (unpinnedBlock ((w p.b 0).toNat % 2)))
      (parts (.vunpin f) is c)
    let r := run (releaseAt s is.crew 5)
    AllPerformed r.2 →
    (∃ p ∈ parts (.vunpin f) is c, unpinnedBlock ((w p.b 0).toNat % 2) (bytesOf (run s).2 p.l) ≠ none) →
    (∀ p ∈ parts (.vunpin f) is c, unpinnedBlock ((w p.b 0).toNat % 2) (bytesOf r.2 p.l) ≠ none) →
    Leaves (.vunpin f) s is c (overAccesses (fun s1 pa => carry s1 (releaseSig s is.crew 5 (lanesOf is.lanes)) pa) r.2 r.1)) ∧
  (∀ (f : F64) s is c p s1 old ls pa, Ready (.vpub f) s is c → (parts (.vpub f) is c).head? = some p →
    threadAtomic (releaseAt s is.crew 5) is.crew (ctxOf s c) (at' p) 16 (fun b => some (flippedBlock b)) =
      (s1, .bytes old ls pa) →
    (∃ bs ls, (threadAtomic s is.crew (ctxOf s c) (at' p) 16 (fun b => some (flippedBlock b))).2 = .bytes bs ls pa) →
    Leaves (.vpub f) s is c (carry s1 (releaseSig s is.crew 5 (lanesOf is.lanes)) pa)) ∧
  (∀ (f : F64) s is c p s1 bs ls pa, Ready (.vdrain f) s is c → (parts (.vdrain f) is c).head? = some p →
    threadAtomic s is.crew (ctxOf s c) (at' p) 16 (fun _ => none) = (s1, .bytes bs ls pa) →
    let s' := acquireAt s1 is.crew 5 pa
    ∃ c', s'.crews.get is.crew = some c' ∧
      (w (byteWords bs) (3 - curOf bs) = 0#32 → Leaves (.vdrain f) s is c s') ∧
      (w (byteWords bs) (3 - curOf bs) ≠ 0#32 → SleepsIn (.vdrain f) s is c s' c' (.vdrain (at' p) bs s.clock)))

/-- 03 R38 with 25 R303 and R304: FRAME gives each budgeted queue of the context its load plus what it is short of; METER
gives the budget of the team's queue or of the queue it names, and raises 0x0CC for a queue whose context is another's. -/
def Sys2Proof.Claim.FrameAndMeterFollowTheBudget : Prop :=
  (∀ (f : F64) s is c, Ready (.frame f) s is c → is.lanes ≠ 0#32 →
    Leaves (.frame f) s is c (s.setDisp { s.disp with queues := s.disp.queues.map fun e =>
      (e.1, if e.2.cls = 3 ∧ e.2.budget = true ∧ e.2.ctx.toNat = ctxOf s c then
          { e.2 with brem := e.2.bload + (if e.2.brem.toInt < 0 then e.2.brem else 0) }
        else e.2) })) ∧
  (∀ (f : F64) s is c r, Ready (.meter f) s is c → recordOf s c = some r →
    let n := if f.mod.getLsbD 6 then f.mod.toNat % 64 else r.jobq.toNat
    ((s.queue n).ctx.toNat = ctxOf s c →
      Gives (.meter f) s is c s c (onward is) fun _ => (pairWords (s.queue n).brem, 0)) ∧
    ((s.queue n).ctx.toNat ≠ ctxOf s c → OneGroup is c → CanEnter s is c →
      AllRaise (.meter f) s is c 0x0CC 0))

/-- Version blocks count their readers, FRAME grants budgets and METER reads one. -/
def Obligations.VersionsAndBudgetsCountTheirReaders : Prop :=
  Claim.VersionBlocksCountTheirReaders ∧ Claim.FrameAndMeterFollowTheBudget

/-! ## Teams, launches and contexts (chapters 03 and 27) -/

namespace Sys2Proof.Claim

open Sys2Proof.Machine

/-- The event: exec answers this next state. -/
abbrev Happens (i : Instr) (s t : State) : Prop := exec i s = .next t

/-- Nothing of memory, crews and cores changes. -/
def WorkKept (s t : State) : Prop := t.mem = s.mem ∧ t.crews = s.crews ∧ t.cores = s.cores ∧ t.near = s.near

/-- The state in which the stores of the given cores have been written to their homes (03 R43, R50). -/
def written (s : State) (cores : List Nat) : State :=
  cores.foldl (fun s c =>
    let s := sendEntries s c fun e => !e.stores.isEmpty
    s.setMem (s.mem.flushL1 c fun _ => true)) s

/-- A partition has registers and a slot for a crew of g registers beside the crews given: partition, slot and registers of
each (03 R27). -/
def HasRoom (used : List (Nat × Nat × Nat)) (g part : Nat) : Prop :=
  g + ((used.filter fun e => e.1 = part).map fun e => e.2.2).sum ≤ 1024 ∧
    ∃ n, n < 32 ∧ ∀ e ∈ used, e.1 = part → e.2.1 ≠ n

/-- The crews on a core and the first j crews of a share at their places. -/
def takenBy (s : State) (core : Nat) (share ps : List (Nat × Nat)) (j : Nat) : List (Nat × Nat × Nat) :=
  usedSlots s core ++ (List.range j).map fun i =>
    ((ps.getD i (0, 0)).1, (ps.getD i (0, 0)).2, (share.getD i (0, 0)).2)

/-- A crew of a partition of a core. -/
def Mine (s : State) (core part key : Nat) (c : Crew) : Prop :=
  s.crews.get key = some c ∧ coreOf key = core ∧ partOf key = part

end Sys2Proof.Claim

/-- 03 R33, R35 and R38: every 4,096 clocks a core's charges are subtracted from their queues' budgets, those of the clocks its
Millstone has worked so far among them; a write of JQBLOAD sets the budget too; a write of SRHEAD moves the head or, beyond
the ring, sets OVERRUN and disables it, and no entry of that write is read; the dispatcher takes a readable record and
advances the tail, and an unreadable one sets RDFAULT. -/
def Obligations.DispatcherRegistersAndRingsMove : Prop :=
  (∀ s core, core ∈ reportsDue s → (s.core core).commands = [] → Map.sorted (s.core core).charges = true →
    ∃ t, Happens (.chargeReport core) s t ∧ t.mem = s.mem ∧ t.crews = s.crews ∧
      (∀ c, t.core c = if c = core then
          { s.core c with
            charges := [], lastReport := s.clock - (s.clock - (s.core c).lastReport) % 4096 }
        else s.core c) ∧
      ∀ q, (t.queue q).brem = (s.queue q).brem - BitVec.ofNat 64 (((s.core core).charges.get q).getD 0) ∧
        (t.queue q).bload = (s.queue q).bload) ∧
  (∀ s core x l, core ∈ reportsDue s → Map.sorted (s.core core).charges = true → headCommand s core 3 = some x →
    s.launchOf x.team = some l →
    let worked := min (millWork s core x).clocks (s.clock - x.till)
    ∃ t, Happens (.chargeReport core) s t ∧ (t.core core).charges = [] ∧
      (∀ y ∈ (t.core core).commands, y.serial = x.serial → worked ≤ y.charged) ∧
      ∀ q, (t.queue q).brem = (s.queue q).brem - BitVec.ofNat 64 ((((s.core core).charges.get q).getD 0) +
        if q = l.record.jobq.toNat then worked - x.charged else 0)) ∧
  (∀ s q v, q < 64 → s.sys.ready = true → ∃ t, Happens (.jqbloadWrite q v) s t ∧ WorkKept s t ∧
    ∀ n, t.queue n = if n = q then { s.queue q with bload := v, brem := v } else s.queue n) ∧
  (∀ s ring (v : Word), ring < 16 → s.sys.ready = true →
    let r := s.subRing ring
    ∃ t, Happens (.srheadWrite ring v) s t ∧ t.crews = s.crews ∧ (t.subRing ring).head = v ∧
      (t.subRing ring).tail = r.tail ∧
      ((v - r.tail).toNat ≤ 2 ^ ringLog r.log.toNat → t.subRing ring = { r with head := v, barred := false }) ∧
      (2 ^ ringLog r.log.toNat < (v - r.tail).toNat → t.subRing ring =
        { r with head := v, overrun := true, en := false, barred := true })) ∧
  (∀ s ring, (s.subRing ring).barred = true →
    exec (.ringEntryRead ring) s = .refused (.notEnabled "RING_ENTRY_READ")) ∧
  (∀ s ring bs s', ring < 16 →
    let r := s.subRing ring
    let ea := canonical (r.base + BitVec.ofNat 57 (128 * (r.tail.toNat % 2 ^ ringLog r.log.toNat)))
    r.en = true → r.barred = false → s.sys.ready = true → r.head ≠ r.tail → engineRead s 256 r.ctx.toNat ea 128 = .ok bs false →
    takeRecord s (.ring ring) r.ctx.toNat bs = .taken s' →
    ∃ t, Happens (.ringEntryRead ring) s t ∧ (t.subRing ring).tail = r.tail + 1 ∧ t.launches = s'.launches ∧
      t.disp.queues = s'.disp.queues) ∧
  (∀ s ring cause, ring < 16 →
    let r := s.subRing ring
    let ea := canonical (r.base + BitVec.ofNat 57 (128 * (r.tail.toNat % 2 ^ ringLog r.log.toNat)))
    r.en = true → r.barred = false → s.sys.ready = true → r.head ≠ r.tail → engineRead s 256 r.ctx.toNat ea 128 = .bad cause →
    ∃ t, Happens (.ringEntryRead ring) s t ∧ t.subRing ring = { r with rdfault := true, en := false } ∧
      t.launches = s.launches)

/-- 03 R29, R32, R36, R37 and R43 with R53: the served queue's next team is placed on cores that have room, its launch counts
it, and each of its crews stands in the slot found for it with the state R32 gives it, active or in the ready queue (R39);
the crews of a share take partitions by their rank; a crew starts at the entry with its stacks and constants; a team whose
threads and commands are over sets its bit of the bitmap and retires, and no context of it is left. The model's choices: the lowest
free slot of a partition, log 48; a team that still holds tiles or the Millstone retires too, log 84. -/
def Sys2Proof.Claim.TeamsArePlacedAndRetire : Prop :=
  (∀ s q cores id l consts rooms, nextLaunch s q = some (id, l) → mayStart s q l.ctx = true →
    teamReads s id l = .ready consts → servedQueue s = some q →
    (l.record.det = true → cores = detCores l.record l.next) → fits s l.record cores = some rooms →
    ∃ t x, Happens (.teamPlacement q cores) s t ∧ t.teams.get s.serial = some x ∧ x.launch = id ∧ x.index = l.next ∧
      x.ctx = l.ctx ∧ x.cores = cores ∧ x.barGen = 0#32 ∧
      t.launches.get id = some { l with next := l.next + 1, placed := decide (l.next + 1 = l.record.teams.toNat + 1) } ∧
      (∀ n, n ≠ s.serial → t.teams.get n = s.teams.get n) ∧ t.mem = s.mem ∧ t.near = s.near ∧
      (∀ c ∈ cores, ∃ y, t.tctxs.get (s.serial * 256 + c) = some y ∧ y.joints = [] ∧ y.slots = [] ∧ y.index = none) ∧
      (∀ k o ps j, k < cores.length → rooms[k]? = some (o, ps) → j < ps.length →
        let place := ps.getD j (0, 0)
        ∃ a r, t.crews.get (crewKey (cores.getD k 0) place.1 place.2) =
          some { startCrew s.clock l.record s.serial l.next
              (k * ((l.record.crews.toNat + 1) / (l.record.cores.toNat + 1)) + j) consts with active := a, ready := r } ∧
          (a = false ↔ r.isSome = true)) ∧
      ∀ key d, t.crews.get key = some d → d.team ≠ s.serial → s.crews.get key = some d) ∧
  (∀ s core n det share o ps, roomOn s core n det share = some (o, ps) →
    ps.length = share.length ∧ ∀ j, j < ps.length →
      let k := (share.getD j (0, 0)).1
      let g := (share.getD j (0, 0)).2
      let part := (ps.getD j (0, 0)).1
      let slot := (ps.getD j (0, 0)).2
      let used := takenBy s core share ps j
      HasRoom used g part ∧ slot < 32 ∧ (∀ e ∈ used, e.1 = part → e.2.1 ≠ slot) ∧
        (∀ m, m < slot → ∃ e ∈ used, e.1 = part ∧ e.2.1 = m) ∧ (det = true → part = k % 6) ∧
        ∃ i, i < 6 ∧ part = (k + i) % 6 ∧ ∀ i', i' < i → ¬ HasRoom used g ((k + i') % 6)) ∧
  (∀ clock (r : LaunchRecord) team index crew (consts : List Word) l, l < 32 →
    let c := startCrew clock r team index crew consts
    let t := c.thread l
    t.pc = r.entry ∧ t.wait = .awake ∧ t.handler = false ∧ t.stack = [] ∧ t.tlsp = 0#32 ∧
    t.tlbase = r.tlarea + BitVec.ofNat 57 (((index * (r.crews.toNat + 1) + crew) * 32 + l) * r.tlsize.toNat) ∧
    c.stallchk = r.chk ∧ c.fflags = 0#5 ∧ c.index = crew ∧ c.nregs = 8 * (r.regs.toNat + 1) ∧
    (∀ n, c.isLive n l = false) ∧ (∀ n, n < consts.length → c.greg n = consts.getD n 0#32)) ∧
  (∀ s team t l s2, s.teams.get team = some t → s.launches.get t.launch = some l → t.saving = false →
    threadsOver s team = true → commandsOver s team = true → Map.sorted s.teams = true → Map.sorted s.tctxs = true →
    markBitmap (written s t.cores) team t.ctx t.index l.record.bitmap = .set s2 →
    ∃ u, Happens (.teamRetire team) s u ∧ u.teams.get team = none ∧ (∀ n, n ≠ team → u.teams.get n = s.teams.get n) ∧
      ∀ c ∈ t.cores, u.tctxs.get (team * 256 + c) = none) ∧
  (∀ s team ctx index (bitmap : Addr) bs s1 xs ls pa,
    let ea := canonical (bitmap + BitVec.ofNat 57 (8 * (index / 64)))
    engineRead s 256 ctx ea 8 = .ok bs false →
    engineWrite s (.team team) 256 ctx ea (bytesOfWord 8 (wordOfBytes 8 bs ||| (1#64 <<< (index % 64)))) =
      (s1, .bytes xs ls pa) →
    ∃ x, markBitmap s team ctx index bitmap = .set (carry s1 x pa))

/-- 03 R39, R40 and R48 with 03 R22: a crew that stops waiting enters the ready queue after those that stopped earlier, in
slot order; a due swap brings the head of the ready queue into the active set and takes the chosen crew out: the one that
has waited longest, or after 64 clocks the one whose latest grant is oldest, or none while there is room; the oldest crew
formed by a core's regroup table starts with its payloads' PCs. The 64 clocks are those after the latest swap's clock, as in
the swap sequence of 04; that the conditions count in that order is the model's choice (log 15). -/
def Sys2Proof.Claim.CrewsEnterTheActiveSet : Prop :=
  (∀ s k c, Map.sorted s.crews = true → s.crews.get k = some c →
    ∃ d, (refreshWaits s).crews.get k = some d ∧
      d.ready = if c.active = true ∨ isWaiting s k c = true then none else some (c.ready.getD (4096 * s.clock + k % 32))) ∧
  (∀ s core part o new, Map.sorted s.crews = true → swapOf s core part = some (o, new) →
    let since (c : Crew) : Option Nat := leaveSince s.clock c
    let still : Prop := ∀ k d, Mine s core part k d → d.active = true → since d = none
    (∃ c n, Mine s core part new c ∧ c.ready = some n ∧ ∀ k d m, Mine s core part k d → d.ready = some m → n ≤ m) ∧
    (∀ old, o = some old → ∃ c, Mine s core part old c ∧ c.active = true ∧
      ((∃ n, since c = some n ∧ ∀ k d m, Mine s core part k d → d.active = true → since d = some m → n ≤ m) ∨
       (still ∧ ((s.core core).part part).lastSwap + 64 ≤ s.clock ∧
         ∀ k d, Mine s core part k d → d.active = true → c.lastGrant ≤ d.lastGrant))) ∧
    (o = none → still ∧
      (s.crews.filter fun e => coreOf e.1 = core && partOf e.1 = part && e.2.active).length < 8)) ∧
  (∀ s core part, Map.sorted s.crews = true → (∃ k c, Mine s core part k c ∧ c.ready.isSome = true) →
    ((∃ k c, Mine s core part k c ∧ c.active = true ∧ (leaveSince s.clock c).isSome = true) ∨
      ((s.core core).part part).lastSwap + 64 ≤ s.clock ∨
      (s.crews.filter fun e => coreOf e.1 = core && partOf e.1 = part && e.2.active).length < 8) →
    swapOf s core part ≠ none) ∧
  (∀ s core part o new c,
    let s1 := refreshWaits s
    swapOf s1 core part = some (o, new) → ((s1.core core).part part).doneSwap ≤ s.clock →
    s1.crews.get new = some c → (∀ old, o = some old → old ≠ new ∧ ∃ d, s1.crews.get old = some d) →
    ∃ t d, Happens (.swap core part) s t ∧ t.crews.get new = some d ∧ d.active = true ∧ d.ready = none ∧
      s.clock + 1 ≤ d.stallTill ∧ (∀ l, d.thread l = c.thread l) ∧ d.regs = c.regs ∧ t.mem = s.mem ∧
      (∀ old, o = some old → ∃ e, t.crews.get old = some e ∧ e.active = false)) ∧
  (∀ s core f part slot, core < 256 → (∀ k, k < core → (s.core k).formed = []) →
    formedRoom s core = some (f, part, slot) → f.payloads ≠ [] →
    ∃ t d, Happens .regroupSpawn s t ∧ t.crews.get (core * 192 + part * 32 + slot) = some d ∧ d.team = f.team ∧
      d.regrouped = true ∧ (t.core core).formed = (s.core core).formed.erase f ∧ t.mem = s.mem ∧
      ∀ l, l < 32 → match f.payloads[l]? with
        | some p => (d.thread l).pc = p.pc ∧ (d.thread l).wait = .awake ∧ (d.thread l).tlbase = p.tlbase
        | none => (d.thread l).live = false)

/-- Teams are placed with their crews, crews enter the active set, and teams retire. -/
def Obligations.TeamsArePlacedRunAndRetire : Prop :=
  Claim.TeamsArePlacedAndRetire ∧ Claim.CrewsEnterTheActiveSet

/-- 03 R49 to R52 and R54 with 27 R322 to R324: PREEMPT of a context with no resident team stops it at once, and with
teams it starts the deadline; a saved team leaves the machine with its image; RESUME clears STOPPED; a restored team is
resident again, its crews in the partitions that their indices give them (log 93), as they were saved but for their signatures, which are all
ones (the model's choice that 11 R153 allows, log 83), and for the clocks of their sleeps; an expired deadline, or a PREEMPT
with CTXDL = 0, resets the context: its teams and images are gone, its queues are faulted, and its launches end with RESET; a
physical core passes to another logical core. -/
def Sys2Proof.Claim.ContextsStopSaveAndResume : Prop :=
  (∀ s ctx, ctx < 16 → s.sys.ready = true → (s.context ctx).dl ≠ 0#32 →
    ((∀ e ∈ s.teams, e.2.ctx ≠ ctx) →
      ∃ t, Happens (.preempt ctx) s t ∧ (t.context ctx).stopped = true ∧ (t.context ctx).preempt = false ∧
        t.crews = s.crews ∧ t.teams = s.teams) ∧
    ((∃ e ∈ s.teams, e.2.ctx = ctx) →
      ∃ t, Happens (.preempt ctx) s t ∧ (t.context ctx).preempt = true ∧
        (t.context ctx).deadline = some (s.clock + 2 * (s.context ctx).dl.toNat) ∧ t.crews = s.crews ∧ t.mem = s.mem)) ∧
  (∀ s team x l ms, s.teams.get team = some x → s.launches.get x.launch = some l → savingTeam s x.ctx = some (team, x) →
    commandsOver s team = true → (∀ e ∈ s.crews, e.2.team = team → e.2.pend = []) → s.near.retrain = [] →
    (∀ e ∈ s.sleepers, ∀ n d, e.2.what ≠ .alloc n d) → Map.sorted s.teams = true → Map.sorted s.crews = true →
    engineMeet (written s x.cores) 256 x.ctx (canonical (BitVec.ofNat 57 (nextImage (s.context x.ctx))))
      (imageSize l.record) = .ok ms →
    ∃ t y, Happens (.teamSaveDone team) s t ∧ t.teams.get team = none ∧ (∀ e ∈ t.crews, e.2.team ≠ team) ∧
      (t.context x.ctx).saved = (s.context x.ctx).saved ++ [y] ∧ y.number = s.serial ∧ y.id = team ∧ y.team = x ∧
      (∀ k c, s.crews.get k = some c → c.team = team → saveCrew s.clock c ∈ y.crews) ∧
      y.addr = nextImage (s.context x.ctx) ∧ y.size = imageSize l.record) ∧
  (∀ s ctx, ctx < 16 → s.sys.ready = true →
    ∃ t, Happens (.resume ctx) s t ∧ (t.context ctx).stopped = false ∧ t.crews = s.crews ∧ t.teams = s.teams ∧
      (t.context ctx).resume = !(s.context ctx).saved.isEmpty) ∧
  (∀ s ctx cores x rest l bs rooms, (s.context ctx).saved = x :: rest → s.launches.get x.team.launch = some l →
    (s.context ctx).resume = true → (s.context ctx).preempt = false → (s.context ctx).stopped = false →
    engineRead s 256 ctx (canonical (BitVec.ofNat 57 x.addr)) x.size = .ok bs false →
    bs = imageBytes x.number x.size x.team.index → (l.record.det = true → cores = x.team.cores) →
    coresOk cores = true → cores.length = x.ranks.length → (∀ e ∈ cores.zip x.ranks, rankFits s l.record.det e.1 e.2 = true) →
    dieFree s (nth cores 0) = true → x.sleeps = [] → (s.context ctx).waiting = [] →
    let share := (l.record.crews.toNat + 1) / (l.record.cores.toNat + 1)
    roomForAll s (1024 * l.record.scratch.toNat) l.record.det ((List.range cores.length).map fun k =>
      (nth cores k, ((x.crews.zip x.places).filter fun e => e.2.1 = k).map fun e => (e.1.index % share, e.1.nregs))) =
        some rooms →
    ∃ t, Happens (.teamRestore ctx cores) s t ∧ (t.context ctx).saved = rest ∧
      t.teams.get x.id = some { x.team with cores := cores, age := s.serial, saving := false } ∧
      ∀ i c o ps, x.crews[i]? = some c →
        let rank := (x.places.getD i (0, 0)).1
        let before := ((List.range i).filter fun j => (x.places.getD j (0, 0)).1 = rank).length
        let place := ps.getD before (0, 0)
        i < x.places.length → rooms[rank]? = some (o, ps) →
        ∃ a r, t.crews.get (crewKey (cores.getD rank 0) place.1 place.2) = some { c with
          threads := c.threads.map fun e =>
            (e.1, match e.2.wait with | .sleep n => { e.2 with wait := .sleep (n + s.clock) } | _ => e.2)
          writeSets := List.replicate 6 (BitVec.allOnes 512), acquired := BitVec.allOnes 512, stallTill := s.clock
          active := a, ready := r }) ∧
  (∀ s n d, n < 16 → (s.context n).preempt = true → (s.context n).deadline = some d → d ≤ s.clock →
    (∀ k, k < n → (s.context k).preempt = false) → Map.sorted s.teams = true →
    ∃ t, Happens .deadlineExpire s t ∧ (t.context n).reset = true ∧ (t.context n).preempt = false ∧
      (t.context n).deadline = none ∧ (t.context n).saved = [] ∧ ∀ e ∈ t.teams, e.2.ctx ≠ n) ∧
  (∀ s n, n < 16 → s.sys.ready = true → (s.context n).dl = 0#32 → Map.sorted s.teams = true →
    ∃ t, Happens (.preempt n) s t ∧ (t.context n).reset = true ∧ (t.context n).preempt = false ∧ (t.context n).deadline = none ∧
      (t.context n).saved = [] ∧ (∀ e ∈ t.teams, e.2.ctx ≠ n) ∧
      ∀ q, q < 64 → (s.queue q).ctx.toNat = n → (t.queue q).fault = true) ∧
  (∀ s n q id l m, n < 16 → s.sys.ready = true → (s.context n).dl = 0#32 → (∀ e ∈ s.teams, e.2.ctx ≠ n) → s.near.engines = [] →
    evFull (s.context n) = true → q < 64 → (s.queue q).ctx.toNat = n → (s.queue q).launches = [id] →
    (∀ k, k ≠ q → (s.queue k).launches = []) → s.launches.get id = some l → l.ctx = n → l.done = false →
    l.record.done.toNat % 8 = 0 → engineMeet s 256 n (canonical l.record.done) 8 = .ok [(m, 8)] → s.sys.target m.pa = .hbm →
    m.pa + 8 ≤ 2 ^ 52 → MemGood s.mem →
    ∃ t, Happens (.preempt n) s t ∧ ∀ k, k < 8 → t.mem.home (m.pa + k) =
      (BitVec.ofNat 64 (0x01 * 2 ^ 56 + 3 * 2 ^ 48 + l.record.seq.toNat)).extractLsb' (8 * k) 8) ∧
  (∀ s p l out, runningOn s.sys p = some out → out ≠ l → serverOf s.sys l = some p → (s.core out).commands = [] →
    ((s.sys.phys.get p).map PhysCore.since).getD 0 + 65536 ≤ s.clock →
    ∃ t, Happens (.logicalCoreSwitch p l) s t ∧ WorkKept s t ∧
      ∃ y, t.sys.phys.get p = some y ∧ y.running = l ∧ y.since = s.clock ∧
        ∀ x, s.sys.phys.get p = some x → y.retired = x.retired ∧ y.retiring = x.retiring)

/-- 27 R316 to R319: a write of CTXRES resumes the threads of the escalation it names, with the value in h11 and past the
HESC, or at the instruction that raised without a handler, or ends them as HKILL does; for a saved team it is held, at most
64 in a context, and one beyond, or one that names no escalation, is ignored; the woken threads acquire, with a signature of
all ones; an escalation that waits for room writes its entry, which names its cause, team, crew, core, threads and PC;
requested link retraining starts when no save streams to its stack, and ends, and the bank sequences it suspended go on. -/
def Sys2Proof.Claim.EscalationsAreResumed : Prop :=
  (∀ s ctx (v : BitVec 64) id sl c, s.sys.ready = true → s.sleepers.find? (fun e =>
      sleeperCtx s e.2 = some ctx && (match e.2.what with
        | .escalated n _ => decide (n = (v.setWidth 32 : Word).toNat)
        | _ => false)) = some (id, sl) → Map.sorted s.sleepers = true → s.crews.get sl.crew = some c →
    (sl.what = .escalated (v.setWidth 32 : Word).toNat false → v.getLsbD 32 = false →
      ∃ t d, Happens (.escalationResume ctx v) s t ∧ t.crews.get sl.crew = some d ∧ t.sleepers.get id = none ∧
        d.acquired = BitVec.allOnes 512 ∧ ∀ l, l < 32 → d.thread l =
          if inMask sl.lanes l ∧ (c.thread l).wait = .op id then
            { c.thread l with
              h := (c.thread l).h.set 11 (s.context ctx).rval, wait := .awake, pc := sl.next, rep := 0 }
          else c.thread l) ∧
    (sl.what = .escalated (v.setWidth 32 : Word).toNat true → v.getLsbD 32 = false → c.lost = false →
      ∃ t d, Happens (.escalationResume ctx v) s t ∧ t.crews.get sl.crew = some d ∧ t.sleepers.get id = none ∧
        d.acquired = BitVec.allOnes 512 ∧ (∀ l, l < 32 → d.thread l =
          if inMask sl.lanes l ∧ (c.thread l).wait = .op id then
            { c.thread l with wait := .awake, handler := false }
          else c.thread l) ∧
        ((∀ l ∈ d.liveLanes, (d.thread l).handler = false) → d.held = [])) ∧
    (v.getLsbD 32 = true → (∃ l, l < 32 ∧ inMask sl.lanes l = true ∧ (c.thread l).wait = .op id) →
      ∃ t, Happens (.escalationResume ctx v) s t ∧ t.sleepers.get id = none ∧
        (∀ d, t.crews.get sl.crew = some d → ∀ l, l < 32 → inMask sl.lanes l = true → (c.thread l).wait = .op id →
          (d.thread l).live = false) ∧
        ((∀ l ∈ c.liveLanes, inMask sl.lanes l = true ∧ (c.thread l).wait = .op id) → t.crews.get sl.crew = none) ∧
        (∀ x, s.teams.get c.team = some x → ∃ y, t.teams.get c.team = some y ∧ y.killed = true))) ∧
  (∀ s ctx (v : BitVec 64), s.sys.ready = true →
    let n := (v.setWidth 32 : Word).toNat
    let cx := s.context ctx
    (∀ e ∈ s.sleepers, ∀ d, e.2.what ≠ .escalated n d) →
    (∃ e ∈ cx.savedSleepers, ∃ d, e.2.what = .escalated n d) → cx.held.length < 64 → (∀ h ∈ cx.held, h.index ≠ n) →
    ∃ t, Happens (.escalationResume ctx v) s t ∧ t.crews = s.crews ∧ t.sleepers = s.sleepers ∧
      (t.context ctx).held = cx.held ++ [{ index := n, kill := v.getLsbD 32, val := cx.rval }]) ∧
  (∀ s ctx (v : BitVec 64), s.sys.ready = true →
    let n := (v.setWidth 32 : Word).toNat
    let cx := s.context ctx
    (∀ e ∈ s.sleepers, ∀ d, e.2.what ≠ .escalated n d) → ((∀ e ∈ cx.savedSleepers, ∀ d, e.2.what ≠ .escalated n d) ∨ 64 ≤ cx.held.length) →
    ∃ t, Happens (.escalationResume ctx v) s t ∧ t.crews = s.crews ∧ t.sleepers = s.sleepers ∧ t.mem = s.mem ∧
      (t.context ctx).held = cx.held) ∧
  (∀ s n id rest sl c l lanes x, n < 16 → (∀ k, k < n → (s.context k).waiting = []) →
    (s.context n).waiting = id :: rest → evFull (s.context n) = false → s.sleepers.get id = some sl →
    s.crews.get sl.crew = some c → lanesOf sl.lanes = l :: lanes → s.teams.get c.team = some x →
    let cx := s.context n
    let log := if 4 ≤ cx.evlog.toNat ∧ cx.evlog.toNat ≤ 12 then cx.evlog.toNat else 4
    let pa := cx.evbase.toNat / 4096 * 4096 + 32 * (cx.evhead.toNat % 2 ^ log)
    let entry := [((c.thread l).h.getD 0 0#32).toNat % 1024 + 4096 + x.index * 2 ^ 32,
      c.index + coreOf sl.crew * 2 ^ 16 + sl.lanes.toNat * 2 ^ 32, (c.thread l).pc.toNat, 0]
    ∃ t y, Happens .escalationEntryWrite s t ∧ (t.context n).waiting = rest ∧ (t.context n).evhead = cx.evhead + 1 ∧
      (s.sys.target pa ≠ .fabric → t.mem = s.mem.writeHome 256 pa (entry.flatMap fun d => bytesOfWord 8 (BitVec.ofNat 64 d))) ∧
      t.sleepers.get id = some y ∧ y.what = .escalated cx.evhead.toNat true ∧ y.crew = sl.crew ∧ y.lanes = sl.lanes ∧
      t.crews = s.crews) ∧
  (∀ s stack, stack < s.sys.stacks → s.near.retrain = [] → s.teams = [] →
    ∃ t, Happens (.hbmRetrainRequest stack) s t ∧ t.near.retrain.get stack = some 2 ∧ t.mem = s.mem ∧ t.crews = s.crews) ∧
  (∀ s k rest, s.near.retrain = (k, 2) :: rest → ∃ t, Happens .hbmRetrainDone s t ∧ t.near.retrain = rest ∧ t.mem = s.mem ∧
    t.near.sequences.length = s.near.sequences.length ∧ ∀ (j : Nat) q, s.near.sequences[j]? = some q →
      t.near.sequences[j]? = some (if q.stack = k then { q with banks := q.banks.map fun b => { b with retrained := false } } else q))

/-- Contexts stop, save, restore, resume and are reset; escalations are resumed. -/
def Obligations.ContextsStopResumeAndEscalate : Prop :=
  Claim.ContextsStopSaveAndResume ∧ Claim.EscalationsAreResumed

/-! ## Sleeps that end, requests, migrations and flushes (chapters 11, 17, 19, 25 and 31) -/

namespace Sys2Proof.Claim

open Sys2Proof.Machine

/-- An address within the page a TLB entry maps (11 R134). -/
def Through (e : TlbEntry) (pa : Nat) : Prop :=
  leafPa e.pte e.log e.base ≤ pa ∧ pa < leafPa e.pte e.log e.base + 2 ^ e.log

/-- No access through an entry that satisfies p is still to be performed: no row of a posted EMBG that a chip has not fetched, no
row of a running bank-unit sequence (11 R137). -/
def NoUseWaits (s : State) (p : TlbEntry → Prop) : Prop :=
  (∀ e ∈ s.cores, ∀ c ∈ e.2.commands, c.result = none → ∀ q, c.plan = some q → ∀ u ∈ q.used, p u.2 → q.chip u.1 ∈ c.listed) ∧
  ∀ q ∈ s.near.sequences, q.finished = false → ∀ u ∈ q.used, ¬ p u

/-- The entries named leave every TLB, and the stores made through them are performed at their homes first (11 R137): what
an L1 holds dirty of their pages goes home, no Sluice holds a line of them, and nothing else of the memory changes. -/
def Invalidates (s t : State) (named : TlbEntry → Prop) : Prop :=
  let hit (pa : Nat) : Prop := ∃ e ∈ s.mem.tlb, named e ∧ Through e pa
  (∀ e, e ∈ t.mem.tlb ↔ e ∈ s.mem.tlb ∧ ¬ named e) ∧ t.mem.ram = s.mem.ram ∧
  (∀ core pa, pa < 2 ^ 52 → hit pa → t.mem.l1.get (l1Key core pa) = none) ∧
  (∀ core pa b, pa < 2 ^ 52 → hit pa → s.mem.l1.get (l1Key core pa) = some b →
    (∀ other, other ≠ core → s.mem.l1.get (l1Key other pa) = none) → t.mem.home pa = b) ∧
  (∀ core pa, pa < 2 ^ 52 → ¬ hit pa →
    t.mem.home pa = s.mem.home pa ∧ t.mem.l1.get (l1Key core pa) = s.mem.l1.get (l1Key core pa)) ∧
  (∀ x, x ∈ t.mem.sluice ↔ x ∈ s.mem.sluice ∧ ¬ hit (128 * x.line)) ∧
  ∀ k c, s.crews.get k = some c → ∃ d, t.crews.get k = some d ∧ d.threads = c.threads ∧ d.regs = c.regs

/-- The done ring of a die's fault unit has room, and what takes its next entry is an entry of four dwords: the virtual page
with the status, the old frame, the PTE's address, and the context with its ASID; the ring's head advances (11 R138). -/
def DoneRoom (s : State) (die : Nat) : Prop :=
  let r := (s.faultUnit die).ring 2
  (r.head - r.tail).toNat < 2 ^ (if 4 ≤ r.log.toNat ∧ r.log.toNat ≤ 12 then r.log.toNat else 4)
structure DoneEntry (s t : State) (die : Nat) (m : Migration) (status : Nat) : Prop where
  head : ((t.faultUnit die).ring 2).head = ((s.faultUnit die).ring 2).head + 1
  entry :
    let r := (s.faultUnit die).ring 2
    let place := r.base.toNat / 4096 * 4096 +
      32 * (r.head.toNat % 2 ^ (if 4 ≤ r.log.toNat ∧ r.log.toNat ≤ 12 then r.log.toNat else 4))
    let ppn := m.old.toNat / 2 ^ 10 % 2 ^ 44
    let dwords : List Nat := [m.va / 4096 * 4096 + status, if m.big then ppn / 16 * 65536 else ppn * 4096, m.pte,
      m.ctx + 2 ^ 16 * m.asid]
    ∀ k, k < 32 → t.mem.home (place + k) = (BitVec.ofNat 64 (dwords.getD (k / 8) 0)).extractLsb' (8 * (k % 8)) 8

/-- The addresses of the PTEs of a migration's page or group (11 R139). -/
def ptesOf (m : Migration) : List Nat := if m.big then (List.range 16).map fun j => m.pte + 8 * j else [m.pte]

/-- Every other migration of a die has its frame, so that none takes one now. -/
def OthersFramed (s : State) (die : Nat) : Prop := ∀ x ∈ (s.faultUnit die).migrations, x.done = none → x.frame ≠ none

/-- No card of the queue STACK waits to be handed to its engine (21 R265). -/
def NoCardWaits (s : State) : Prop :=
  ∀ k, ∀ c ∈ (s.core k).commands, match c.work with | .sjob _ _ _ => False | _ => True

end Sys2Proof.Claim

/-- 17 R215, 19 R232 and 25 R302: an expired SLEEP wakes past its instruction; a WAITBIT lane whose word is read again
acquires at its scope and wakes with it when the bit stands, else keeps it as the word last read, with the clock of the
read, and wakes with that at its limit; a VDRAIN reads its block again with an acquire, and wakes where it shows no reader of the
other buffer. -/
def Sys2Proof.Claim.SleepsEndAsTheirInstructionsSay : Prop :=
  (∀ s k c, s.crews.find? (fun e => e.2.liveLanes.any fun l =>
      match (e.2.thread l).wait with | .sleep till => decide (till ≤ s.clock) | _ => false) = some (k, c) →
    Map.sorted s.crews = true →
    ∃ t d, Happens .sleepExpire s t ∧ t.crews.get k = some d ∧ t.mem = s.mem ∧ OthersKept k s t ∧
      ∀ l, l < 32 → d.thread l =
        match (c.thread l).wait with
        | .sleep till => if till ≤ s.clock ∧ l ∈ c.liveLanes then { c.thread l with wait := .awake, pc := (c.thread l).pc + 4#57 } else c.thread l
        | _ => c.thread l) ∧
  (∀ s id sl c addr bit sense till dst last read sc s1 bs ls pa, s.sleepers.get id = some sl →
    sl.what = .waitbit addr bit sense till dst last read sc → s.crews.get sl.crew = some c → Map.sorted s.sleepers = true →
    threadLoad s sl.crew (ctxOf s c) addr 8 8 false = (s1, .bytes bs ls pa) → bit < 64 →
    let got : BitVec 64 := wordOfBytes 8 bs
    ∃ t d, Happens (.waitbitReread id) s t ∧ t.crews.get sl.crew = some d ∧ t.mem = s1.mem ∧
      (∀ c1, s1.crews.get sl.crew = some c1 → d.acquired = (if 1 ≤ sc then c1.acquire (carriedAt s1 pa) else c1).acquired ∧
        d.know = (if 1 ≤ sc then c1.acquire (carriedAt s1 pa) else c1).know) ∧
      (got.getLsbD bit = sense → t.sleepers.get id = none ∧
        (∀ l, l < 32 → d.thread l = if inMask sl.lanes l ∧ (c.thread l).wait = .op id then
            { c.thread l with wait := .awake, pc := sl.next, rep := 0 } else c.thread l) ∧
        ∃ r, d.pend = c.pend ++ [r] ∧ r.seq = sl.seq ∧ ∀ l, l < 32 → inMask sl.lanes l = true → (c.thread l).wait = .op id →
          r.writes.get (32 * dst + l) = some (got.setWidth 32) ∧ r.writes.get (32 * (dst + 1) + l) = some (highHalf got)) ∧
      (got.getLsbD bit ≠ sense → d.threads = c.threads ∧ d.pend = c.pend ∧
        t.sleepers.get id = some { sl with what := .waitbit addr bit sense till dst got s.clock sc })) ∧
  (∀ s id sl c addr bit sense till dst last read sc, s.sleepers.find? (fun e => match e.2.what with
      | .waitbit _ _ _ (some n) _ _ _ _ => decide (n ≤ s.clock) | _ => false) = some (id, sl) → Map.sorted s.sleepers = true →
    sl.what = .waitbit addr bit sense till dst last read sc → s.crews.get sl.crew = some c →
    ∃ t d r, Happens .waitbitLimit s t ∧ t.crews.get sl.crew = some d ∧ t.sleepers.get id = none ∧ d.pend = c.pend ++ [r] ∧
      (∀ l, l < 32 → d.thread l = if inMask sl.lanes l ∧ (c.thread l).wait = .op id then
          { c.thread l with wait := .awake, pc := sl.next, rep := 0 } else c.thread l) ∧
      ∀ l, l < 32 → inMask sl.lanes l = true → (c.thread l).wait = .op id →
        r.writes.get (32 * dst + l) = some (last.setWidth 32) ∧ r.writes.get (32 * (dst + 1) + l) = some (highHalf last)) ∧
  (∀ s id sl c addr last read s1 bs ls pa, s.sleepers.get id = some sl → sl.what = .vdrain addr last read → s.crews.get sl.crew = some c →
    Map.sorted s.sleepers = true →
    threadAtomic s sl.crew (ctxOf s c) addr 16 (fun _ => none) = (s1, .bytes bs ls pa) →
    ∃ t d, Happens (.vdrainReread id) s t ∧ t.crews.get sl.crew = some d ∧ d.pend = c.pend ∧
      (∀ c1, s1.crews.get sl.crew = some c1 → d.acquired = (c1.acquire (carriedAt s1 pa)).acquired ∧
        d.know = (c1.acquire (carriedAt s1 pa)).know) ∧
      (w (byteWords bs) (3 - curOf bs) = 0#32 → t.sleepers.get id = none ∧
        ∀ l, l < 32 → d.thread l = if inMask sl.lanes l ∧ (c.thread l).wait = .op id then
            { c.thread l with wait := .awake, pc := sl.next, rep := 0 } else c.thread l) ∧
      (w (byteWords bs) (3 - curOf bs) ≠ 0#32 → d.threads = c.threads ∧
        t.sleepers.get id = some { sl with what := .vdrain addr bs s.clock }))

/-- 11 R138 to R142: Sluice sends an entry that is full or 64 clocks old; a write of a free ring's head posts frames; a
migration that ends wakes every thread parked on it where it stands, or, its frame unreadable, raises 0x042 in them with
the address of their access as fault value, and 0x042 anew in those whose HRET waits. No completion word waiting, and no card, it
puts the page's bytes in the frame and the new PTE, valid, accessed, of the frame, with all else of the old, in place of the old
one of each page; its done entry tells page, frame, PTE, context and status, DONE, ABANDONED, POISONED or UNREADABLE, and waits
while its ring has no room. -/
def Obligations.MigrationsMoveTheirPages : Prop :=
  (∀ s core line e, s.mem.sluice.find? (fun e => e.core = core && e.line = line) = some e →
    e.sectors = 0xFF#8 ∨ e.born + 64 ≤ s.clock →
    ∃ t, Happens (.sluiceSend core line) s t ∧ (∀ x ∈ t.mem.sluice, x ∈ s.mem.sluice ∧ ¬ (x.core = core ∧ x.line = line)) ∧
      t.mem.ram = s.mem.ram ∧ t.mem.l2 = s.mem.l2 ∧ t.mem.l1 = s.mem.l1 ∧ t.disp = s.disp) ∧
  (∀ s die ring (v : Word), s.sys.ready = true → ring < 2 → die < s.sys.dies →
    ∃ t, Happens (.furheadWrite die ring v) s t ∧ ((t.faultUnit die).ring ring).head = v ∧ t.crews = s.crews ∧
      ∀ d, d ≠ die → t.faultUnit d = s.faultUnit d) ∧
  (∀ s die pte m frame, ((s.faultUnit die).migrations.take 1024).find? (fun m => m.pte = pte && m.done.isNone) = some m →
    readable s m = true → m.frame = some frame → Map.sorted s.crews = true → s.disp.queues = [] → NoCardWaits s →
    ∃ t, Happens (.migrationComplete die { pte, failed := false }) s t ∧
      ∀ k c l a, s.crews.get k = some c → faultDie s (coreOf k) = die → l ∈ c.liveLanes →
        (c.thread l).wait = .migration pte a →
        ∃ d, t.crews.get k = some d ∧ d.thread l = { c.thread l with wait := .awake }) ∧
  (∀ s die pte m failed, ((s.faultUnit die).migrations.take 1024).find? (fun m => m.pte = pte && m.done.isNone) = some m →
    failed = true ∨ readable s m = false → Map.sorted s.crews = true → s.disp.queues = [] → NoCardWaits s →
    ∃ t, Happens (.migrationComplete die { pte, failed }) s t ∧
      ∀ k c l a, s.crews.get k = some c → faultDie s (coreOf k) = die → l ∈ c.liveLanes →
        (c.thread l).wait = .migration pte a → (c.thread l).handler = false → (s.context (ctxOf s c)).hen = true →
        ∃ d, t.crews.get k = some d ∧ (d.thread l).handler = true ∧ (d.thread l).wait = .awake ∧
          (d.thread l).pc = (s.context (ctxOf s c)).hbase ∧ w (d.thread l).h 0 = BitVec.ofNat 32 (0x042 + (c.thread l).rep * 2 ^ 16) ∧
          w (d.thread l).h 3 = BitVec.ofNat 32 a ∧ w (d.thread l).h 4 = BitVec.ofNat 32 (a / 2 ^ 32)) ∧
  (∀ s die pte m failed, ((s.faultUnit die).migrations.take 1024).find? (fun m => m.pte = pte && m.done.isNone) = some m →
    failed = true ∨ readable s m = false → Map.sorted s.crews = true → s.disp.queues = [] → NoCardWaits s →
    ∃ t, Happens (.migrationComplete die { pte, failed }) s t ∧
      ∀ k c l a, s.crews.get k = some c → faultDie s (coreOf k) = die → l ∈ c.liveLanes →
        (c.thread l).wait = .resuming pte a → (c.thread l).handler = true → c.held = [] →
        ∃ d, t.crews.get k = some d ∧ (d.thread l).handler = true ∧ (d.thread l).wait = .awake ∧
          (d.thread l).pc = (s.context (ctxOf s c)).hbase ∧
          w (d.thread l).h 0 = BitVec.ofNat 32 (0x042 + (w (c.thread l).h 0).toNat / 2 ^ 16 % 64 * 2 ^ 16 + 2 ^ 24)) ∧
  (∀ s die pte m frame, ((s.faultUnit die).migrations.take 1024).find? (fun m => m.pte = pte && m.done.isNone) = some m →
    readable s m = true → m.frame = some frame → MemGood s.mem → s.disp.queues = [] → NoCardWaits s →
    (∀ a ∈ ptesOf m, s.sys.spoiled.get a = none) → (∀ x ∈ (s.faultUnit die).migrations, x.pte = pte → x = m) →
    ¬ DoneRoom s die → (wordOfBytes 8 (s.mem.homeBytes pte 8)).toNat = m.old.toNat →
    let n := if m.big then 65536 else 4096
    (∀ p ∈ ptesOf m, ∀ j, j < 8 → ¬ (frame ≤ p + j ∧ p + j < frame + n)) →
    ∃ t, Happens (.migrationComplete die { pte, failed := false }) s t ∧ (t.faultUnit die).donefull = true ∧
      (∀ k, k < n → t.mem.home (frame + k) = s.mem.home (oldFrame m + k)) ∧
      (∀ p ∈ ptesOf m, ∀ j, j < 8 → t.mem.home (p + j) = (newPte m frame).extractLsb' (8 * j) 8) ∧
      ∀ a, ¬ (frame ≤ a ∧ a < frame + n) → (∀ p ∈ ptesOf m, ¬ (p ≤ a ∧ a < p + 8)) → t.mem.home a = s.mem.home a) ∧
  (∀ m frame, frame < 2 ^ 52 →
    let p := newPte m frame
    p.getLsbD 0 = true ∧ p.getLsbD 6 = true ∧
    (p.extractLsb' 10 44).toNat = (if m.big then frame / 65536 * 16 + 8 else frame / 4096) ∧
    ∀ k, k ≠ 0 → k ≠ 6 → (k < 10 ∨ 54 ≤ k) → p.getLsbD k = m.old.getLsbD k) ∧
  (∀ s die pte m frame, ((s.faultUnit die).migrations.take 1024).find? (fun m => m.pte = pte && m.done.isNone) = some m →
    readable s m = true → m.frame = some frame → MemGood s.mem → s.disp.queues = [] → NoCardWaits s →
    (∀ x ∈ (s.faultUnit die).migrations, x.pte = pte → x = m) → OthersFramed s die → DoneRoom s die →
    let old := (wordOfBytes 8 (s.mem.homeBytes pte 8)).toNat
    let bad : Prop := ∃ g, (s.mem.poison.get g).isSome = true ∧ oldFrame m ≤ 16 * g ∧ 16 * g < oldFrame m + frameSize m
    ∃ t, Happens (.migrationComplete die { pte, failed := false }) s t ∧
      (old = m.old.toNat → (bad → DoneEntry s t die m 2) ∧ (¬ bad → DoneEntry s t die m 0)) ∧
      (old ≠ m.old.toNat → DoneEntry s t die m 1 ∧
        ((t.faultUnit die).ring (if m.big then 1 else 0)).tail = ((s.faultUnit die).ring (if m.big then 1 else 0)).tail - 1)) ∧
  (∀ s die pte m failed, ((s.faultUnit die).migrations.take 1024).find? (fun m => m.pte = pte && m.done.isNone) = some m →
    failed = true ∨ readable s m = false → MemGood s.mem → s.disp.queues = [] → NoCardWaits s →
    (∀ x ∈ (s.faultUnit die).migrations, x.pte = pte → x = m) → OthersFramed s die → DoneRoom s die →
    (∀ e ∈ s.crews, ∀ l a, (e.2.thread l).wait = .migration pte a → (s.context (ctxOf s e.2)).hen = true) →
    ∃ t, Happens (.migrationComplete die { pte, failed }) s t ∧ DoneEntry s t die m 3) ∧
  (∀ s die m status, die < 4 → (∀ d, d < die → ∀ x ∈ (s.faultUnit d).migrations, x.done = none) →
    (s.faultUnit die).migrations.find? (fun m => m.done.isSome) = some m → m.done = some status → DoneRoom s die →
    MemGood s.mem → OthersFramed s die → (∀ x ∈ (s.faultUnit die).migrations, x.pte = m.pte → x = m) →
    ∃ t, Happens .doneEntryWrite s t ∧ DoneEntry s t die m status ∧ t.crews = s.crews ∧
      ∀ x ∈ (t.faultUnit die).migrations, x.pte ≠ m.pte)

/-- 00 R5, 03 R33, 11 R133, R138 and R155, 27 R318 and 31 R347, R352, R353 and R356: a write of 32 bits keeps the other half of a field; and each register
of the blocks, after a write of all its bits, reads its fields as written, its W1C bits cleared by ones, and the rest as it
was; a read-only register is left as it was. -/
def Sys2Proof.Claim.RegistersReadBackWhatIsWritten : Prop :=
  (∀ (x : RegWrite) hi lo old k, lo + k ≤ hi →
    (x.field hi lo old).testBit k = if (if lo + k < 32 then x.lo else x.hi) then x.v.testBit (lo + k) else old.testBit k) ∧
  ∀ s (x : RegWrite), x.lo = true → x.hi = true → x.v < 2 ^ 64 →
    let v := x.v
    let flag (b : Bool) : Nat := if b then 1 else 0
    let reads (r : RegSlot) (n : Nat) : Prop := readSlot (writeSlot s x r) r = n
    let stays (r : RegSlot) : Prop := writeSlot s x r = s
    -- submission rings and job queues
    (∀ n, let r := s.subRing n
      reads (.ring n 0) (v % 2 ^ 57 / 4096 * 4096) ∧ reads (.ring n 8) (v % 16) ∧ stays (.ring n 0x10) ∧
      reads (.ring n 0x18) (v % 2 + 2 * flag (r.overrun && !v.testBit 1) + 4 * flag (r.rdfault && !v.testBit 2) + 16 * (v / 16 % 16))) ∧
    (∀ n, reads (.queue n 0) (v % 128 + 128 * flag ((s.queue n).fault && !v.testBit 7) + 256 * (v / 256 % 2)) ∧
      stays (.queue n 0x10)) ∧
    -- contexts, their reducing windows and their event registers
    (∀ n, reads (.context n 8) (v % 2 ^ 32) ∧ reads (.context n 0x10) (v % 2 ^ 57 / 64 * 64) ∧
      reads (.context n 0x18) (v % 2 ^ 57 / 64 * 64) ∧ reads (.context n 0x20) (v % 2 ^ 24)) ∧
    (∀ n k, reads (.window n k 0) (v % 2 ^ 57 / 4096 * 4096) ∧
      reads (.window n k 8) (v % 32 + v / 256 % 4 * 256 + v / 2 ^ 15 % 2 * 2 ^ 15)) ∧
    (∀ n, let c := s.context n
      reads (.event n 0) (v % 2 ^ 57) ∧ reads (.event n 8) (v % 2 ^ 52 / 4096 * 4096) ∧
      reads (.event n 0x10) (v % 16 + 2 ^ 16 * flag (c.evlost && !v.testBit 16)) ∧
      reads (.event n 0x18) (c.evhead.toNat + v / 2 ^ 32 * 2 ^ 32) ∧ reads (.event n 0x20) (v % 2 ^ 32)) ∧
    -- fault units
    (∀ d, let u := s.faultUnit d
      (∀ n, n < 3 →
        reads (.fault d (0x20 * n)) (v % 2 ^ 52 / 4096 * 4096) ∧ reads (.fault d (0x20 * n + 8)) (v % 16)) ∧
      reads (.fault d 0x50) ((u.ring 2).head.toNat + v / 2 ^ 32 * 2 ^ 32) ∧
      reads (.fault d 0x60) (min 1024 u.migrations.length + 2 ^ 16 * flag (u.starved && !v.testBit 16) +
        2 ^ 17 * flag (u.donefull && !v.testBit 17)) ∧
      reads (.fault d 0x68) (v % 2 ^ 24)) ∧
    -- the flush, health and pooling blocks
    reads (.flush 0) (v % 2 ^ 52 / 4096 * 4096) ∧ reads (.flush 8) (v % 2 ^ 32) ∧ stays (.flush 0x18) ∧
    stays (.health 0) ∧ stays (.health 8) ∧ reads (.health 0x10) (v % 2 ^ 24) ∧
    reads (.pooling 0) (v % 2 ^ 39 / 4096 * 4096) ∧ reads (.pooling 8) (v % 2 ^ 27) ∧
    (s.sys.pbmGo = true → stays (.pooling 0x10)) ∧
    (s.sys.pbmGo = false → reads (.pooling 0x10) (v % 8 + v / 16 % 4 * 16 + 256 * flag (v.testBit 8 && decide (v / 16 % 4 < 2)))) ∧
    reads (.pooling 0x18) (v % 2 ^ 52 / 8 * 8) ∧ reads (.pooling 0x20) (v % 2 ^ 48)

/-- 00 R5, 11 R137, R159 and R160, and 31 R345, R346 and R353: SFENCE.VMA and HFENCE take TLB entries away, global ones of an
ASID not (log 63), once the accesses made through them are performed; an L2 flush
starts, and its end writes its range's dirty lines to memory and sets DONE; REVCLR empties the table of revoked ranges; a
forced release drops the extent's dirty lines, and what it mapped then raises 0x048 (the model's reading of R160, log 71); a
register write sets the fields of its register, as read back, and one of CTXCTL clears RESET, then pre-empts, then resumes
as its bits say (03 R33, in the order of log 60). -/
def Sys2Proof.Claim.SystemWritesActOnTlbsFlushesAndRegisters : Prop :=
  (∀ s va asid, s.sys.ready = true → MemGood s.mem →
    let named (e : TlbEntry) : Prop :=
      (∀ v, va = some v → e.base ≤ v % 2 ^ 57 ∧ v % 2 ^ 57 < e.base + 2 ^ e.log) ∧
      (∀ a, asid = some a → e.asid = a ∧ e.pte.getLsbD 5 = false)
    NoUseWaits s named → ∃ t, Happens (.sfenceVma va asid) s t ∧ Invalidates s t named) ∧
  (∀ s, s.sys.ready = true → MemGood s.mem → NoUseWaits s (fun _ => True) →
    ∃ t, Happens .hfence s t ∧ Invalidates s t fun _ => True) ∧
  (∀ s (v : Word), s.sys.ready = true → s.sys.flushGo = false → ∃ t, Happens (.l2Flush v) s t ∧ WorkKept s t ∧
    t.sys = { s.sys with flushGo := v.getLsbD 0, flushDone := s.sys.flushDone && !v.getLsbD 1 }) ∧
  (∀ s, s.sys.flushGo = true → MemGood s.mem →
    ∃ t, Happens .l2FlushDone s t ∧ t.sys.flushGo = false ∧ t.sys.flushDone = true ∧ t.crews = s.crews ∧
      (∀ a, t.mem.home a = s.mem.home a) ∧
      ∀ a, s.sys.flushBase.toNat / 4096 * 4096 ≤ a →
        a < s.sys.flushBase.toNat / 4096 * 4096 + s.sys.flushPages.toNat * 4096 → t.mem.l2.get a = none) ∧
  (∀ s (v : Word), s.sys.ready = true → v.getLsbD 0 = true → ∃ t, Happens (.revclr v) s t ∧ t.mem = { s.mem with revoked := [] } ∧
    t.crews = s.crews) ∧
  (∀ s base size, (∃ d ∈ s.sys.decoders, d.base < base + size ∧ base < d.base + d.size) → s.teams = [] → MemGood s.mem →
    ∃ t, Happens (.extentForcedRelease base size) s t ∧ t.crews = s.crews ∧
      (∀ a, t.mem.home a = if base ≤ a ∧ a < base + size then s.mem.ram.read a else s.mem.home a) ∧
      ∀ a, s.sys.target a = .fabric → base ≤ a → a < base + size → absentCause t a = some 0x048) ∧
  (∀ s pa width v r, s.sys.ready = true → width = 4 ∨ width = 8 → pa % width = 0 → regSlot s.sys (pa / 8 * 8) = some r →
    let high := decide (pa % 8 = 4)
    let x : RegWrite :=
      { v := if high then v.toNat % 2 ^ 32 * 2 ^ 32 else v.toNat, lo := !high, hi := high || decide (width = 8) }
    ownRow x r = false → Happens (.registerWrite pa width v) s (writeSlot s x r)) ∧
  (∀ s n (x : RegWrite), s.sys.ready = true → n < 16 → x.lo = true →
    let c := s.context n
    let s1 := s.setContext n { c with reset := c.reset && !x.v.testBit 3 }
    let t := writeSlot s x (.context n 0)
    (x.v.testBit 0 = false → x.v.testBit 1 = false → t = s1) ∧
    (x.v.testBit 0 = true → x.v.testBit 1 = false → Happens (.preempt n) s1 t) ∧
    (x.v.testBit 0 = false → x.v.testBit 1 = true → Happens (.resume n) s1 t) ∧
    (x.v.testBit 0 = true → x.v.testBit 1 = true → ∃ s2, Happens (.preempt n) s1 s2 ∧ Happens (.resume n) s2 t)) ∧
  (∀ s n (x : RegWrite), x.lo = true → x.hi = true → x.v < 2 ^ 64 →
    let c := s.context n
    let t := writeSlot s x (.context n 0x28)
    (t.context n).ppn.toNat = x.v % 2 ^ 44 ∧ (t.context n).asid.toNat = x.v / 2 ^ 44 % 2 ^ 16 ∧
    (t.context n).mode = (if x.v / 2 ^ 60 = 10 then 10#4 else c.mode) ∧
    readSlot t (.context n 0x28) = x.v % 2 ^ 60 + (t.context n).mode.toNat * 2 ^ 60) ∧
  (∀ s n (x : RegWrite), x.lo = true → x.hi = true → x.v < 2 ^ 64 →
    let q := (writeSlot s x (.queue n 0)).queue n
    q.ctx.toNat = x.v % 16 ∧ q.cls.toNat = x.v / 16 % 4 ∧ q.en = x.v.testBit 6 ∧ q.budget = x.v.testBit 8 ∧
    q.fault = ((s.queue n).fault && !x.v.testBit 7) ∧ q.brem = (s.queue n).brem) ∧
  Claim.RegistersReadBackWhatIsWritten

/-- Sleeping threads wake as their instructions say, and the system's writes act on TLBs, flushes and registers. -/
def Obligations.SleepsEndAndSystemWritesAct : Prop :=
  Claim.SleepsEndAsTheirInstructionsSay ∧ Claim.SystemWritesActOnTlbsFlushesAndRegisters

/-! ## Pooled lookups, stack engines and bank units (chapters 21, 29 and 31) -/

namespace Sys2Proof.Claim

open Sys2Proof.Machine

/-- An accepted command of queue POOL changes as f says, and no other command of its core. -/
def CommandMoves (s t : State) (core serial : Nat) (f : Command → Command) : Prop :=
  (t.core core).commands = (s.core core).commands.map fun x => if x.serial = serial then f x else x

/-- The hart of an engine goes on from h by one instruction to h'. -/
def Retires (i : Instr) (s : State) (e : Nat) (h' : Hart) : Prop :=
  ∃ t, exec i s = .next t ∧ (t.engine e).hart = { h' with instret := h'.instret + 1 }

/-- A chip is asked or heard of a command: it must send its next message within 2^24 clocks (31 R351). -/
def askedAt (s : State) (chip : Nat) (x : Command) : Command := { x with asked := x.asked.set chip (s.clock + 2 ^ 24) }

/-- The module's number of a chip of the partition (01 R20; 31 R351). -/
def moduleChip (s : State) (chip : Nat) : Nat := s.sys.record.chips.getD chip chip

/-- A message of a command that a chip sends under the tag of its request, with its payload in beats of 16 bytes (31 R351). -/
def poolMessage (s : State) (c : Command) (op chip : Nat) (operand : List Nat) (payload : List Byte) : Output :=
  .pool { vendor := 0x1F3C, op, chip := moduleChip s chip, tag := (c.tags.get chip).getD 0, len := (payload.length + 15) / 16
          operand, payload }

/-- The tag of a chip's next request (31 R351; the model counts them from 0 to 4,095, log 82). -/
def nextTag (s : State) (chip : Nat) : Nat := (s.sys.poolTags.get chip).getD 0

/-- One access of an engine's work, with the bytes read or written: a read or a write, a read that is an acquire, a write that
is a release, and the atomics at system scope that read and write the generation word (29 R334, R335). -/
inductive Touch where
  | read (a n : Nat) (bs : List Byte)
  | take (a n : Nat) (bs : List Byte)
  | write (a : Nat) (bs : List Byte) (release : Bool)
  | gen (a : Nat) (bs : List Byte)
  | setGen (a v : Nat) (release : Bool)

/-- An engine reads bytes at an address: the pages may be read and hold no poison there, the access is noted, an acquire takes
what releases of the lines carried, and the bytes are those its pages then give. -/
def ReadsAs (who : Agent) (e ctx ea n : Nat) (acquire : Bool) (bs : List Byte) (s t : State) : Prop :=
  ∃ ms, (meet s (engineCore e) ctx ea n .load).of s who = .ok ms ∧ piecesPoisoned s ms = false ∧
    t = engineNote s e ctx ea n acquire ∧ readPieces t (engineCore e) ms = bs

/-- An engine's write of bytes at their home, which carries what a release gives (29 R327). -/
def WritesAs (who : Agent) (e ctx ea : Nat) (bs : List Byte) (release : Bool) (s t : State) : Prop :=
  ∃ s1 ds ls pa, engineWrite s who (engineCore e) ctx ea bs = (s1, .bytes ds ls pa) ∧ t = engineWrote s1 e pa release

/-- An atomic reaches the pages of an access: none is an IO page, or a fabric page without CLVL 11 (19 R226). -/
def Reachable (s : State) (r : Meet) : Prop := ∀ ms, r = .ok ms → ∀ m ∈ ms, atomicBarred s m.1 = false

/-- The accesses of a work, in order, are performed from s to t. -/
def Performs (who : Agent) (e ctx : Nat) : List Touch → State → State → Prop
  | [], s, t => t = s
  | .read a n bs :: rest, s, t => ∃ u, ReadsAs who e ctx (va57 a) n false bs s u ∧ Performs who e ctx rest u t
  | .take a n bs :: rest, s, t => ∃ u, ReadsAs who e ctx (va57 a) n true bs s u ∧ Performs who e ctx rest u t
  | .write a bs release :: rest, s, t => ∃ u, WritesAs who e ctx (va57 a) bs release s u ∧ Performs who e ctx rest u t
  | .gen a bs :: rest, s, t => Reachable s (meet s (engineCore e) ctx (va57 a) 8 .load) ∧
    ∃ u, ReadsAs who e ctx (va57 a) 8 false bs s u ∧ Performs who e ctx rest u t
  | .setGen a v release :: rest, s, t => Reachable s (engineMeet s (engineCore e) ctx (va57 a) 8) ∧
    ∃ u, WritesAs who e ctx (va57 a) (bytesOfWord 8 (BitVec.ofNat 64 v)) release s u ∧ Performs who e ctx rest u t

/-- A read fails with a status and a cause: its pages cannot be read, or hold poison (29 R331). -/
def ReadFails (who : Agent) (e ctx ea n : Nat) (s : State) (st cause : Nat) : Prop :=
  let r := (meet s (engineCore e) ctx ea n .load).of s who
  (r = .bad cause ∧ st = 1) ∨ (∃ ms, r = .ok ms ∧ piecesPoisoned s ms = true ∧ st = 2 ∧ cause = 0x047)

/-- An access fails with a status and a cause at an address; an atomic that reaches no page of its target with 0x04D. -/
def FailsAt (who : Agent) (e ctx : Nat) (s : State) (st cause ea : Nat) : Touch → Prop
  | .read a n _ => ea = va57 a ∧ ReadFails who e ctx ea n s st cause
  | .take a n _ => ea = va57 a ∧ ReadFails who e ctx ea n s st cause
  | .write a bs _ => ea = va57 a ∧ st = 1 ∧ (engineMeet s (engineCore e) ctx ea bs.length).of s who = .bad cause
  | .gen a _ => ea = va57 a ∧ (ReadFails who e ctx ea 8 s st cause ∨
    ∃ ms, meet s (engineCore e) ctx ea 8 .load = .ok ms ∧ piecesPoisoned s ms = false ∧
      (∃ m ∈ ms, atomicBarred s m.1 = true) ∧ st = 1 ∧ cause = 0x04D)
  | .setGen a _ _ => ea = va57 a ∧ st = 1 ∧ ((engineMeet s (engineCore e) ctx ea 8).of s who = .bad cause ∨
    ∃ ms, engineMeet s (engineCore e) ctx ea 8 = .ok ms ∧ (∃ m ∈ ms, atomicBarred s m.1 = true) ∧ cause = 0x04D)

/-- A 64-bit word written whole. -/
def writeDword (a v : Nat) (release : Bool) : Touch := .write a (bytesOfWord 8 (BitVec.ofNat 64 v)) release

/-- A word to BF16 by round_rne: its upper half, rounded to nearest, ties to even (09 R114). -/
def upperHalf (x : Word) : BitVec 16 :=
  if isNan x then 0x7FC0#16 else BitVec.ofNat 16 ((x.toNat + 0x7FFF + x.toNat / 2 ^ 16 % 2) / 2 ^ 16)

/-- Steps 1 and 2 of 29 R336: PLAIN[i] is the BF16 of the master's word u i, then TRANS[c × ROWS + r] the bytes y of
PLAIN[r × COLS + c], both in ascending order. -/
def copyTouches (b : UpdateBlock) (u : Nat → Word) (y : Nat → List Byte) : List Touch :=
  ((List.range (b.rows * b.cols)).flatMap fun i =>
    [.read (b.master + 4 * i) 4 (bytesOfWord 4 (u i)), .write (b.plain + 2 * i) (bytesOfWord 2 (upperHalf (u i))) false]) ++
  (List.range (b.rows * b.cols)).flatMap fun k =>
    let r := k % b.rows
    let c := k / b.rows
    [.read (b.plain + 2 * (r * b.cols + c)) 2 (y k), .write (b.trans + 2 * (c * b.rows + r)) (y k) false]

/-- Element i of the gradients read as gs, widened exactly (09 R112). -/
def gradient (b : UpdateBlock) (gs : List Byte) (i : Nat) : Word :=
  if b.bf16 then ((wordOfBytes 2 (gs.drop (2 * i))).setWidth 32) <<< (16 : Nat) else wordOfBytes 4 (gs.drop (4 * i))

/-- An FP32 word is finite. -/
def finite (x : Word) : Bool := (num32 x).isFin

/-- The factor of 29 R335: 1 where the norm of the finite gradients is at most LIMIT, else LIMIT over it. -/
def clipFactor (b : UpdateBlock) (g : Nat → Word) : Word :=
  let q (x : Word) : Q := (num32 x).val
  let nrm := sqrtRne (rneQ ((List.range (b.rows * b.cols)).foldl
    (fun sum i => if finite (g i) then sum.add ((q (g i)).mul (q (g i))) else sum) (Q.int 0)))
  if (num32 nrm).le (num32 b.limit) then 0x3F800000#32 else if finite nrm then rneQ ((q b.limit).div (q nrm)) else 0#32

/-- The accesses of element i of an UPDATE: the moments and the weight are read of an element with a finite gradient, and
written when it has new ones. -/
def elementTouches (b : UpdateBlock) (scale : Word) (g m v u : Nat → Word) (i : Nat) : List Touch :=
  if finite (g i) = false then []
  else
    [.read (b.mom1 + 4 * i) 4 (bytesOfWord 4 (m i)), .read (b.mom2 + 4 * i) 4 (bytesOfWord 4 (v i)),
     .read (b.master + 4 * i) 4 (bytesOfWord 4 (u i))] ++
      match (updateElement b scale (g i) (u i) (m i) (v i)).new with
      | none => []
      | some (w1, m1, v1) =>
        [.write (b.master + 4 * i) (bytesOfWord 4 w1) false, .write (b.mom1 + 4 * i) (bytesOfWord 4 m1) false,
         .write (b.mom2 + 4 * i) (bytesOfWord 4 v1) false]

/-- How many of the elements have a property. -/
def tally (n : Nat) (p : Nat → Bool) : Nat := ((List.range n).filter p).length

/-- DONEEL and the counters of a block plus what the run adds, at offset 0x6C (29 R334, R335). -/
def counterTouch (b : UpdateBlock) (a doneel nonfin clamped zeroden skips : Nat) : Touch :=
  .write (a + 0x6C)
    ([doneel, nth b.counters 1 + nonfin, nth b.counters 2 + clamped, nth b.counters 3 + zeroden, nth b.counters 4 + skips].flatMap
      fun n => bytesOfWord 4 (BitVec.ofNat 32 n)) false

/-- An instruction of the RISC-V register form. -/
def rForm (f7 : BitVec 7) (rs2 rs1 : BitVec 5) (f3 : BitVec 3) (rd : BitVec 5) (op : BitVec 7) : Nat :=
  (f7 ++ rs2 ++ rs1 ++ f3 ++ rd ++ op).toNat

/-- The hart past an instruction of 4 bytes that writes rd. -/
def past (h : Hart) (rd : BitVec 5) (v : BitVec 64) : Hart := { h with pc := h.pc + 4#64 }.setX rd.toNat v

end Sys2Proof.Claim

/-- 21 R262 to R264, 29 R342 and R343 and 31 R351: LIST takes a checked batch to a chip, which fetches its rows, and a batch
that fails its checks ends its command; FWD passes a row on; VEC writes a bag's vector; STAT answers for a chip that has
returned its bags, and for one that has replaced its row; REPL puts a row's bytes in its buffer; what a bag's vector is, R263's
fold gives; a chip that has let 2^24
clocks pass ends its command with LINK, and, no command late, the maintenance with LINK too (the model's reading, log 81).
The tags and the operands of the messages are the model's (log 82). -/
def Sys2Proof.Claim.PoolingMessagesMoveTheirCommands : Prop :=
  (∀ s core serial chip c d p', poolCommand s core serial = some c → c.work = .embg d → poolHeld s core c = false →
    let u := if c.plan.isSome then s else noteBatch s core c.ctx d
    (match c.plan with | some p => Prep.plan p | none => prepare u (.command serial) core c.ctx d) = .plan p' →
    chip ∈ p'.chips → chip ∉ c.listed → owesBefore s core serial chip = false → Map.sorted p'.places = true →
    let v := (if c.plan.isSome then (u, p') else notePlan u core c.ctx d p').1
    let p := (if c.plan.isSome then (u, p') else notePlan u core c.ctx d p').2
    ∃ t rows m share, Happens (.poolList core serial chip) s t ∧ t.crews = s.crews ∧ t.mem = v.mem ∧
      CommandMoves s t core serial (fun x =>
        { askedAt s chip x with
          plan := some p, started := true, listed := x.listed ++ [chip], rows := rows
          tags := x.tags.set chip (nextTag s chip) }) ∧
      nextTag t chip = (nextTag s chip + 1) % 4096 ∧
      t.out = .pool m :: s.out ∧ m.vendor = 0x1F3C ∧ m.op = 0x01 ∧ m.chip = moduleChip s chip ∧ m.tag = nextTag s chip ∧
      m.len = (m.payload.length + 15) / 16 ∧
      m.payload = d.bytes ++ (p.offs ++ share ++ (if d.weighted then ((List.range p.idx.length).filter fun q =>
        p.chip (nth p.idx q) = chip).map fun q => (p.wts.getD q 0#32).toNat else [])).flatMap (fun n => bytesOfWord 4 (BitVec.ofNat 32 n)) ∧
      (d.presort = true → share = p.idx.filter fun r => p.chip r = chip) ∧
      (d.presort = false → share.Pairwise (· < ·) ∧ ∀ r, r ∈ share ↔ r ∈ p.idx ∧ p.chip r = chip) ∧
      ∀ row ps, p.places.get row = some ps → p.chip row = chip → rows.get row = some
        { bytes := ps.flatMap fun e => (List.range e.2).map fun k => v.mem.ram.read (e.1 + k)
          poison := ps.any fun e => v.mem.poisonIn e.1 e.2, forwarded := false }) ∧
  (∀ s core serial chip c d st cause ea, poolCommand s core serial = some c → c.work = .embg d → poolHeld s core c = false →
    c.plan = none → prepare (noteBatch s core c.ctx d) (.command serial) core c.ctx d = .fail st cause ea →
    ∃ t, Happens (.poolList core serial chip) s t ∧ t.crews = s.crews ∧ t.mem = (noteBatch s core c.ctx d).mem ∧
      CommandMoves s t core serial (fun x => { x with result := some (st, cause, ea) })) ∧
  (∀ s core serial row c d p r, poolCommand s core serial = some c → c.work = .embg d → c.plan = some p →
    c.rows.get row = some r → r.forwarded = false →
    (∃ b, b < d.nbags ∧ row ∈ p.rowsOf b ∧ p.home b ≠ some (p.chip row)) →
    ∃ t, Happens (.poolFwd core serial row) s t ∧ t.crews = s.crews ∧ t.mem = s.mem ∧
      (∀ b home, b < d.nbags → row ∈ p.rowsOf b → p.home b = some home → home ≠ p.chip row →
        poolMessage s c 0x05 (p.chip row) [moduleChip s home, b] r.bytes ∈ t.out) ∧
      CommandMoves s t core serial (fun x =>
        { askedAt s (p.chip row) x with rows := x.rows.set row { r with forwarded := true } })) ∧
  (∀ s core serial bag c d p home s', poolCommand s core serial = some c → c.work = .embg d → c.plan = some p →
    p.home bag = some home → bag < d.nbags → bag ∉ c.bags →
    (∀ row ∈ p.rowsOf bag, ∃ r, c.rows.get row = some r ∧ (r.forwarded = true ∨ p.chip row = home)) →
    writeBag s (.command serial) core c.ctx d bag (foldBag d p c.rows bag).1 (foldBag d p c.rows bag).2 = .ok s' →
    ∃ t, Happens (.poolVec core serial bag) s t ∧ t.mem = s'.mem ∧
      t.out = poolMessage s' c 0x02 home [bag] ((foldBag d p c.rows bag).1.flatMap (bytesOfWord 4)) :: s'.out ∧
      CommandMoves s' t core serial (fun x => { askedAt s' home x with bags := x.bags ++ [bag] })) ∧
  (∀ s core serial chip c d p, poolCommand s core serial = some c → c.work = .embg d → c.plan = some p →
    chip ∈ c.listed → chip ∉ c.answered → (∀ b, b < d.nbags → p.home b = some chip → b ∈ c.bags) →
    ∃ t, Happens (.poolStat core serial chip) s t ∧ t.crews = s.crews ∧ t.mem = s.mem ∧
      CommandMoves s t core serial (fun x =>
        { x with asked := x.asked.erase chip, answered := x.answered ++ [chip] })) ∧
  (∀ s core serial chip c d row src r, poolCommand s core serial = some c → c.work = .embw d row src →
    c.reply = some r → chip ∈ c.listed →
    ∃ t, Happens (.poolStat core serial chip) s t ∧ t.crews = s.crews ∧ t.mem = s.mem ∧
      CommandMoves s t core serial (fun x =>
        { x with asked := x.asked.erase chip, answered := x.answered ++ [chip], result := some r })) ∧
  (∀ s core serial c d row src pa k, poolCommand s core serial = some c → c.work = .embw d row src →
    poolHeld s core c = false → c.started = false → row < d.nrows →
    rowPieces s core c.ctx (rowAddress d row) (poolRowBytes d) .store = .ok [(pa, poolRowBytes d)] →
    scratchAt s c.team src.toNat (poolRowBytes d) = some k → owesBefore s core serial (chipOf pa) = false →
    s.mem.scratchPoisoned k (poolRowBytes d) = false → NotOwned s c.team k (poolRowBytes d) → MemGood s.mem →
    ∃ t m, Happens (.poolRepl core serial) s t ∧ t.crews = s.crews ∧
      CommandMoves s t core serial (fun x =>
        { askedAt s (chipOf pa) x with
          started := true, listed := [chipOf pa], reply := some (0, 0, 0)
          tags := x.tags.set (chipOf pa) (nextTag s (chipOf pa)) }) ∧
      t.out = .pool m :: s.out ∧ m.vendor = 0x1F3C ∧ m.op = 0x04 ∧ m.chip = moduleChip s (chipOf pa) ∧
      m.tag = nextTag s (chipOf pa) ∧ m.operand = [pa - 2 ^ 40 - chipOf pa * 2 ^ 39] ∧ m.payload.length = poolRowBytes d ∧
      ∀ j, j < poolRowBytes d → m.payload.getD j 0 = s.mem.scratchByte (k + j) ∧ t.mem.home (pa + j) = s.mem.scratchByte (k + j) ∧ t.mem.ram.read (pa + j) = s.mem.scratchByte (k + j)) ∧
  (∀ s, (∃ core ∈ s.cores.keys, ∃ c ∈ (s.core core).commands, c.late s.clock = true) →
    ∃ t core c, Happens .poolLinkTimeout s t ∧ c ∈ (s.core core).commands ∧ c.queue = 1 ∧ c.result = none ∧
      (∃ e ∈ c.asked, e.2 ≤ s.clock) ∧ CommandMoves s t core c.serial (fun x => { x with result := some (6, 0x0C9, 0) })) ∧
  (∀ s, (∀ e ∈ s.cores, ∀ c ∈ e.2.commands, c.late s.clock = false) → s.sys.pbmPhase = 2 ∨ s.sys.pbmPhase = 3 →
    s.sys.pbmTill ≤ s.clock →
    Happens .poolLinkTimeout s (s.setSys { s.sys with pbmPhase := 4, pbmStatus := 6 }))

/-- 21 R263: the vector of a bag is the fold of its positions in ascending order of index, then position, each element with
one rounding, of the exact product of its weight and the row's element, widened exactly; a poisoned row poisons it; and a bag's
vector is written at its place of OUT, its granules poisoned where it is. -/
def Sys2Proof.Claim.BagsFoldTheirRows : Prop :=
  (∀ (p : PoolPlan) bag, nth p.offs (bag + 1) ≤ 65536 →
    (p.positions bag).Pairwise (fun a b => nth p.idx a < nth p.idx b ∨ (nth p.idx a = nth p.idx b ∧ a < b)) ∧
    ∀ q, q ∈ p.positions bag ↔ nth p.offs bag ≤ q ∧ q < nth p.offs (bag + 1)) ∧
  (∀ d (p : PoolPlan) (rows : Map PoolRow) (row : Nat → PoolRow) bag, d.fmt ∈ [8, 9, 10] →
    (∀ q ∈ p.positions bag, rows.get (nth p.idx q) = some (row q)) →
    let weight (q : Nat) : Word := if d.weighted then p.wts.getD q 0#32 else 0x3F800000#32
    let element (bs : List Byte) (e : Nat) : Word :=
      if d.fmt = 8 then wordOfBytes 4 (bs.drop (4 * e))
      else if d.fmt = 9 then ((wordOfBytes 2 (bs.drop (2 * e))).setWidth 32) <<< (16 : Nat)
      else widenScaled 10 (recordCode 10 (bs.drop (34 * (e / 32))) (e % 32)) (recordScale 10 (bs.drop (34 * (e / 32))) (e % 32))
    (foldBag d p rows bag).1.length = d.rowlen ∧
    (∀ e, e < d.rowlen → (foldBag d p rows bag).1.getD e 0 = (p.positions bag).foldl (fun acc q =>
      (rounded (FNum.sum [num32 acc, FNum.mul (num32 (weight q)) (num32 (element (row q).bytes e))]) false []).1) 0#32) ∧
    ((foldBag d p rows bag).2 = true ↔ ∃ q ∈ p.positions bag, (row q).poison = true)) ∧
  (∀ s who key ctx d (bag : Nat) (v : List Word) m, MemGood s.mem → v.length = d.rowlen →
    let core := coreOf key
    let a := canonicalOf (d.out.toNat + 4 * d.rowlen * bag)
    LiesAt s key ctx a (4 * d.rowlen) .store m → windowAt s ctx (a % 2 ^ 57) = none →
    ∃ u, writeBag s who core ctx d bag v false = .ok u ∧
      writeBag s who core ctx d bag v true = .ok (enginePoison u core ctx a (4 * d.rowlen)) ∧
      ∀ b, b < 2 ^ 52 → NotTheEntry s core ctx a true b → u.mem.seen core b =
        if m.pa ≤ b ∧ b < m.pa + 4 * d.rowlen then (v.flatMap (bytesOfWord 4)).getD (b - m.pa) 0 else s.mem.seen core b) ∧
  ∀ u key ctx a n m b, LiesAt u key ctx a n .store m → windowAt u ctx (a % 2 ^ 57) = none →
    ((enginePoison u (coreOf key) ctx a n).mem.poisonAt b = true ↔
      u.mem.poisonAt b = true ∨ (m.pa / 16 ≤ b / 16 ∧ b / 16 ≤ (m.pa + n - 1) / 16))

/-- 31 R351 and R352: pooling maintenance goes to its chip, which scrubs the range or makes it 0, 4 KiB after 4 KiB, with
its poison cleared and its lines in L2 invalidated (the last the model's reading, log 66), answers, and its completion word
ends it. -/
def Sys2Proof.Claim.PoolingMaintenanceRunsItsCourse : Prop :=
  let phase (s : State) (n : Nat) : Prop := s.sys.pbmPhase = n
  (∀ s, phase s 1 → ∃ t m, Happens .poolMaint s t ∧ WorkKept s t ∧ phase t 2 ∧ t.sys.pbmAt = 0 ∧
    t.sys.pbmTill = s.clock + 2 ^ 24 ∧ t.out = .pool m :: s.out ∧ m.vendor = 0x1F3C ∧ m.op = 0x06 ∧
    m.chip = moduleChip s s.sys.pbmChip.toNat ∧ m.tag = nextTag s s.sys.pbmChip.toNat ∧ t.sys.pbmTag = m.tag) ∧
  (∀ s a n, phase s 2 → s.sys.pbmOp = 0#2 → pbmRange s.sys = some (a, n) →
    ∃ t, Happens .poolScrub s t ∧ WorkKept s t ∧ phase t 3 ∧
      (t.sys.pbmStatus = 2 ↔ ∃ g ∈ s.mem.poison.keys, a ≤ 16 * g ∧ 16 * g < a + n)) ∧
  (∀ s a n, phase s 2 → s.sys.pbmOp = 1#2 → pbmRange s.sys = some (a, n) →
    let from' := a + 4096 * s.sys.pbmAt
    let here (x : Nat) : Prop := 4096 * s.sys.pbmAt < n ∧ from' ≤ x ∧ x < from' + 4096
    ∃ t, Happens .poolZero s t ∧ t.crews = s.crews ∧ t.sys.pbmStatus = 0 ∧ t.sys.pbmAt = s.sys.pbmAt + 1 ∧
      (4096 * (s.sys.pbmAt + 1) < n → phase t 2) ∧ (n ≤ 4096 * (s.sys.pbmAt + 1) → phase t 3) ∧
      (MemGood s.mem → ∀ x, (here x → t.mem.home x = 0#8 ∧ t.mem.ram.read x = 0#8 ∧ t.mem.poisonAt x = false) ∧
        (¬ here x → t.mem.home x = s.mem.home x ∧ t.mem.ram.read x = s.mem.ram.read x ∧ t.mem.poisonAt x = s.mem.poisonAt x))) ∧
  (∀ s i, phase s 2 → (i = .poolScrub ∧ s.sys.pbmOp = 0#2) ∨ (i = .poolZero ∧ s.sys.pbmOp = 1#2) → pbmRange s.sys = none →
    ∃ t, Happens i s t ∧ WorkKept s t ∧ phase t 3 ∧ t.sys.pbmStatus = 1) ∧
  (∀ s, phase s 3 → ∃ t m, Happens .poolMdone s t ∧ WorkKept s t ∧ phase t 4 ∧ t.out = .pool m :: s.out ∧
    m.vendor = 0x1F3C ∧ m.op = 0x07 ∧ m.chip = moduleChip s s.sys.pbmChip.toNat ∧ m.tag = s.sys.pbmTag ∧ m.operand = [s.sys.pbmStatus]) ∧
  (∀ s, phase s 4 →
    let a := s.sys.pbmDone.toNat / 8 * 8
    s.sys.target a = .hbm → s.mem.isRevoked a = false →
    ∃ t, Happens .maintenanceDone s t ∧ t.crews = s.crews ∧ phase t 0 ∧ t.sys.pbmGo = false ∧
      ∀ j, j < 8 → t.mem.home (a + j) =
        (BitVec.ofNat 64 (0x21 * 2 ^ 56 + s.sys.pbmStatus * 2 ^ 48 + s.sys.pbmSeq.toNat)).extractLsb' (8 * j) 8)

/-- Pooling messages move their commands to the end, and maintenance runs its course. -/
def Obligations.PoolingMessagesAndMaintenanceRunTheirCourse : Prop :=
  Claim.PoolingMessagesMoveTheirCommands ∧ Claim.BagsFoldTheirRows ∧ Claim.PoolingMaintenanceRunsItsCourse

/-- 29 R329, R330 and R333: a RUN card starts its kernel at ARG0 in U-mode; an ended job is published; a kernel beyond its
limit ends TRAPPED. -/
def Sys2Proof.Claim.RunsStartAndJobsPublish : Prop :=
  (∀ s e j, nextCard s e 0 = some j →
    ∃ t, Happens (.jobRun e) s t ∧ (t.engine e).running = some { j with begun := true } ∧
      let h := (t.engine e).hart
      h.pc = j.card.getD 3 0#64 &&& ~~~1#64 ∧ h.getX 2 = j.card.getD 4 0#64 ∧ h.getX 10 = j.card.getD 5 0#64 ∧
      h.getX 11 = j.card.getD 6 0#64 ∧ (∀ n, n ∉ [2, 10, 11] → h.getX n = 0#64) ∧ (∀ n, h.getF n = 0#64) ∧
      h.fcsr = 0#8 ∧ h.vl = 0#64 ∧ h.vtype = 1#64 <<< (63 : Nat) ∧ h.instret = 0 ∧ h.machine = false ∧ h.cycle = s.clock) ∧
  (∀ s e j st cause at', e < 64 → (∀ k, k < e → endedJob s k = none) → endedJob s e = some (j, st, cause, at') →
    jobWordPage s e j = none →
    ∃ t, Happens .stackJobPublish s t ∧ (t.engine e).running = none ∧ ∀ q ∈ t.near.sequences, q.engine ≠ e ∨ q.dropped = true) ∧
  (∀ s e j, e < 64 → (∀ k, k < e → runJob s k = none) → runJob s e = some j → j.arg 4 ≠ 0 →
    j.arg 4 < (s.clock - (s.engine e).hart.cycle) * 4 / 5 →
    ∃ t, Happens .runLimitExpire s t ∧ (t.engine e).running = some { j with ended := some (9, 0x0C8, 0) } ∧ t.mem = s.mem)

/-- 29 R334, R335 and R337: a card reads its block and its generation word: a bad block ends it with BADCARD, a word that
shows the block torn to an UPDATE, or busy to a PAIRFIX, with TORN, and else it goes on with what it has read. -/
def Sys2Proof.Claim.CardsReadTheirBlockFirst : Prop :=
  ∀ s e j i kind bs gb t, (i = .jobUpdate e ∧ kind = 1) ∨ (i = .jobPairfix e ∧ kind = 3) → runningCard s e kind = none →
    nextCard s e kind = some j → j.arg 0 % 64 = 0 → va57 (j.arg 0) = j.arg 0 →
    let b := UpdateBlock.parse bs
    let gen := (wordOfBytes 8 gb).toNat
    let performs := Performs (.job j.serial) e j.ctx
    (performs [.read (j.arg 0) 128 bs] s t → b.bad bs = true →
      Happens i s (takeCard t e { j with ended := some (8, 0x0C8, 0), begun := true })) ∧
    (performs [.read (j.arg 0) 128 bs, .gen b.gen gb] s t → gb.length = 8 → b.bad bs = false →
      (gen.testBit 62 = true ∨ (kind = 1 ∧ gen.testBit 63 = true) →
        Happens i s (takeCard t e { j with ended := some (0xA, 0x0C4, 0), begun := true })) ∧
      (gen.testBit 62 = false ∧ (kind = 1 → gen.testBit 63 = false) →
        Happens i s (takeCard t e { j with begun := true, block := some (bs, gen) })))

/-- 29 R334 to R336: an UPDATE that has read its block, and whose accesses are performed, sets BUSY by a compare-and-swap of
the generation word it has read, works on its elements in ascending order, writes the counters, the plain and the transposed
copy, and the generation word with one step more; a word that has changed since ends it with TORN and nothing written; in
STEP mode a set skip flag, or a gradient that is not finite, ends it with the counters and the flag written alone; an access that fails once
BUSY is set ends it with the counters as they then stand and the word torn. SKIPF is read as an acquire and set as a release,
and the generation word is reached by atomics. That the rest of the card is one step is log 42 (the model's choice). -/
def Sys2Proof.Claim.UpdateWorksOnItsElements : Prop :=
  ∀ s e j bs gen t, runningCard s e 1 = some (j, bs, gen) → gen < 2 ^ 62 →
    let b := UpdateBlock.parse bs
    let n := b.rows * b.cols
    let performs := Performs (.job j.serial) e j.ctx
    let ends (st cause ea : Nat) : Prop :=
      Happens (.jobUpdate e) s (setRunning t e (some { j with ended := some (st, cause, ea) }))
    let flag : List Touch := if b.step then [.take b.skipf 8 (List.replicate 8 0#8)] else []
    (∀ fb, b.step = true → fb.length = 8 → wordOfBytes 8 fb ≠ 0#64 →
      performs [.take b.skipf 8 fb, counterTouch b (j.arg 0) (nth b.counters 0) 0 0 0 1] s t → ends 0 0 0) ∧
    ∀ gs, gs.length = (if b.bf16 then 2 else 4) * n →
      let g := gradient b gs
      let grads : List Touch := flag ++ [.read b.grad ((if b.bf16 then 2 else 4) * n) gs]
      let bad := tally n fun i => !finite (g i)
      (b.step = true → bad ≠ 0 →
        performs (grads ++ [counterTouch b (j.arg 0) (nth b.counters 0) bad 0 0 1, writeDword b.skipf 1 true]) s t → ends 0 0 0) ∧
      (b.step = false ∨ bad = 0 →
        (∀ gb, gb.length = 8 → (wordOfBytes 8 gb).toNat ≠ gen → performs (grads ++ [.gen b.gen gb]) s t → ends 0xA 0x0C4 0) ∧
        ∀ (m v u u' : Nat → Word) (y : Nat → List Byte),
          let x (i : Nat) : Element := updateElement b (clipFactor b g) (g i) (u i) (m i) (v i)
          let counters (done upTo : Nat) : Touch :=
            let overs (p : Element → Bool) : Nat := tally upTo fun i => finite (g i) && p (x i)
            counterTouch b (j.arg 0) done (tally upTo (fun i => !finite (g i)) + overs Element.nonfin) (overs Element.clamped)
              (overs Element.zeroden) 0
          let element := elementTouches b (clipFactor b g) g m v u
          let busy := grads ++ [.gen b.gen (bytesOfWord 8 (BitVec.ofNat 64 gen)), .setGen b.gen (gen + 2 ^ 62) false]
          let last := [counters n n] ++ copyTouches b u' y ++ [.setGen b.gen ((gen % 2 ^ 48 + 1) % 2 ^ 48) true]
          let torn : Touch := .setGen b.gen (gen % 2 ^ 48 + 2 ^ 63) true
          let fails (t1 : State) (st cause ea : Nat) : Touch → Prop := FailsAt (.job j.serial) e j.ctx t1 st cause ea
          (performs (busy ++ (List.range n).flatMap element ++ last) s t → ends 0 0 0) ∧
          (∀ i before touch rest t1 st cause ea, i < n → element i = before ++ touch :: rest →
            performs (busy ++ (List.range i).flatMap element ++ before) s t1 → fails t1 st cause ea touch →
            performs [counters (i + 1) (match touch with | .write _ _ _ => i + 1 | _ => i), torn] t1 t → ends st cause ea) ∧
          ∀ before touch rest t1 st cause ea, last = before ++ touch :: rest →
            performs (busy ++ (List.range n).flatMap element ++ before) s t1 → fails t1 st cause ea touch →
            performs [torn] t1 t → ends st cause ea)

/-- 29 R335: an element whose numbers are finite takes its new moments and weight by the formulas of the rule, each rounded
once; one with a result that is not finite, or a zero denominator, keeps all three and is counted. -/
def Sys2Proof.Claim.ElementsFollowTheFormulas : Prop :=
  ∀ (b : UpdateBlock) scale g wv mv vv, finite mv = true → finite vv = true → finite wv = true →
    let q (x : Word) : Q := (num32 x).val
    let one := Q.int 1
    let x := updateElement b scale g wv mv vv
    let gc := if scale = 0x3F800000#32 then g else (productOf g scale).1
    let m1 := rneQ (((q b.beta1).mul (q mv)).add ((one.sub (q b.beta1)).mul (q gc)))
    let v1 := rneQ (((q b.beta2).mul (q vv)).add (((one.sub (q b.beta2)).mul (q gc)).mul (q gc)))
    let mh := rneQ ((q m1).mul (q b.c1))
    let vh := rneQ ((q v1).mul (q b.c2))
    let kept (nonfin clamped zeroden : Bool) : Element := { new := none, nonfin, clamped, zeroden }
    if finite m1 = false ∨ finite v1 = false ∨ finite mh = false ∨ finite vh = false then x = kept true false false
    else
      let below := (q vh).isNeg
      let den := rneQ ((q (sqrtRne (if below then 0#32 else vh))).add (q b.eps))
      let w1 := rneQ ((q wv).sub ((q b.lr).mul (((q mh).div (q den)).add ((q b.wd).mul (q wv)))))
      if (q den).isZero = true then x = kept false below true
      else if finite w1 = false then x = kept true below false
      else x = { new := some (w1, m1, v1), nonfin := false, clamped := below, zeroden := false }

/-- 29 R337: a PAIRFIX whose accesses are performed sets BUSY by a compare-and-swap of the generation word it has read,
writes the plain and the transposed copy of the master as it stands, and the word with its steps unchanged; a word that has
changed since ends it with TORN and nothing written; an access that fails once BUSY is set leaves TORN = 1. -/
def Sys2Proof.Claim.PairfixRewritesTheCopies : Prop :=
  ∀ s e j bs gen t, runningCard s e 3 = some (j, bs, gen) → gen < 2 ^ 64 → gen.testBit 62 = false →
    let b := UpdateBlock.parse bs
    let performs := Performs (.job j.serial) e j.ctx
    let ends (st cause ea : Nat) : Prop :=
      Happens (.jobPairfix e) s (setRunning t e (some { j with ended := some (st, cause, ea) }))
    (∀ gb, gb.length = 8 → (wordOfBytes 8 gb).toNat ≠ gen → performs [.gen b.gen gb] s t → ends 0xA 0x0C4 0) ∧
    ∀ (u : Nat → Word) (y : Nat → List Byte),
      let all : List Touch := [.gen b.gen (bytesOfWord 8 (BitVec.ofNat 64 gen)), .setGen b.gen (gen + 2 ^ 62) false] ++
        copyTouches b u y ++ [.setGen b.gen (gen % 2 ^ 48) true]
      (performs all s t → ends 0 0 0) ∧
      ∀ before touch rest s1 st cause ea, all = before ++ touch :: rest → 2 ≤ before.length → performs before s s1 →
        FailsAt (.job j.serial) e j.ctx s1 st cause ea touch →
        performs [.setGen b.gen (gen % 2 ^ 48 + 2 ^ 63) true] s1 t → ends st cause ea

/-- 29 R329, R330 and R333 to R337: RUN cards start their kernels and ended jobs are published; UPDATE and PAIRFIX cards read
their block, then, in a second step (the model's choice, log 42), work on their elements, their copies and the generation
word; the lowest bit of RUN's entry is cleared (log 55). -/
def Obligations.JobCardsRunOnTheirEngines : Prop :=
  Claim.RunsStartAndJobsPublish ∧ Claim.CardsReadTheirBlockFirst ∧ Claim.UpdateWorksOnItsElements ∧
  Claim.ElementsFollowTheFormulas ∧ Claim.PairfixRewritesTheCopies

/-- 29 R326 to R328 and R333: an instruction of an engine's hart retires with its effect: the register forms of the integer
and multiply instructions, ADDI, LUI, JAL and BEQ, LD and SD; ECALL ends the job with DONE; BSQ.START gives the lowest free
handle of a started sequence (which handle is the model's choice, log 86), or all ones with four outstanding; BSQ.POLL gives 0
while its sequence runs, 1, or 2 with its status, once it is done and 3 for a handle that names none; JCARD.LD gives a dword of
the card. What the RISC-V instructions compute is the family's (log 18, PRESUMED). -/
def Obligations.EngineHartsExecuteTheirInstructions : Prop :=
  let hart (s : State) (e : Nat) : Hart := (s.engine e).hart
  (∀ s e j s1 word len s2 h, runJob s e = some j → hartFetch s e j.ctx (hart s e).pc.toNat = .ok (s1, word, len) →
    rvExec s1 e j.ctx (hart s e) word len = .ok (s2, h) → Retires (.stackEngineInstruction e) s e h) ∧
  (∀ s e ctx h (rd rs1 rs2 : BitVec 5),
    let a := h.getX rs1.toNat
    let b := h.getX rs2.toNat
    let gives (f7 : BitVec 7) (f3 : BitVec 3) (v : BitVec 64) : Prop :=
      rvExec s e ctx h (rForm f7 rs2 rs1 f3 rd 0x33#7) 4 = .ok (s, past h rd v)
    gives 0#7 0#3 (a + b) ∧ gives 0x20#7 0#3 (a - b) ∧ gives 0#7 1#3 (a <<< (b.toNat % 64)) ∧
    gives 0#7 2#3 (if a.slt b then 1#64 else 0#64) ∧ gives 0#7 3#3 (if a.ult b then 1#64 else 0#64) ∧ gives 0#7 4#3 (a ^^^ b) ∧
    gives 0#7 5#3 (a >>> (b.toNat % 64)) ∧ gives 0x20#7 5#3 (a.sshiftRight (b.toNat % 64)) ∧ gives 0#7 6#3 (a ||| b) ∧
    gives 0#7 7#3 (a &&& b) ∧ gives 1#7 0#3 (a * b) ∧
    gives 1#7 5#3 (if b = 0#64 then BitVec.allOnes 64 else a / b) ∧ gives 1#7 7#3 (if b = 0#64 then a else a % b)) ∧
  (∀ s e ctx h (rd rs1 : BitVec 5) (imm : BitVec 12), rvExec s e ctx h (imm ++ rs1 ++ 0#3 ++ rd ++ 0x13#7).toNat 4 =
    .ok (s, past h rd (h.getX rs1.toNat + imm.signExtend 64))) ∧
  (∀ s e ctx h (rd : BitVec 5) (imm : BitVec 20), rvExec s e ctx h (imm ++ rd ++ 0x37#7).toNat 4 =
    .ok (s, past h rd ((imm ++ 0#12).signExtend 64))) ∧
  (∀ s e ctx h (rd : BitVec 5) (i20 : BitVec 1) (i10 : BitVec 10) (i11 : BitVec 1) (i19 : BitVec 8),
    rvExec s e ctx h (i20 ++ i10 ++ i11 ++ i19 ++ rd ++ 0x6F#7).toNat 4 =
      .ok (s, { h with pc := h.pc + (i20 ++ i19 ++ i11 ++ i10 ++ 0#1).signExtend 64 }.setX rd.toNat (h.pc + 4#64))) ∧
  (∀ s e ctx (h : Hart) (rs1 rs2 : BitVec 5) (i12 : BitVec 1) (i10 : BitVec 6) (i4 : BitVec 4) (i11 : BitVec 1),
    rvExec s e ctx h (i12 ++ i10 ++ rs2 ++ rs1 ++ 0#3 ++ i4 ++ i11 ++ 0x63#7).toNat 4 =
      .ok (s, { h with pc := h.pc + (if h.getX rs1.toNat = h.getX rs2.toNat then (i12 ++ i11 ++ i10 ++ i4 ++ 0#1).signExtend 64
        else 4#64) })) ∧
  (∀ s e ctx h (rd rs1 : BitVec 5) (imm : BitVec 12) bs,
    let a := (h.getX rs1.toNat + imm.signExtend 64).toNat
    ∀ t, a % 8 = 0 → (hart s e).machine = false → ReadsAs (hartAgent s e) e ctx a 8 false bs s t → bs.length = 8 →
    rvExec s e ctx h (imm ++ rs1 ++ 3#3 ++ rd ++ 0x03#7).toNat 4 = .ok (t, past h rd (wordOfBytes 8 bs))) ∧
  (∀ s e ctx (h : Hart) (rs1 rs2 : BitVec 5) (i11 : BitVec 7) (i4 : BitVec 5) t,
    let a := (h.getX rs1.toNat + (i11 ++ i4).signExtend 64).toNat
    a % 8 = 0 → (hart s e).machine = false →
    WritesAs (hartAgent s e) e ctx a (bytesOfWord 8 (h.getX rs2.toNat)) false s t →
    rvExec s e ctx h (i11 ++ rs2 ++ rs1 ++ 3#3 ++ i4 ++ 0x23#7).toNat 4 = .ok (t, { h with pc := h.pc + 4#64 })) ∧
  (∀ s e j s1, runJob s e = some j → hartFetch s e j.ctx (hart s e).pc.toNat = .ok (s1, 0x73, 4) →
    ∃ t, Happens (.stackEngineInstruction e) s t ∧ (t.engine e).running = some { j with ended := some (0, 0, 0) }) ∧
  (∀ s e j rd rs1, s.near.turn = some e → runJob s e = some j →
    (4 ≤ (hart s e).handles.length →
      Retires (.bsqStart rd rs1) s e (past (hart s e) rd (BitVec.allOnes 64))) ∧
    (∀ s1 args xs ys n, (hart s e).handles.length < 4 →
      readDescriptor s e j.ctx ((hart s e).getX rs1.toNat).toNat = .ok (s1, args) → nth args 2 < 2 ^ 40 →
      checkRows s1 (.job j.serial) e j.ctx (nth args) = .ok xs ys →
      (List.range 4).find? (fun k => ((hart s e).handles.get k).isNone) = some n →
      Retires (.bsqStart rd rs1) s e
        { past (hart s e) rd (BitVec.ofNat 64 n) with handles := (hart s e).handles.set n s.serial })) ∧
  (∀ s e j rd rs1, s.near.turn = some e → runJob s e = some j →
    let k := (hart s e).handles.get ((hart s e).getX rs1.toNat).toNat
    (k = none → Retires (.bsqPoll rd rs1) s e (past (hart s e) rd 3#64)) ∧
    (∀ n q, k = some n → sequenceOf s n = some q → q.finished = false →
      Retires (.bsqPoll rd rs1) s e (past (hart s e) rd 0#64)) ∧
    (∀ n q, k = some n → sequenceOf s n = some q → q.finished = true →
      let v := if q.status ≠ 0 then 2 + 256 * q.status else if q.poisoned then 2 + 256 * 2 else 1
      Retires (.bsqPoll rd rs1) s e
        { past (hart s e) rd (BitVec.ofNat 64 v) with
          handles := (hart s e).handles.erase ((hart s e).getX rs1.toNat).toNat })) ∧
  (∀ s e j rd rs1, s.near.turn = some e → runJob s e = some j →
    Retires (.jcardLd rd rs1) s e
      (past (hart s e) rd (j.card.getD (((hart s e).getX rs1.toNat).toNat % 8) 0#64)))

/-- 29 R338 to R341: a SCALEADD starts a sequence of its rows by bank; at a row boundary a bank's row of y becomes
ax + y, element by element with one rounding; a poisoned granule of x or of y poisons the y granule it feeds, whose bytes stay,
and stops the bank after the row; else the bank goes on to its next row, or suspends for a request or for retraining; a suspended
bank resumes when no request waits; a finished sequence ends its job. -/
def Obligations.BankUnitsScaleAndAddTheirRows : Prop :=
  (∀ s e j xs ys, nextCard s e 2 = some j → checkRows s (.job j.serial) e j.ctx j.arg = .ok xs ys →
    ∃ t q, Happens (.jobScaleadd e) s t ∧ (t.engine e).running = some { j with begun := true, sequence := some s.serial } ∧
      t.near.sequences = s.near.sequences ++ [q] ∧ q.number = s.serial ∧ q.engine = e ∧ q.xs = xs ∧ q.ys = ys ∧
      q.scalar = (j.card.getD 5 0#64).setWidth 32 ∧ q.finished = false ∧
      ∀ b ∈ q.banks, b.suspended = false ∧ b.retrained = false ∧ b.stopped = false ∧
        ∀ r, r ∈ b.rows ↔ r < ys.length ∧ bankOfPa s (nth ys r) = b.bank) ∧
  (∀ s e j st cause at', nextCard s e 2 = some j → checkRows s (.job j.serial) e j.ctx j.arg = .bad st cause at' →
    ∃ t, Happens (.jobScaleadd e) s t ∧
      (t.engine e).running = some { j with ended := some (st, cause, at'), begun := true }) ∧
  (∀ s number bank waited q b r rest, sequenceOf s number = some q →
    q.banks.find? (fun b => b.bank = bank && !b.suspended && !b.retrained && !b.stopped) = some b → b.rows = r :: rest →
    let x := nth q.xs r
    let y := nth q.ys r
    x % 16 = 0 → y % 16 = 0 → r ∉ q.spoiled → (∀ k, k < q.xs.length → k ≠ r → nth q.xs k ≠ y ∧ nth q.ys k ≠ x) →
    MemGood s.mem →
    let bad (a : Nat) : Bool := s.mem.poisonAt (x + (a - y)) || s.mem.poisonAt a
    let inRow (a : Nat) : Prop := y ≤ a ∧ a < y + 1024
    let spoilt : Prop := ∃ a, inRow a ∧ bad a = true
    let word (a : Nat) : Word := wordOfBytes 4 ((List.range 4).map fun k => s.mem.ram.read (a + k))
    ∃ t q', Happens (.bankRowBoundary number bank waited) s t ∧ t.crews = s.crews ∧
      (∀ a, t.mem.poisonAt a = true ↔ s.mem.poisonAt a = true ∨ (inRow a ∧ bad a = true)) ∧
      (∀ a, t.mem.ram.read a = if inRow a ∧ bad a = false then
          let o := (a - y) / 4 * 4
          ((rounded (FNum.sum [num32 (word (y + o)), FNum.mul (num32 q.scalar) (num32 (word (x + o)))]) false []).1).extractLsb' (8 * ((a - y) % 4)) 8
        else s.mem.ram.read a) ∧
      sequenceOf t number = some q' ∧ (q'.poisoned = true ↔ q.poisoned = true ∨ spoilt) ∧
      ∀ z ∈ q'.banks, z.bank = bank → z.rows = rest ∧ (z.stopped = true ↔ spoilt) ∧
        (z.suspended = true ↔ rest ≠ [] ∧ ¬ spoilt ∧ waited = true) ∧
        (z.retrained = true ↔ rest ≠ [] ∧ ¬ spoilt ∧ (s.near.retrain.get q.stack).isSome)) ∧
  (∀ s number bank served waiting q, sequenceOf s number = some q → (∃ b ∈ q.banks, b.bank = bank ∧ b.suspended = true) →
    s.near.retrain.get q.stack = none → waiting = false ∨ 8 ≤ served →
    ∃ t q', Happens (.bankSequenceResume number bank served waiting) s t ∧ sequenceOf t number = some q' ∧ t.mem = s.mem ∧
      ∀ b ∈ q'.banks, b.bank = bank → b.suspended = false) ∧
  (∀ s q j, s.near.sequences.find? (fun q => q.isOver && !q.finished) = some q → (s.engine q.engine).running = some j →
    j.sequence = some q.number → q.dropped = false → q.spoiled = [] →
    ∃ t, Happens .bankSequenceDone s t ∧
      (t.engine q.engine).running = some { j with ended := some (if q.poisoned then (2, 0x047, 0) else (0, 0, 0)) } ∧
      (∀ x ∈ t.near.sequences, x.number ≠ q.number) ∧ t.mem.ram = s.mem.ram)

/-! ## Requests from outside, errors, repair, firmware, power and time (chapters 1, 5, 27 and 31) -/

namespace Sys2Proof.Claim

open Sys2Proof.Machine

/-- A memory an inbound or hart access reaches: HBM, the capacity tier or the fabric (11 R131). -/
def IsMemory (s : State) (pa : Nat) : Prop := s.sys.target pa = .hbm ∨ s.sys.target pa = .capacity ∨ s.sys.target pa = .fabric

/-- A request of a device behind a root port of the partition that the port takes: no DPC contains the port, source validation
passes it, and it is no MSI (31 R348). -/
structure Arrives (s : State) (r : InboundRequest) : Prop where
  port : ∃ p ∈ s.sys.record.ports, p.1 = r.port
  free : s.sys.contained r.port = false
  valid : (s.sys.rootPort r.port).controls.validate = true → r.valid = true
  memory : r.msi = none

/-- Pieces that lie in no window, or in one to which ACS lets a request of the port pass (31 R348). -/
def PassesTo (s : State) (port : Nat) (ms : List (Mapped × Nat)) : Prop :=
  ∀ m ∈ ms, ∀ p, s.sys.target m.1.pa = .window p → s.sys.peerAllowed port p = true

end Sys2Proof.Claim

/-- 31 R348 and R349: a request with a PASID of 16 or above is logged and refused; a translated request writes its bytes
at their home or reads them; one that is not is translated in its context, refused where that fails, and waits where it meets
a capacity PTE, whose migration it starts; an ATS request gets the address with its permissions or no access. -/
def Sys2Proof.Claim.RequestsReachMemoryThroughTheirContexts : Prop :=
  (∀ s (r : InboundRequest) n, Arrives s r → r.pasid = some n → 16 ≤ n →
    ∃ t, Happens (.inboundRequest r) s t ∧ WorkKept s t ∧ t.out = .pcie r.port false [] :: .aer r.port :: s.out) ∧
  (∀ s (r : InboundRequest) n bs, Arrives s r → r.pasid = some n → n < 16 → bs ≠ [] →
    r.translated = true → r.write = some bs → IsMemory s r.addr → IsMemory s (r.addr + bs.length - 1) →
    s.mem.isRevoked r.addr = false → s.mem.isRevoked (r.addr + bs.length - 1) = false →
    ∃ t, Happens (.inboundRequest r) s t ∧ t.crews = s.crews ∧ t.out = .pcie r.port true [] :: s.out ∧
      (s.sys.target r.addr ≠ .fabric → t.mem.ram = s.mem.ram) ∧
      (MemGood s.mem → ∀ j, j < bs.length → t.mem.home (r.addr + j) = bs.getD j 0#8)) ∧
  (∀ s (r : InboundRequest) n, Arrives s r → r.pasid = some n → n < 16 →
    r.translated = true → r.write = none → IsMemory s r.addr → IsMemory s (r.addr + r.count - 1) →
    s.mem.isRevoked r.addr = false → s.mem.isRevoked (r.addr + r.count - 1) = false → s.mem.poisonIn r.addr r.count = false →
    ∃ t, Happens (.inboundRequest r) s t ∧ WorkKept s t ∧
      t.out = .pcie r.port true ((List.range r.count).map fun k => s.mem.home (r.addr + k)) :: s.out) ∧
  (∀ s (r : InboundRequest) n, Arrives s r → r.pasid = some n → n < 16 →
    r.translated = false → r.write = none →
    let met := meet s (portCore r.port) n r.addr r.count .load
    (∀ c, met = .bad c → ∃ t, Happens (.inboundRequest r) s t ∧ WorkKept s t ∧ t.out = .pcie r.port false [] :: s.out) ∧
    (∀ ms, met = .ok ms → PassesTo s r.port ms → piecesPoisoned s ms = false →
      ∃ t, Happens (.inboundRequest r) s t ∧ t.crews = s.crews ∧ t.mem.ram = s.mem.ram ∧
        t.out = .pcie r.port true (readPieces s (portCore r.port) ms) :: s.out) ∧
    (∀ p a b, met = .park p a b → unreadFor s (.port r.port) a b = false → r ∉ s.sys.inbound →
      ∃ t, Happens (.inboundRequest r) s t ∧ t.crews = s.crews ∧ r ∈ t.sys.inbound ∧ migrating t 0 a b = true)) ∧
  (∀ s (r : InboundRequest) n bs s1 ds ls pa, Arrives s r → r.pasid = some n → n < 16 →
    r.translated = false → r.write = some bs →
    engineWrite s (.port r.port) (portCore r.port) n r.addr bs = (s1, .bytes ds ls pa) →
    (∀ ms, engineMeet s (portCore r.port) n r.addr bs.length = .ok ms → PassesTo s r.port ms) →
    ∃ t, Happens (.inboundRequest r) s t ∧ t.crews = s1.crews ∧ t.mem = s1.mem ∧ t.out = .pcie r.port true [] :: s1.out) ∧
  (∀ s (r : AtsRequest) n, (∃ p ∈ s.sys.record.ports, p.1 = r.port) → s.sys.contained r.port = false → r.pasid = some n →
    let may (k : Access) (m : Mapped) : Prop := reach s (portCore r.port) n r.addr k = .ok m
    (16 ≤ n → ∃ t, Happens (.atsRequest r) s t ∧ WorkKept s t ∧ t.out = .ats r.port none :: .aer r.port :: s.out) ∧
    (n < 16 → (∀ m, may .load m → ∃ t w, Happens (.atsRequest r) s t ∧ t.crews = s.crews ∧ t.mem.ram = s.mem.ram ∧
        t.out = .ats r.port (some (m.pa, true, w)) :: s.out ∧ (w = true ↔ r.write = true ∧ ∃ m', may .store m')) ∧
      ((∀ m, ¬ may .load m) →
        ∃ t, Happens (.atsRequest r) s t ∧ WorkKept s t ∧ t.out = .ats r.port none :: s.out)))

/-- 31 R346 and R348: what a port's controls do: a request that source validation fails is refused and logged, an MSI makes
its identity pending in its interrupt file, a request to another port's window passes to its device as redirect and egress
control allow, and an error a port logs contains it where DPC asks for it, so that nothing more arrives, until a hart releases
it. The controls are as the hart sets them (log 90, the model's choice of their form); the BMC reads the health block and
writes HLTHIRQ; a hart reaches the configuration and CXL register space of its partition's ports alone. -/
def Sys2Proof.Claim.PortsKeepTheirControls : Prop :=
  (∀ s (r : InboundRequest) n, (∃ p ∈ s.sys.record.ports, p.1 = r.port) → portCtx s r.port r.pasid = some n →
    (s.sys.contained r.port = true → exec (.inboundRequest r) s = .refused (.notEnabled "INBOUND_REQUEST")) ∧
    (s.sys.contained r.port = false → (s.sys.rootPort r.port).controls.validate = true → r.valid = false →
      ∃ t, Happens (.inboundRequest r) s t ∧ WorkKept s t ∧ t.out = .pcie r.port false [] :: .aer r.port :: s.out ∧
        t.sys.contained r.port = decide ((s.sys.rootPort r.port).controls.dpc = 2)) ∧
    (∀ hart file id, s.sys.contained r.port = false → ((s.sys.rootPort r.port).controls.validate = true → r.valid = true) →
      r.msi = some (hart, file, id) → hart ∈ s.sys.record.harts → file < 9 → 1 ≤ id → id < 2048 →
      ∃ t, Happens (.inboundRequest r) s t ∧ WorkKept s t ∧ t.out = .msi hart id :: s.out ∧
        ((t.imsicFile hart file).pending.get id).isSome = true) ∧
    (∀ p, Arrives s r → n < 16 → r.translated = true → s.sys.target r.addr = .window p →
      let c := (s.sys.rootPort r.port).controls
      let passes : Prop := if r.port = p then c.forward = true else c.redirect = true ∨ ¬ (c.egress = true ∧ p ∈ c.barred)
      (¬ passes → ∃ t, Happens (.inboundRequest r) s t ∧ WorkKept s t ∧
        t.out = .pcie r.port false [] :: .aer r.port :: s.out) ∧
      (passes → s.sys.contained p = false →
        (∀ bs, r.write = some bs → Happens (.inboundRequest r) s ((s.emit (.io r.addr bs)).emit (.pcie r.port true []))) ∧
        (r.write = none → ∃ t bs, Happens (.inboundRequest r) s t ∧ WorkKept s t ∧ bs.length = r.count ∧
          t.out = .pcie r.port true bs :: s.out)))) ∧
  (∀ s (a : HartAccess), s.sys.ready = true → a.hart ∈ s.sys.record.harts → a.width ∈ [1, 2, 4, 8] →
    (∀ x, a.op = .portControls x → (∃ p ∈ s.sys.record.ports, p.1 = a.pa) →
      ∃ t, Happens (.hartMemoryAccess a) s t ∧ WorkKept s t ∧ (t.sys.rootPort a.pa).controls = x) ∧
    (a.op = .portRelease → ∃ t, Happens (.hartMemoryAccess a) s t ∧ WorkKept s t ∧ t.sys.contained a.pa = false) ∧
    (a.op = .load → s.sys.target a.pa = .system → regSlot s.sys (a.pa / 8 * 8) = none →
      let reaches : Prop :=
        (∃ p ∈ s.sys.record.ports, (a.pa - 0xF000010000000) / 2 ^ 28 = p.1 ∧ 0xF000010000000 ≤ a.pa) ∨
        ∃ q ∈ s.sys.record.hosts, (a.pa - 0xF000050000000) / 2 ^ 20 = q ∧ 0xF000050000000 ≤ a.pa
      (¬ reaches → Happens (.hartMemoryAccess a) s s) ∧
      (reaches → ∃ v, Happens (.hartMemoryAccess a) s (s.emit (.hart a.hart v))))) ∧
  (∀ s (a : HartAccess), a.op = .bmcRead →
    Happens (.hartMemoryAccess a) s (s.emit (.mctp (BitVec.ofNat 64 (readSlot s (.health (a.pa / 8 * 8))))))) ∧
  (∀ s (a : HartAccess) v, a.op = .bmcWrite v → a.pa / 8 * 8 = 0x10 →
    ∃ t, Happens (.hartMemoryAccess a) s t ∧ WorkKept s t ∧ t.sys.hlthHart = v.setWidth 12 ∧ t.sys.hlthId = (v >>> (12 : Nat)).setWidth 12)

/-- 31 R344, R346 and R350: a load, store, atomic or reserved access of a hart of the partition, once the module is up, acts
on the home of its bytes and answers what it read, an atomic where it is aligned (log 87, PRESUMED); a load of a register at supervisor privilege reads it; a committed decoder
and a taken extent map their range. -/
def Sys2Proof.Claim.HartsActOnTheHomeOfTheirBytes : Prop :=
  (∀ s (a : HartAccess), s.sys.ready = true → a.hart ∈ s.sys.record.harts → a.width ∈ [1, 2, 4, 8] →
    (∀ k, k < a.width → IsMemory s (a.pa + k) ∧ s.mem.isRevoked (a.pa + k) = false) →
    (a.pa % a.width = 0 ∨ a.op = .load ∨ ∃ v, a.op = .store v) → s.mem.poisonIn a.pa a.width = false → MemGood s.mem →
    let n := 8 * a.width
    let old : BitVec n := wordOfBytes a.width (s.mem.homeBytes a.pa a.width)
    let held := s.sys.reservations.get a.hart = some (a.pa / 64)
    -- the hart hears v, and the bytes at home become those of a new value, or stay
    let answers (v : Option (BitVec 64)) (new : Option (BitVec n)) : Prop :=
      ∃ t, Happens (.hartMemoryAccess a) s t ∧ t.crews = s.crews ∧ t.cores = s.cores ∧
        (s.near.engines = [] → s.near.sequences = [] → t.near = s.near) ∧
        ((∀ k, k < a.width → s.sys.target (a.pa + k) ≠ .fabric) → t.mem.ram = s.mem.ram) ∧
        t.out = (match v with | some v => [.hart a.hart v] | none => []) ++ s.out ∧
        (match new with
         | none => t.mem = s.mem
         | some x => t.mem.homeBytes a.pa a.width = bytesOfWord a.width x) ∧
        (a.op = .lr → t.sys.reservations.get a.hart = some (a.pa / 64)) ∧
        ∀ v, a.op = .sc v → Map.sorted s.sys.reservations = true → t.sys.reservations.get a.hart = none
    let read : Option (BitVec 64) := some (old.setWidth 64)
    let updates (x : BitVec n) : Prop := answers read (some x)
    match a.op with
    | .load => answers read none
    | .lr => answers read none
    | .store v => answers none (some (v.setWidth n))
    | .amoAdd v => updates (old + v.setWidth n)
    | .amoSwap v => updates (v.setWidth n)
    | .amoAnd v => updates (old &&& v.setWidth n)
    | .amoOr v => updates (old ||| v.setWidth n)
    | .amoXor v => updates (old ^^^ v.setWidth n)
    | .amoMin v => updates (if old.sle (v.setWidth n) then old else v.setWidth n)
    | .amoMax v => updates (if old.sle (v.setWidth n) then v.setWidth n else old)
    | .amoMinu v => updates (if old.ule (v.setWidth n) then old else v.setWidth n)
    | .amoMaxu v => updates (if old.ule (v.setWidth n) then v.setWidth n else old)
    | .amoCas e x => if old.toNat = e.toNat then updates (x.setWidth n) else answers read none
    | .sc v => if held then answers (some 0#64) (some (v.setWidth n)) else answers (some 1#64) none
    | .fence => ∃ t, Happens (.hartMemoryAccess a) s t ∧ WorkKept s t ∧ t.out = s.out ∧
        t.sys.orders.get a.hart = some ((s.sys.order a.hart).fenced true true)
    | .fenceAcq => ∃ t, Happens (.hartMemoryAccess a) s t ∧ WorkKept s t ∧ t.out = s.out ∧
        t.sys.orders.get a.hart = some ((s.sys.order a.hart).fenced true false)
    | .fenceRel => ∃ t, Happens (.hartMemoryAccess a) s t ∧ WorkKept s t ∧ t.out = s.out ∧
        t.sys.orders.get a.hart = some ((s.sys.order a.hart).fenced false true)
    | .hdmDecoder _ _ _ _ => True
    | .extentAdd _ _ => True
    | .extentRelease _ _ => True
    | .portControls _ => True
    | .portRelease => True
    | .bmcRead => True
    | .bmcWrite _ => True
    | .imsic _ _ _ => True
    | .topei _ _ => True
    | .mapped _ _ => True) ∧
  (∀ s (a : HartAccess) r, s.sys.ready = true → a.hart ∈ s.sys.record.harts → a.width ∈ [1, 2, 4, 8] → a.op = .load →
    s.sys.target a.pa = .system → regSlot s.sys (a.pa / 8 * 8) = some r →
    Happens (.hartMemoryAccess a) s (if a.supervisor then
      s.emit (.hart a.hart (BitVec.ofNat 64 (readSlot s r / 2 ^ (8 * (a.pa % 8)) % 2 ^ (8 * a.width)))) else s)) ∧
  (∀ s (a : HartAccess) n base size dynamic, s.sys.ready = true → a.hart ∈ s.sys.record.harts → a.width ∈ [1, 2, 4, 8] →
    a.op = .hdmDecoder n base size dynamic → a.pa ∈ s.sys.record.hosts → n < 8 → 2 ^ 48 ≤ base → base + size ≤ 2 ^ 49 →
    ∃ t, Happens (.hartMemoryAccess a) s t ∧ WorkKept s t ∧
      (∀ d, d ∈ t.sys.decoders ↔ d = { port := a.pa, n := n, base := base, size := size, dynamic := dynamic } ∨
        (d ∈ s.sys.decoders ∧ ¬ (d.port = a.pa ∧ d.n = n)))) ∧
  (∀ s (a : HartAccess) base size, s.sys.ready = true → a.hart ∈ s.sys.record.harts → a.width ∈ [1, 2, 4, 8] →
    (a.op = .extentAdd base size → ∃ t, Happens (.hartMemoryAccess a) s t ∧ WorkKept s t ∧
      ∀ x, (∃ e ∈ t.sys.extents, e.base ≤ x ∧ x < e.base + e.size) ↔
        (base ≤ x ∧ x < base + size) ∨ ∃ e ∈ s.sys.extents, e.base ≤ x ∧ x < e.base + e.size) ∧
    (a.op = .extentRelease base size → (∀ x, base ≤ x → x < base + size → s.mem.l2.get x = none) → Map.sorted s.mem.l2 = true →
      ∃ t, Happens (.hartMemoryAccess a) s t ∧ WorkKept s t ∧ t.out = s.out ∧
        ∀ x, (∃ e ∈ t.sys.extents, e.base ≤ x ∧ x < e.base + e.size) ↔
          ¬ (base ≤ x ∧ x < base + size) ∧ ∃ e ∈ s.sys.extents, e.base ≤ x ∧ x < e.base + e.size))

/-- 31 R344: an access of a hart at an address that its tables translate is that at the physical address, and one that they do not translate changes nothing;
a leaf of the root of Sv57 maps 2^48 bytes whatever its bits 60 to 54 hold; an interrupt file's registers hold what is
written, and a claim of its top identity, the lowest one pending and enabled below the threshold, ends that (the walk and
the registers follow the RISC-V specifications, log 87, PRESUMED). -/
def Sys2Proof.Claim.HartsTranslateAndClaim : Prop :=
  (∀ s (a : HartAccess) w op, s.sys.ready = true → a.hart ∈ s.sys.record.harts → a.width ∈ [1, 2, 4, 8] → w.levels ∈ [3, 4, 5] →
    a.op = .mapped w op → hartAccesses op = true → a.pa / 4096 = (a.pa + a.width - 1) / 4096 →
    match hartPlace s w a.supervisor (hartReads op) (hartWrites op) a.pa with
    | some pa => exec (.hartMemoryAccess a) s = exec (.hartMemoryAccess { a with op := op, pa := pa }) s
    | none => Happens (.hartMemoryAccess a) s s) ∧
  (∀ s w supervisor reads writes va root, w.levels = 5 → w.first = some root → w.guest = none → va < 2 ^ 56 →
    let at' := root * 4096 + 8 * (va / 2 ^ 48)
    let pte : BitVec 64 := BitVec.ofNat 64 (bytesNat (s.mem.homeBytes at' 8))
    IsMemory s at' → s.mem.isRevoked at' = false → s.mem.poisonIn at' 8 = false →
    (pteBit pte 0 = false → hartPlace s w supervisor reads writes va = none) ∧
    (pteBit pte 0 = true → pteBit pte 1 = true → pteBit pte 2 = true → pteBit pte 6 = true → pteBit pte 7 = true →
      pteBit pte 61 = false → pteBit pte 63 = false → ptePpn pte % 2 ^ 36 = 0 →
      hartPlace s w supervisor reads writes va =
        if pteBit pte 4 = !supervisor ∨ (supervisor = true ∧ w.sum = true) then some (ptePpn pte * 4096 + va % 2 ^ 48)
        else none)) ∧
  (∀ s (a : HartAccess) file, s.sys.ready = true → a.hart ∈ s.sys.record.harts → a.width ∈ [1, 2, 4, 8] →
    a.supervisor = true → file < 9 → Map.sorted (s.imsicFile a.hart file).pending = true →
    let x := s.imsicFile a.hart file
    let on (id : Nat) : Prop :=
      (x.pending.get id).isSome = true ∧ (x.enabled.get id).isSome = true ∧ (x.threshold = 0 ∨ id < x.threshold)
    (∀ id claims, a.op = .topei file claims → on id → (∀ j, j < id → ¬ on j) →
      ∃ t, Happens (.hartMemoryAccess a) s t ∧ WorkKept s t ∧ t.out = .hart a.hart (BitVec.ofNat 64 (id * 65537)) :: s.out ∧
        (claims = true → (t.imsicFile a.hart file).pending.get id = none)) ∧
    (∀ claims, a.op = .topei file claims → (∀ id, ¬ on id) →
      ∃ t, Happens (.hartMemoryAccess a) s t ∧ WorkKept s t ∧ t.out = .hart a.hart 0#64 :: s.out) ∧
    (∀ v, a.op = .imsic file 0x72 (some v) → ∃ t, Happens (.hartMemoryAccess a) s t ∧ WorkKept s t ∧ t.out = s.out ∧
      (t.imsicFile a.hart file).threshold = v.toNat % 2048) ∧
    (∀ v, a.op = .imsic file 0xC0 (some v) → Map.sorted x.enabled = true →
      ∃ t, Happens (.hartMemoryAccess a) s t ∧ WorkKept s t ∧ t.out = s.out ∧
        ∀ id, 0 < id → id < 64 → ((t.imsicFile a.hart file).enabled.get id).isSome = v.getLsbD id))

/-- 31 R344, R346 and R348 to R350: requests of PCIe devices and accesses of Umadioz harts reach memory through their
contexts and at the home of its bytes, under the controls of the root ports. The model's choices: decoders and extents as
operations of a hart, log 30; die 0's fault unit for a port, log 73; the request kept while it waits, log 92; the accesses that
are refused, log 62; what of a hart stands in the model, log 87. -/
def Obligations.OutsideAgentsReachMemoryThroughTheirContexts : Prop :=
  Claim.RequestsReachMemoryThroughTheirContexts ∧ Claim.PortsKeepTheirControls ∧ Claim.HartsActOnTheHomeOfTheirBytes ∧
    Claim.HartsTranslateAndClaim

/-- 27 R320, 05 R74 and 23 R280: an error of a PC table, convergence register or token loses its crew, and every live thread
enters with 0x104 at its PC; one of a return stack, a slot, a joint register, a team's barrier, scratchpad or an accumulator
marks what it strikes; one of an instruction cache or of a clean line changes no byte a core sees, and one of a dirty line
poisons its granule in L2. -/
def Sys2Proof.Claim.StorageErrorsStayContained : Prop :=
  (∀ s key c e, e ∈ [SoftError.pcTable key, .convergence key, .token key] → s.crews.get key = some c →
    (s.context (ctxOf s c)).hen = true → (∀ l ∈ c.liveLanes, (c.thread l).handler = false ∧ (c.thread l).wait = .awake) →
    ∃ t d, Happens (.softError e) s t ∧ t.crews.get key = some d ∧ OthersKept key s t ∧ t.mem = s.mem ∧ d.lost = true ∧
      d.regs = c.regs ∧ ∀ l ∈ c.liveLanes, (d.thread l).handler = true ∧ (d.thread l).pc = (s.context (ctxOf s c)).hbase ∧
        ((d.thread l).h.getD 0 0#32).toNat % 2 ^ 16 = 0x104 ∧
        ((d.thread l).h.getD 2 0#32 ++ (d.thread l).h.getD 1 0#32).toNat = (c.thread l).pc.toNat) ∧
  (∀ s key lane k c th, s.crews.get key = some c → c.threads.get lane = some th → k < th.stack.length → k < 8 →
    th.stack.length ≤ 8 →
    ∃ t d, Happens (.softError (.returnStack key lane k)) s t ∧ t.crews.get key = some d ∧ OthersKept key s t ∧ t.mem = s.mem ∧
      d.regs = c.regs ∧ d.thread lane = { th with stack := (d.thread lane).stack } ∧
      ∀ j, (d.thread lane).stack[j]? = if j = k then (th.stack[j]?).map fun r => { r with poison := true } else th.stack[j]?) ∧
  (∀ s team core n x, s.tctxs.get (tctxKey team core) = some x →
    (∃ t y, Happens (.softError (.slot team core n)) s t ∧ t.crews = s.crews ∧ t.mem = s.mem ∧
      t.tctxs.get (tctxKey team core) = some { x with slots := y } ∧
      ∀ m, y.get m = if m = n then some { (x.slots.get n).getD .start with bad := true } else x.slots.get m) ∧
    (∃ t y, Happens (.softError (.joint team core n)) s t ∧ t.crews = s.crews ∧ t.mem = s.mem ∧
      t.tctxs.get (tctxKey team core) = some { x with joints := y } ∧
      ∀ m, y.get m = if m = n then some { (x.joints.get n).getD .empty with bad := true } else x.joints.get m)) ∧
  (∀ s team x, s.teams.get team = some x → ∃ t, Happens (.softError (.barrier team)) s t ∧ WorkKept s t ∧
    t.teams.get team = some { x with barBad := true }) ∧
  (∀ s core line, MemGood s.mem → ∃ t, Happens (.softError (.icache core line)) s t ∧ t.crews = s.crews ∧
    (∀ c a, t.mem.seen c a = s.mem.seen c a) ∧ ∀ a, a < 2 ^ 52 → a / 128 = line → t.mem.icache.get (2 ^ 52 * core + a) = none) ∧
  (∀ s core granule, MemGood s.mem → granule < 2 ^ 48 → ∃ t, Happens (.softError (.l1 core granule)) s t ∧ t.crews = s.crews ∧
    let dirty : Prop := ∃ a, a / 16 = granule ∧ (s.mem.l1.get (2 ^ 52 * core + a)).isSome = true
    (¬ dirty → t.mem = s.mem) ∧
    (dirty → (∀ a, a < 2 ^ 52 → t.mem.poisonAt a = (s.mem.poisonAt a || decide (a / 16 = granule))) ∧
      ∀ a, a / 16 = granule → t.mem.home a = s.mem.seen core a)) ∧
  (∀ s core granule, core < 256 → granule < 2 ^ 15 → ∃ t, Happens (.softError (.scratch core granule)) s t ∧ t.crews = s.crews ∧
    t.mem.scratch = s.mem.scratch ∧ ∀ b, t.mem.scratchPoisoned b 1 =
      (s.mem.scratchPoisoned b 1 || decide (b / 16 = core * 2 ^ 15 + granule))) ∧
  (∀ s core tile row k, core < 256 → tile < 64 → row < 64 → k < 16 → ∃ t, Happens (.softError (.accumulator core tile row k)) s t ∧
    t.crews = s.crews ∧ t.mem.acc = s.mem.acc ∧ ∀ g, t.mem.accPoison.get g =
      if g = ((core * 64 + tile) * 64 + row) * 16 + k then some () else s.mem.accPoison.get g)

/-- 31 R356: what HEALTH reads, and when its bits [4:1] are set: by a corrected error above its limit, the last spare slice of
a die, the last spare of a stack, and a retired core after which some cluster has fewer than 16. -/
def Sys2Proof.Claim.HealthShowsWhatIsLost : Prop :=
  (∀ s, let h := readSlot s (.health 0)
    let d := s.sys
    (h.testBit 0 = true ↔ d.tshare = true ∨ d.l2spare = true ∨ d.hbmspare = true ∨ d.cerate = true ∨ d.replace = true) ∧
    h.testBit 1 = d.tshare ∧ h.testBit 2 = d.l2spare ∧ h.testBit 3 = d.hbmspare ∧ h.testBit 4 = d.cerate ∧
    h.testBit 5 = d.ready ∧ h / 2 ^ 8 % 16 = d.stage.toNat ∧
    h / 2 ^ 16 % 32 = ((List.range (4 * d.dies)).filter fun c => (List.range 17).all fun n =>
      ((d.phys.get (c * 17 + n)).map PhysCore.retired).getD false = false).length % 32 ∧
    h / 2 ^ 24 % 64 = ((List.range d.dies).map fun die => (d.slices.get die).getD 8).foldl (· + ·) 0 % 64) ∧
  (∀ s field, field < 4 → s.sys.cecnt.length = 4 → ∃ t, Happens (.softError (.corrected field)) s t ∧
    (t.sys.cerate = true ↔ s.sys.cerate = true ∨ nth s.sys.record.limits field < nth t.sys.cecnt field) ∧
    (s.sys.cerate = false → t.sys.cerate = true → Output.bmc 4 ∈ t.out)) ∧
  (∀ s die, die < s.sys.dies → slicesLeft s.sys die ≠ 0 → ∃ t, Happens (.l2SliceReplace die) s t ∧
    (t.sys.l2spare = true ↔ s.sys.l2spare = true ∨ slicesLeft t.sys die = 0)) ∧
  (∀ s stack, stack < s.sys.stacks → (s.sys.hbmSpares.get stack).getD Config.hbmSpares ≠ 0 →
    ∃ t, Happens (.hbmSpare stack) s t ∧ (t.sys.hbmspare = true ↔ s.sys.hbmspare = true ∨ t.sys.hbmSpares.get stack = some 0)) ∧
  (∀ s cluster slot, cluster < 4 * s.sys.dies → slot < 17 →
    ((s.sys.phys.get (cluster * 17 + slot)).map PhysCore.retired).getD false = false → 8 < aliveIn s.sys cluster →
    (∀ e ∈ s.teams, ∀ c ∈ e.2.cores, serverOf s.sys c ≠ some (cluster * 17 + slot)) →
    ∃ t, Happens (.coreRetire cluster slot) s t ∧
      (t.sys.tshare = true ↔ s.sys.tshare = true ∨ ∃ c, c < 4 * s.sys.dies ∧ aliveIn t.sys c < 16))

/-- 01 R12, 05 R74, 27 R320 and 31 R356 to R358: an uncorrectable error poisons what it strikes of four lanes, where they are
live, of a register held as one entry, of a group register, or of a granule of memory; a corrected one counts; a core that holds a team is only kept from new ones; retiring a core, replacing an L2 slice and sparing HBM
use a spare each and change no data; the window's end clears the counts; platform time never falls; a power cap
inserts idle clocks. -/
def Sys2Proof.Claim.ErrorsRepairPowerAndTimeAct : Prop :=
  (∀ s key reg k c, s.crews.get key = some c → k < 8 →
    ∃ t d, Happens (.softError (.vreg key reg k)) s t ∧ t.crews.get key = some d ∧ OthersKept key s t ∧ t.mem = s.mem ∧
      t.cores = s.cores ∧ d.threads = c.threads ∧
      ∀ r l, l < 32 → d.regs.get (32 * r + l) =
        if r = reg ∧ l / 4 = k then (c.regs.get (32 * r + l)).map fun x => if x.live then { x with poison := true } else x
        else c.regs.get (32 * r + l)) ∧
  (∀ s key reg c, s.crews.get key = some c → (∀ l, l < 32 → c.isLive reg l = true ∧ c.word reg l = c.word reg 0) →
    ∃ t d, Happens (.softError (.uniform key reg)) s t ∧ t.crews.get key = some d ∧ OthersKept key s t ∧ t.mem = s.mem ∧
      t.cores = s.cores ∧ d.threads = c.threads ∧
      ∀ r l, l < 32 → d.regs.get (32 * r + l) =
        if r = reg then (c.regs.get (32 * r + l)).map fun x => { x with poison := true } else c.regs.get (32 * r + l)) ∧
  (∀ s key n c, s.crews.get key = some c →
    ∃ t d, Happens (.softError (.greg key n)) s t ∧ t.crews.get key = some d ∧ OthersKept key s t ∧ t.mem = s.mem ∧
      d.gregs.get n = some { val := c.greg n, poison := true } ∧ ∀ m, m ≠ n → d.gregs.get m = c.gregs.get m) ∧
  (∀ s g, IsMemory s (16 * g) →
    ∃ t, Happens (.softError (.memory g)) s t ∧ t.crews = s.crews ∧ t.mem.ram = s.mem.ram ∧ t.mem.l2 = s.mem.l2 ∧
      ∀ x, t.mem.poisonAt x = (s.mem.poisonAt x || decide (x / 16 = g))) ∧
  (∀ s field, field < 4 → s.sys.cecnt.length = 4 →
    ∃ t, Happens (.softError (.corrected field)) s t ∧ WorkKept s t ∧
      ∀ f, f < 4 → nth t.sys.cecnt f = if f = field then min 65535 (nth s.sys.cecnt f + 1) else nth s.sys.cecnt f) ∧
  (∀ s cluster slot, cluster < 4 * s.sys.dies → slot < 17 →
    ((s.sys.phys.get (cluster * 17 + slot)).map PhysCore.retired).getD false = false → 8 < aliveIn s.sys cluster →
    (∀ e ∈ s.teams, ∀ c ∈ e.2.cores, serverOf s.sys c ≠ some (cluster * 17 + slot)) →
    ∃ t, Happens (.coreRetire cluster slot) s t ∧ WorkKept s t ∧ t.teams = s.teams ∧ t.disp = s.disp ∧
      ((t.sys.phys.get (cluster * 17 + slot)).map PhysCore.retired) = some true) ∧
  (∀ s cluster slot, cluster < 4 * s.sys.dies → slot < 17 → s.sys.phys.get (cluster * 17 + slot) = none →
    8 < aliveIn s.sys cluster → (∃ e ∈ s.teams, ∃ c ∈ e.2.cores, c < 256 ∧ serverOf s.sys c = some (cluster * 17 + slot)) →
    ∃ t p, Happens (.coreRetire cluster slot) s t ∧ WorkKept s t ∧ t.teams = s.teams ∧ t.disp = s.disp ∧
      t.sys.phys.get (cluster * 17 + slot) = some p ∧ p.retiring = true ∧ p.retired = false ∧
      ∀ c, c < 256 → serverOf s.sys c = some (cluster * 17 + slot) → t.sys.isRetiring c = true) ∧
  (∀ s die, die < s.sys.dies → slicesLeft s.sys die ≠ 0 → Map.sorted s.mem.l2 = true → s.mem.ram.wf = true →
    ∃ t, Happens (.l2SliceReplace die) s t ∧ t.crews = s.crews ∧ t.cores = s.cores ∧ slicesLeft t.sys die = slicesLeft s.sys die - 1 ∧
      ∀ x, t.mem.home x = s.mem.home x) ∧
  (∀ s stack, stack < s.sys.stacks → (s.sys.hbmSpares.get stack).getD Config.hbmSpares ≠ 0 →
    ∃ t, Happens (.hbmSpare stack) s t ∧ WorkKept s t ∧
      t.sys.hbmSpares.get stack = some ((s.sys.hbmSpares.get stack).getD Config.hbmSpares - 1)) ∧
  (∀ s, s.sys.window + 2 ^ 32 ≤ s.clock →
    Happens .cecntWindow s (s.setSys { s.sys with cecnt := [0, 0, 0, 0], window := s.clock })) ∧
  (∀ s v, Happens (.platformTime v) s
    (s.setSys { s.sys with time := if v.toNat < s.sys.time.toNat then s.sys.time else v })) ∧
  (∀ s n, ∃ t, Happens (.powerCapExceeded n) s t ∧ WorkKept s t ∧ t.clock = s.clock ∧ t.teams = s.teams ∧ t.disp = s.disp ∧
    t.sys = { s.sys with idle := s.sys.idle + n })

/-- 01 R12, 05 R74, 27 R320 and 31 R356 to R358: errors of storage stay in what they strike, repair changes no data, HEALTH
shows what is lost, and power and time act. -/
def Obligations.ErrorsRepairPowerAndTimeAct : Prop :=
  Claim.ErrorsRepairPowerAndTimeAct ∧ Claim.StorageErrorsStayContained ∧ Claim.HealthShowsWhatIsLost

/-- 31 R354 and R355 with 13 R167: a reset, whenever it comes, begins at stage 1 with the record that was written last, the
clock at 0 and nothing of the run before it but the bytes of memory, which stage 5 writes; a step ends the stage that runs; stage 1 ends when image and record verify, else waits for a recovery image; the later stages follow in order and the last
sets READY; a record written meanwhile and a live firmware load change nothing else; an attestation answers with the measurements.
That a module reset keeps memory's bytes and clears what it clears is log 69, stage 5's zeros are log 5 (both the model's
choice). -/
def Obligations.TheModuleStartsByStages : Prop :=
  let verified (s : State) : Bool := Config.verified s.sys.image && Config.verified s.sys.record.digest
  let stageIs (s : State) (n : Nat) : Prop := s.sys.started = true ∧ s.sys.ready = false ∧ s.sys.recovery = false ∧ s.sys.stage.toNat = n
  (∀ s, ∃ t, Happens .moduleReset s t ∧ stageIs t 1 ∧ t.sys.record = s.sys.nextRecord ∧ t.sys.image = s.sys.image ∧
    t.clock = 0 ∧ t.crews = [] ∧ t.teams = [] ∧ t.tctxs = [] ∧ t.launches = [] ∧ t.cores = [] ∧ t.sleepers = [] ∧
    t.mem.ram = s.mem.ram ∧ t.mem.tlb = [] ∧ t.mem.icache = [] ∧ t.mem.sluice = [] ∧ t.mem.revoked = [] ∧
    t.disp = State.reset.disp ∧ t.near = State.reset.near) ∧
  (∀ s, stageIs s 1 → verified s = true → ∃ t, endStage s = some t ∧ stageIs t 2) ∧
  (∀ s, stageIs s 1 → verified s = false → ∃ t, endStage s = some t ∧ t.sys.stage = 1 ∧ t.sys.recovery = true) ∧
  (∀ s digest, s.sys.started = true → s.sys.ready = false → s.sys.recovery = true →
    Config.verified digest = true → Config.verified s.sys.record.digest = true →
    ∃ t, Happens (.recoveryImage digest) s t ∧ stageIs t 2 ∧ t.sys.image = digest) ∧
  (∀ s, stageIs s 2 → ∃ t, endStage s = some t ∧ stageIs t 3) ∧
  (∀ s, stageIs s 3 → (∀ c, c < 4 * s.sys.dies → 8 ≤ aliveIn s.sys c) → ∃ t, endStage s = some t ∧ stageIs t 4) ∧
  (∀ s, stageIs s 4 → ∃ t, endStage s = some t ∧ stageIs t 5) ∧
  (∀ s, stageIs s 5 → ∃ t, endStage s = some t ∧ t.sys.ready = true ∧ t.mem = State.reset.mem ∧ t.crews = s.crews ∧
    t.cores = s.cores ∧ t.near = s.near) ∧
  (∀ s t, s.sys.started = true → s.sys.ready = false → s.schedule = [] → dueResult s = none → endStage s = some t →
    step s = .next (settle s t)) ∧
  (∀ s r, Happens (.configurationRecordWrite r) s (s.setSys { s.sys with nextRecord := r })) ∧
  (∀ s d, Happens (.liveFirmwareLoad d) s (s.setSys { s.sys with umadioz := d })) ∧
  (∀ s nonce, ∃ t blocks, Happens (.attestationRequest nonce) s t ∧ WorkKept s t ∧ t.sys = s.sys ∧
    blocks = [Config.measure s.sys.image, Config.measure s.sys.record.digest, Config.measure s.sys.umadioz] ∧
    t.out = .spdm (Config.attest nonce blocks) blocks :: s.out)

/-! ## The encoding and the whole machine (chapters 3, 5, 7 and 31) -/

namespace Sys2Proof.Claim

open Sys2Proof.Machine

/-- The state in which exec meets the instruction of bytes bs that a group K of crew c has fetched (07 R78): the issue
group in progress, its PC noted as fetched. -/
def metBy (s : State) (key : Nat) (c : Crew) (K : GroupKey) (bs : List (Nat × Byte)) : State :=
  let ws := wordsOf (bs.map Prod.snd)
  (noteFetch s (coreOf key) (ctxOf s c) K.pc bs).setCur (some { startIssue key c K with
    next := K.pc + BitVec.ofNat 57 bs.length, h5 := ws.1, h6 := ws.2 })

/-- The step gives u, with the grant of the port on record when the group has issued (03 R41). -/
def StepIs (s : State) (key : Nat) (c : Crew) (portA : Bool) (u : State) : Prop :=
  ∃ v, step s = .next (settle s v) ∧ (v = u ∨ v = markPort u key portA) ∧
    (∀ d, u.crews.get key = some d → d.issues ≠ c.issues → v = markPort u key portA)

end Sys2Proof.Claim

/-- 07 R77 to R94 and 29 R328: decoding what a well-formed instruction encodes to gives it back, whatever bytes follow; and
whatever decodes is well-formed and encodes to the bytes it was read from. -/
def Obligations.DecodeAndEncodeAreInverse : Prop :=
  (∀ i n w rest, i.wellFormed = true → encode i = some (n, w) →
    (∀ rd rs1, i ≠ .bsqStart rd rs1 ∧ i ≠ .bsqPoll rd rs1 ∧ i ≠ .jcardLd rd rs1) →
    decode (Decode.leBytes n w ++ rest) = .ok (i, rest)) ∧
  (∀ i rd rs1, i = .bsqStart rd rs1 ∨ i = .bsqPoll rd rs1 ∨ i = .jcardLd rd rs1 →
    ∃ w, encode i = some (4, w) ∧ w < 2 ^ 32 ∧ decodeCustom (BitVec.ofNat 32 w) = .ok i) ∧
  (∀ bytes i rest, decode bytes = .ok (i, rest) →
    i.wellFormed = true ∧ ∃ b, encodeBytes i = some b ∧ bytes = b ++ rest) ∧
  (∀ w i, decodeCustom w = .ok i → encode i = some (4, w.toNat))

/-- 07 R79 to R91 and 29 R328: words written field by field decode to the instructions their layouts name. -/
def Obligations.WordsDecodeByTheirLayouts : Prop :=
  let half (w : BitVec 16) : Option Instr := decodeTableWord 16 w.toNat
  let word (w : BitVec 32) : Option Instr := decodeTableWord 32 w.toNat
  let double (w : BitVec 64) : Option Instr := decodeTableWord 64 w.toNat
  -- [15:11] vb, [10:5] vd, [4:1] op4, [0] 0
  half (3#5 ++ 5#6 ++ 1#4 ++ 0#1) = some (.add16 { vd := 5, vb := 3 }) ∧
  -- [31] G, [30] Lb, [29] La, [28:23] vb, [22:17] va, [16:11] vd, [10:4] op7, [3:2] S, [1:0] 01
  word (0#1 ++ 1#1 ++ 0#1 ++ 9#6 ++ 8#6 ++ 7#6 ++ 0x0A#7 ++ 2#2 ++ 1#2) =
    some (.sub { s := 2, vd := 7, va := 8, vb := 9, la := false, lb := true, g := false }) ∧
  -- [31:24] imm8, [23] La, [22:17] va
  word (0xFE#8 ++ 1#1 ++ 8#6 ++ 7#6 ++ 0x09#7 ++ 0#2 ++ 1#2) =
    some (.addImm { s := 0, vd := 7, va := 8, la := true, imm := 0xFE }) ∧
  -- [31:11] d
  word (0x1FFFFE#21 ++ 0x68#7 ++ 1#2 ++ 1#2) = some (.bra { s := 1, d := 0x1FFFFE }) ∧
  -- [18:11] imm8, [31:19] 0
  word (0#13 ++ 0x21#8 ++ 0x77#7 ++ 0#2 ++ 1#2) = some (.trap { s := 0, imm := 0x21 }) ∧
  -- [63:49] mod, [48:41] imm8, [40] Gb, [39] Lc, [38] Lb, [37] La, [36:31] vc, [30:25] vb, [24:19] va, [18:13] vd
  double (0#15 ++ 4#8 ++ 0#1 ++ 0#1 ++ 0#1 ++ 1#1 ++ 0#6 ++ 0#6 ++ 8#6 ++ 7#6 ++ 0x000#9 ++ 0#2 ++ 3#2) =
    some (.ld { s := 0, vd := 7, va := 8, vb := 0, vc := 0, la := true, lb := false, lc := false, gb := false, imm := 4, mod := 0 }) ∧
  -- [31:25] 0, [24:20] rs2 = 0, [19:15] rs1, [14:12] funct3, [11:7] rd, [6:0] 0b0001011
  word (0#7 ++ 0#5 ++ 11#5 ++ 0#3 ++ 10#5 ++ 0b0001011#7) = some (.bsqStart 10 11) ∧
  word 0x0005950B#32 = some (.bsqPoll 10 11) ∧ word 0x00C5850B#32 = none

/-- 03 R23 and R41, 07 R78 and R94, 17 R212: when a group is granted and its bytes decode to an instruction, the step is exec
of it, and of the target a REP arms, with the port's grant on record, and with what every step leaves behind; refused
bytes raise 0x002, or for a group index alone the lowest of the instruction's causes and 0x004, in its threads, and those of a
REP with a reserved bit open its unit with that bit on record; a fetch that fails raises its cause, and one that meets a
capacity PTE parks the threads. A hart's turn runs the instruction it is at, a result's turn writes
it, another agent's turn is a step it may take, a stage of the start ends, sleepers at transfer slots and requests for tiles are served at the end of a clock, which then passes (log 75), and with nothing
to do a clock passes. The order among them is the model's choice (log 2). -/
def Obligations.AStepRunsTheDecodedInstruction : Prop :=
  (∀ s key c K a bs i rest, nextTurn s = .grant key c K a →
    fetchInstr s (coreOf key) (ctxOf s c) K.pc = .ok bs → decode (bs.map Prod.snd) = .ok (i, rest) →
    let s1 := metBy s key c K bs
    (∀ u, exec i s1 = .next u → (∀ j, u.cur = some j → j.target = none) → StepIs s key c a u) ∧
    (∀ u j t u', exec i s1 = .next u → u.cur = some j → j.target = some t →
      exec t (u.setCur (some { j with target := none })) = .next u' → StepIs s key c a u') ∧
    (∀ f, exec i s1 = .fault f → step s = .fault f) ∧ (∀ r, exec i s1 = .refused r → step s = .refused r)) ∧
  (∀ s key c K a bs e, nextTurn s = .grant key c K a →
    fetchInstr s (coreOf key) (ctxOf s c) K.pc = .ok bs → decode (bs.map Prod.snd) = .error e →
    let s1 := metBy s key c K bs
    ∃ is, s1.cur = some is ∧
      (∀ f u, e = .reservedBits (.rep f) → openRep f true is c s1 = .next u → StepIs s key c a u) ∧
      ((∀ f, e ≠ .reservedBits (.rep f)) → ∃ u i cause, raiseGroup i is s1 cause = .next u ∧ StepIs s key c a u ∧
        (match e with
         | .reservedBits x => i = x ∧ cause = 0x002
         | .groupRange x => i = x ∧ cause = (x.decodeCause c.nregs K.handler).getD 0x004
         | _ => cause = 0x002))) ∧
  (∀ s key c K a, nextTurn s = .grant key c K a → fetchInstr s (coreOf key) (ctxOf s c) K.pc = .error 0 →
    StepIs s key c a (parkFetch s (startIssue key c K) K.pc)) ∧
  (∀ s key c K a cause, nextTurn s = .grant key c K a →
    fetchInstr s (coreOf key) (ctxOf s c) K.pc = .error cause → cause ≠ 0 →
    ∃ u, raiseGroup (.unassignedEncoding false 0) (startIssue key c K) s cause = .next u ∧ StepIs s key c a u) ∧
  (∀ s s', nextTurn s = .hart s' → ∃ e i, hartInstr s e = some i ∧
    exec i ((noteHartFetch s e i).setNear { (noteHartFetch s e i).near with turn := some e }) = .next s' ∧
    step s = .next (settle s s')) ∧
  (∀ s k q s', nextTurn s = .result k q → exec (.resultWrite k q) s = .next s' → step s = .next (settle s s')) ∧
  (∀ s s', nextTurn s = .agent s' → ∃ i ∈ agentSteps s, exec i s = .next s' ∧ step s = .next (settle s s')) ∧
  (∀ s i rest s', nextTurn s = .scheduled i rest → encode i = none → (∀ e, i ≠ .stackEngineInstruction e) →
    exec i (s.setSchedule rest) = .next s' → step s = .next (settle s s')) ∧
  (∀ s s', nextTurn s = .stage s' → endStage s = some s' ∧ step s = .next (settle s s')) ∧
  (∀ s s', nextTurn s = .receivers s' → s' = serveClock s ∧ step s = .next (settle s (tick s'))) ∧
  (∀ s, nextTurn s = .clock → ∃ t, step s = .next t ∧ t.clock = s.clock + 1 ∧ t.mem = s.mem)

/-- 03 R33, 05 R74, 11 R133, R138 and R155, 21 R240, 27 R318 and 31 R353, R354 and R356: after module reset the clock counts from 0,
nothing runs, and every register for which the spec gives a reset value holds it. -/
def Obligations.ResetHoldsTheSpecsValues : Prop :=
  let s := State.reset
  s.clock = 0 ∧ s.crews = [] ∧ s.teams = [] ∧ s.sys.ready = false ∧ s.sys.stage = 0 ∧
  (∀ n, let c := s.context n
    c.preempt = false ∧ c.resume = false ∧ c.stopped = false ∧ c.reset = false ∧ c.dl = 0 ∧ c.save = 0 ∧ c.slim = 0 ∧
    c.hart = 0 ∧ c.id = 0 ∧ c.ppn = 0 ∧ c.asid = 0 ∧ c.mode = 0 ∧ c.hen = false ∧ c.hbase = 0 ∧ c.evbase = 0 ∧ c.evlog = 4 ∧
    c.evlost = false ∧ c.evhead = 0 ∧ c.evtail = 0 ∧ c.rval = 0 ∧ c.resIdx = 0 ∧
    ∀ k, let w := c.window k; w.base = 0 ∧ w.log = 12 ∧ w.op = 0 ∧ w.en = false) ∧
  (∀ n, let r := s.subRing n
    r.base = 0 ∧ r.log = 0 ∧ r.head = 0 ∧ r.tail = 0 ∧ r.en = false ∧ r.overrun = false ∧ r.rdfault = false ∧ r.ctx = 0) ∧
  (∀ n, let q := s.queue n
    q.ctx = 0 ∧ q.cls = 0 ∧ q.en = false ∧ q.fault = false ∧ q.budget = false ∧ q.bload = 0 ∧ q.brem = 0) ∧
  (∀ d, let u := s.faultUnit d
    u.starved = false ∧ u.donefull = false ∧ u.hart = 0 ∧ u.id = 0 ∧ u.migrations = [] ∧
    ∀ k, let r := u.ring k; r.base = 0 ∧ r.log = 4 ∧ r.head = 0 ∧ r.tail = 0) ∧
  (∀ n, let c := s.core n
    c.poolMin = 0x10101010 ∧ c.poolCap = 0x80808080 ∧ ∀ p, (c.part p).rfpsn = 0) ∧
  s.sys.tshare = false ∧ s.sys.l2spare = false ∧ s.sys.hbmspare = false ∧ s.sys.cerate = false ∧ s.sys.replace = false ∧
  s.sys.cecnt = [0, 0, 0, 0] ∧ s.sys.hlthHart = 0 ∧ s.sys.hlthId = 0 ∧ s.sys.flushBase = 0 ∧ s.sys.flushPages = 0 ∧
  s.sys.flushGo = false ∧ s.sys.flushDone = false ∧ s.mem.revoked = [] ∧ s.sys.pbmOff = 0 ∧ s.sys.pbmPages = 0 ∧
  s.sys.pbmChip = 0 ∧ s.sys.pbmOp = 0 ∧ s.sys.pbmGo = false ∧ s.sys.pbmDone = 0 ∧ s.sys.pbmSeq = 0

/-- At reset the memory is in canonical form, with nothing listed, so that every byte reads 0 (log 5, the model's choice). -/
def Obligations.ResetMemoryIsCanonical : Prop := MemGood State.reset.mem ∧ State.reset.mem.ram = []

/-- Every step keeps the canonical form of the memory: no table holds a key twice, and no listed byte equals the unlisted
value, whatever the step does. -/
def Obligations.EveryStepKeepsTheMemoryCanonical : Prop :=
  ∀ s t, MemGood s.mem → step s = .next t → MemGood t.mem

/-- Between steps no issue is in progress and no hart has its turn, every step takes a fresh free value, and the clock stays
or counts one, but for the reset of the module, from which it counts anew (13 R167). That a step is one of these is the model's
choice (logs 1, 2 and 69). -/
def Obligations.EveryStepEndsBetweenInstructions : Prop :=
  ∀ s t, step s = .next t → t.cur = none ∧ t.near.turn = none ∧ t.free = s.free + 1 ∧
    (s.sys.started = true → (∀ rest, nextTurn s ≠ .scheduled .moduleReset rest) →
      s.clock ≤ t.clock ∧ t.clock ≤ s.clock + 1) ∧
    (t.clock < s.clock ∨ s.clock + 1 < t.clock → t.clock = 0 ∧ t.sys.stage = 1 ∧ t.sys.ready = false)
end

