-- ==== Sys2Proof/Laws/State.lean ====
section
/-! SUPPORT. What each update of State leaves in each field, one lemma per field and update. -/

namespace Sys2Proof.Machine

variable (s : State)

@[simp] theorem State.setClock_clock (v : Nat) : (s.setClock v).clock = v := rfl
@[simp] theorem State.setClock_cur (v : Nat) : (s.setClock v).cur = s.cur := rfl
@[simp] theorem State.setClock_schedule (v : Nat) : (s.setClock v).schedule = s.schedule := rfl
@[simp] theorem State.setClock_free (v : Nat) : (s.setClock v).free = s.free := rfl
@[simp] theorem State.setClock_serial (v : Nat) : (s.setClock v).serial = s.serial := rfl
@[simp] theorem State.setClock_mem (v : Nat) : (s.setClock v).mem = s.mem := rfl
@[simp] theorem State.setClock_crews (v : Nat) : (s.setClock v).crews = s.crews := rfl
@[simp] theorem State.setClock_tctxs (v : Nat) : (s.setClock v).tctxs = s.tctxs := rfl
@[simp] theorem State.setClock_teams (v : Nat) : (s.setClock v).teams = s.teams := rfl
@[simp] theorem State.setClock_launches (v : Nat) : (s.setClock v).launches = s.launches := rfl
@[simp] theorem State.setClock_cores (v : Nat) : (s.setClock v).cores = s.cores := rfl
@[simp] theorem State.setClock_disp (v : Nat) : (s.setClock v).disp = s.disp := rfl
@[simp] theorem State.setClock_sys (v : Nat) : (s.setClock v).sys = s.sys := rfl
@[simp] theorem State.setClock_near (v : Nat) : (s.setClock v).near = s.near := rfl
@[simp] theorem State.setClock_sleepers (v : Nat) : (s.setClock v).sleepers = s.sleepers := rfl
@[simp] theorem State.setClock_out (v : Nat) : (s.setClock v).out = s.out := rfl

@[simp] theorem State.setCur_clock (v : Option Issue) : (s.setCur v).clock = s.clock := rfl
@[simp] theorem State.setCur_cur (v : Option Issue) : (s.setCur v).cur = v := rfl
@[simp] theorem State.setCur_schedule (v : Option Issue) : (s.setCur v).schedule = s.schedule := rfl
@[simp] theorem State.setCur_free (v : Option Issue) : (s.setCur v).free = s.free := rfl
@[simp] theorem State.setCur_serial (v : Option Issue) : (s.setCur v).serial = s.serial := rfl
@[simp] theorem State.setCur_mem (v : Option Issue) : (s.setCur v).mem = s.mem := rfl
@[simp] theorem State.setCur_crews (v : Option Issue) : (s.setCur v).crews = s.crews := rfl
@[simp] theorem State.setCur_tctxs (v : Option Issue) : (s.setCur v).tctxs = s.tctxs := rfl
@[simp] theorem State.setCur_teams (v : Option Issue) : (s.setCur v).teams = s.teams := rfl
@[simp] theorem State.setCur_launches (v : Option Issue) : (s.setCur v).launches = s.launches := rfl
@[simp] theorem State.setCur_cores (v : Option Issue) : (s.setCur v).cores = s.cores := rfl
@[simp] theorem State.setCur_disp (v : Option Issue) : (s.setCur v).disp = s.disp := rfl
@[simp] theorem State.setCur_sys (v : Option Issue) : (s.setCur v).sys = s.sys := rfl
@[simp] theorem State.setCur_near (v : Option Issue) : (s.setCur v).near = s.near := rfl
@[simp] theorem State.setCur_sleepers (v : Option Issue) : (s.setCur v).sleepers = s.sleepers := rfl
@[simp] theorem State.setCur_out (v : Option Issue) : (s.setCur v).out = s.out := rfl

@[simp] theorem State.setSchedule_clock (v : List Instr) : (s.setSchedule v).clock = s.clock := rfl
@[simp] theorem State.setSchedule_cur (v : List Instr) : (s.setSchedule v).cur = s.cur := rfl
@[simp] theorem State.setSchedule_schedule (v : List Instr) : (s.setSchedule v).schedule = v := rfl
@[simp] theorem State.setSchedule_free (v : List Instr) : (s.setSchedule v).free = s.free := rfl
@[simp] theorem State.setSchedule_serial (v : List Instr) : (s.setSchedule v).serial = s.serial := rfl
@[simp] theorem State.setSchedule_mem (v : List Instr) : (s.setSchedule v).mem = s.mem := rfl
@[simp] theorem State.setSchedule_crews (v : List Instr) : (s.setSchedule v).crews = s.crews := rfl
@[simp] theorem State.setSchedule_tctxs (v : List Instr) : (s.setSchedule v).tctxs = s.tctxs := rfl
@[simp] theorem State.setSchedule_teams (v : List Instr) : (s.setSchedule v).teams = s.teams := rfl
@[simp] theorem State.setSchedule_launches (v : List Instr) : (s.setSchedule v).launches = s.launches := rfl
@[simp] theorem State.setSchedule_cores (v : List Instr) : (s.setSchedule v).cores = s.cores := rfl
@[simp] theorem State.setSchedule_disp (v : List Instr) : (s.setSchedule v).disp = s.disp := rfl
@[simp] theorem State.setSchedule_sys (v : List Instr) : (s.setSchedule v).sys = s.sys := rfl
@[simp] theorem State.setSchedule_near (v : List Instr) : (s.setSchedule v).near = s.near := rfl
@[simp] theorem State.setSchedule_sleepers (v : List Instr) : (s.setSchedule v).sleepers = s.sleepers := rfl
@[simp] theorem State.setSchedule_out (v : List Instr) : (s.setSchedule v).out = s.out := rfl

@[simp] theorem State.setFree_clock (v : Nat) : (s.setFree v).clock = s.clock := rfl
@[simp] theorem State.setFree_cur (v : Nat) : (s.setFree v).cur = s.cur := rfl
@[simp] theorem State.setFree_schedule (v : Nat) : (s.setFree v).schedule = s.schedule := rfl
@[simp] theorem State.setFree_free (v : Nat) : (s.setFree v).free = v := rfl
@[simp] theorem State.setFree_serial (v : Nat) : (s.setFree v).serial = s.serial := rfl
@[simp] theorem State.setFree_mem (v : Nat) : (s.setFree v).mem = s.mem := rfl
@[simp] theorem State.setFree_crews (v : Nat) : (s.setFree v).crews = s.crews := rfl
@[simp] theorem State.setFree_tctxs (v : Nat) : (s.setFree v).tctxs = s.tctxs := rfl
@[simp] theorem State.setFree_teams (v : Nat) : (s.setFree v).teams = s.teams := rfl
@[simp] theorem State.setFree_launches (v : Nat) : (s.setFree v).launches = s.launches := rfl
@[simp] theorem State.setFree_cores (v : Nat) : (s.setFree v).cores = s.cores := rfl
@[simp] theorem State.setFree_disp (v : Nat) : (s.setFree v).disp = s.disp := rfl
@[simp] theorem State.setFree_sys (v : Nat) : (s.setFree v).sys = s.sys := rfl
@[simp] theorem State.setFree_near (v : Nat) : (s.setFree v).near = s.near := rfl
@[simp] theorem State.setFree_sleepers (v : Nat) : (s.setFree v).sleepers = s.sleepers := rfl
@[simp] theorem State.setFree_out (v : Nat) : (s.setFree v).out = s.out := rfl

@[simp] theorem State.setSerial_clock (v : Nat) : (s.setSerial v).clock = s.clock := rfl
@[simp] theorem State.setSerial_cur (v : Nat) : (s.setSerial v).cur = s.cur := rfl
@[simp] theorem State.setSerial_schedule (v : Nat) : (s.setSerial v).schedule = s.schedule := rfl
@[simp] theorem State.setSerial_free (v : Nat) : (s.setSerial v).free = s.free := rfl
@[simp] theorem State.setSerial_serial (v : Nat) : (s.setSerial v).serial = v := rfl
@[simp] theorem State.setSerial_mem (v : Nat) : (s.setSerial v).mem = s.mem := rfl
@[simp] theorem State.setSerial_crews (v : Nat) : (s.setSerial v).crews = s.crews := rfl
@[simp] theorem State.setSerial_tctxs (v : Nat) : (s.setSerial v).tctxs = s.tctxs := rfl
@[simp] theorem State.setSerial_teams (v : Nat) : (s.setSerial v).teams = s.teams := rfl
@[simp] theorem State.setSerial_launches (v : Nat) : (s.setSerial v).launches = s.launches := rfl
@[simp] theorem State.setSerial_cores (v : Nat) : (s.setSerial v).cores = s.cores := rfl
@[simp] theorem State.setSerial_disp (v : Nat) : (s.setSerial v).disp = s.disp := rfl
@[simp] theorem State.setSerial_sys (v : Nat) : (s.setSerial v).sys = s.sys := rfl
@[simp] theorem State.setSerial_near (v : Nat) : (s.setSerial v).near = s.near := rfl
@[simp] theorem State.setSerial_sleepers (v : Nat) : (s.setSerial v).sleepers = s.sleepers := rfl
@[simp] theorem State.setSerial_out (v : Nat) : (s.setSerial v).out = s.out := rfl

@[simp] theorem State.setMem_clock (v : MemSys) : (s.setMem v).clock = s.clock := rfl
@[simp] theorem State.setMem_cur (v : MemSys) : (s.setMem v).cur = s.cur := rfl
@[simp] theorem State.setMem_schedule (v : MemSys) : (s.setMem v).schedule = s.schedule := rfl
@[simp] theorem State.setMem_free (v : MemSys) : (s.setMem v).free = s.free := rfl
@[simp] theorem State.setMem_serial (v : MemSys) : (s.setMem v).serial = s.serial := rfl
@[simp] theorem State.setMem_mem (v : MemSys) : (s.setMem v).mem = v := rfl
@[simp] theorem State.setMem_crews (v : MemSys) : (s.setMem v).crews = s.crews := rfl
@[simp] theorem State.setMem_tctxs (v : MemSys) : (s.setMem v).tctxs = s.tctxs := rfl
@[simp] theorem State.setMem_teams (v : MemSys) : (s.setMem v).teams = s.teams := rfl
@[simp] theorem State.setMem_launches (v : MemSys) : (s.setMem v).launches = s.launches := rfl
@[simp] theorem State.setMem_cores (v : MemSys) : (s.setMem v).cores = s.cores := rfl
@[simp] theorem State.setMem_disp (v : MemSys) : (s.setMem v).disp = s.disp := rfl
@[simp] theorem State.setMem_sys (v : MemSys) : (s.setMem v).sys = s.sys := rfl
@[simp] theorem State.setMem_near (v : MemSys) : (s.setMem v).near = s.near := rfl
@[simp] theorem State.setMem_sleepers (v : MemSys) : (s.setMem v).sleepers = s.sleepers := rfl
@[simp] theorem State.setMem_out (v : MemSys) : (s.setMem v).out = s.out := rfl

@[simp] theorem State.setCrews_clock (v : Map Crew) : (s.setCrews v).clock = s.clock := rfl
@[simp] theorem State.setCrews_cur (v : Map Crew) : (s.setCrews v).cur = s.cur := rfl
@[simp] theorem State.setCrews_schedule (v : Map Crew) : (s.setCrews v).schedule = s.schedule := rfl
@[simp] theorem State.setCrews_free (v : Map Crew) : (s.setCrews v).free = s.free := rfl
@[simp] theorem State.setCrews_serial (v : Map Crew) : (s.setCrews v).serial = s.serial := rfl
@[simp] theorem State.setCrews_mem (v : Map Crew) : (s.setCrews v).mem = s.mem := rfl
@[simp] theorem State.setCrews_crews (v : Map Crew) : (s.setCrews v).crews = v := rfl
@[simp] theorem State.setCrews_tctxs (v : Map Crew) : (s.setCrews v).tctxs = s.tctxs := rfl
@[simp] theorem State.setCrews_teams (v : Map Crew) : (s.setCrews v).teams = s.teams := rfl
@[simp] theorem State.setCrews_launches (v : Map Crew) : (s.setCrews v).launches = s.launches := rfl
@[simp] theorem State.setCrews_cores (v : Map Crew) : (s.setCrews v).cores = s.cores := rfl
@[simp] theorem State.setCrews_disp (v : Map Crew) : (s.setCrews v).disp = s.disp := rfl
@[simp] theorem State.setCrews_sys (v : Map Crew) : (s.setCrews v).sys = s.sys := rfl
@[simp] theorem State.setCrews_near (v : Map Crew) : (s.setCrews v).near = s.near := rfl
@[simp] theorem State.setCrews_sleepers (v : Map Crew) : (s.setCrews v).sleepers = s.sleepers := rfl
@[simp] theorem State.setCrews_out (v : Map Crew) : (s.setCrews v).out = s.out := rfl

@[simp] theorem State.setTctxs_clock (v : Map TeamCtx) : (s.setTctxs v).clock = s.clock := rfl
@[simp] theorem State.setTctxs_cur (v : Map TeamCtx) : (s.setTctxs v).cur = s.cur := rfl
@[simp] theorem State.setTctxs_schedule (v : Map TeamCtx) : (s.setTctxs v).schedule = s.schedule := rfl
@[simp] theorem State.setTctxs_free (v : Map TeamCtx) : (s.setTctxs v).free = s.free := rfl
@[simp] theorem State.setTctxs_serial (v : Map TeamCtx) : (s.setTctxs v).serial = s.serial := rfl
@[simp] theorem State.setTctxs_mem (v : Map TeamCtx) : (s.setTctxs v).mem = s.mem := rfl
@[simp] theorem State.setTctxs_crews (v : Map TeamCtx) : (s.setTctxs v).crews = s.crews := rfl
@[simp] theorem State.setTctxs_tctxs (v : Map TeamCtx) : (s.setTctxs v).tctxs = v := rfl
@[simp] theorem State.setTctxs_teams (v : Map TeamCtx) : (s.setTctxs v).teams = s.teams := rfl
@[simp] theorem State.setTctxs_launches (v : Map TeamCtx) : (s.setTctxs v).launches = s.launches := rfl
@[simp] theorem State.setTctxs_cores (v : Map TeamCtx) : (s.setTctxs v).cores = s.cores := rfl
@[simp] theorem State.setTctxs_disp (v : Map TeamCtx) : (s.setTctxs v).disp = s.disp := rfl
@[simp] theorem State.setTctxs_sys (v : Map TeamCtx) : (s.setTctxs v).sys = s.sys := rfl
@[simp] theorem State.setTctxs_near (v : Map TeamCtx) : (s.setTctxs v).near = s.near := rfl
@[simp] theorem State.setTctxs_sleepers (v : Map TeamCtx) : (s.setTctxs v).sleepers = s.sleepers := rfl
@[simp] theorem State.setTctxs_out (v : Map TeamCtx) : (s.setTctxs v).out = s.out := rfl

@[simp] theorem State.setTeams_clock (v : Map Team) : (s.setTeams v).clock = s.clock := rfl
@[simp] theorem State.setTeams_cur (v : Map Team) : (s.setTeams v).cur = s.cur := rfl
@[simp] theorem State.setTeams_schedule (v : Map Team) : (s.setTeams v).schedule = s.schedule := rfl
@[simp] theorem State.setTeams_free (v : Map Team) : (s.setTeams v).free = s.free := rfl
@[simp] theorem State.setTeams_serial (v : Map Team) : (s.setTeams v).serial = s.serial := rfl
@[simp] theorem State.setTeams_mem (v : Map Team) : (s.setTeams v).mem = s.mem := rfl
@[simp] theorem State.setTeams_crews (v : Map Team) : (s.setTeams v).crews = s.crews := rfl
@[simp] theorem State.setTeams_tctxs (v : Map Team) : (s.setTeams v).tctxs = s.tctxs := rfl
@[simp] theorem State.setTeams_teams (v : Map Team) : (s.setTeams v).teams = v := rfl
@[simp] theorem State.setTeams_launches (v : Map Team) : (s.setTeams v).launches = s.launches := rfl
@[simp] theorem State.setTeams_cores (v : Map Team) : (s.setTeams v).cores = s.cores := rfl
@[simp] theorem State.setTeams_disp (v : Map Team) : (s.setTeams v).disp = s.disp := rfl
@[simp] theorem State.setTeams_sys (v : Map Team) : (s.setTeams v).sys = s.sys := rfl
@[simp] theorem State.setTeams_near (v : Map Team) : (s.setTeams v).near = s.near := rfl
@[simp] theorem State.setTeams_sleepers (v : Map Team) : (s.setTeams v).sleepers = s.sleepers := rfl
@[simp] theorem State.setTeams_out (v : Map Team) : (s.setTeams v).out = s.out := rfl

@[simp] theorem State.setLaunches_clock (v : Map Launch) : (s.setLaunches v).clock = s.clock := rfl
@[simp] theorem State.setLaunches_cur (v : Map Launch) : (s.setLaunches v).cur = s.cur := rfl
@[simp] theorem State.setLaunches_schedule (v : Map Launch) : (s.setLaunches v).schedule = s.schedule := rfl
@[simp] theorem State.setLaunches_free (v : Map Launch) : (s.setLaunches v).free = s.free := rfl
@[simp] theorem State.setLaunches_serial (v : Map Launch) : (s.setLaunches v).serial = s.serial := rfl
@[simp] theorem State.setLaunches_mem (v : Map Launch) : (s.setLaunches v).mem = s.mem := rfl
@[simp] theorem State.setLaunches_crews (v : Map Launch) : (s.setLaunches v).crews = s.crews := rfl
@[simp] theorem State.setLaunches_tctxs (v : Map Launch) : (s.setLaunches v).tctxs = s.tctxs := rfl
@[simp] theorem State.setLaunches_teams (v : Map Launch) : (s.setLaunches v).teams = s.teams := rfl
@[simp] theorem State.setLaunches_launches (v : Map Launch) : (s.setLaunches v).launches = v := rfl
@[simp] theorem State.setLaunches_cores (v : Map Launch) : (s.setLaunches v).cores = s.cores := rfl
@[simp] theorem State.setLaunches_disp (v : Map Launch) : (s.setLaunches v).disp = s.disp := rfl
@[simp] theorem State.setLaunches_sys (v : Map Launch) : (s.setLaunches v).sys = s.sys := rfl
@[simp] theorem State.setLaunches_near (v : Map Launch) : (s.setLaunches v).near = s.near := rfl
@[simp] theorem State.setLaunches_sleepers (v : Map Launch) : (s.setLaunches v).sleepers = s.sleepers := rfl
@[simp] theorem State.setLaunches_out (v : Map Launch) : (s.setLaunches v).out = s.out := rfl

@[simp] theorem State.setCores_clock (v : Map Core) : (s.setCores v).clock = s.clock := rfl
@[simp] theorem State.setCores_cur (v : Map Core) : (s.setCores v).cur = s.cur := rfl
@[simp] theorem State.setCores_schedule (v : Map Core) : (s.setCores v).schedule = s.schedule := rfl
@[simp] theorem State.setCores_free (v : Map Core) : (s.setCores v).free = s.free := rfl
@[simp] theorem State.setCores_serial (v : Map Core) : (s.setCores v).serial = s.serial := rfl
@[simp] theorem State.setCores_mem (v : Map Core) : (s.setCores v).mem = s.mem := rfl
@[simp] theorem State.setCores_crews (v : Map Core) : (s.setCores v).crews = s.crews := rfl
@[simp] theorem State.setCores_tctxs (v : Map Core) : (s.setCores v).tctxs = s.tctxs := rfl
@[simp] theorem State.setCores_teams (v : Map Core) : (s.setCores v).teams = s.teams := rfl
@[simp] theorem State.setCores_launches (v : Map Core) : (s.setCores v).launches = s.launches := rfl
@[simp] theorem State.setCores_cores (v : Map Core) : (s.setCores v).cores = v := rfl
@[simp] theorem State.setCores_disp (v : Map Core) : (s.setCores v).disp = s.disp := rfl
@[simp] theorem State.setCores_sys (v : Map Core) : (s.setCores v).sys = s.sys := rfl
@[simp] theorem State.setCores_near (v : Map Core) : (s.setCores v).near = s.near := rfl
@[simp] theorem State.setCores_sleepers (v : Map Core) : (s.setCores v).sleepers = s.sleepers := rfl
@[simp] theorem State.setCores_out (v : Map Core) : (s.setCores v).out = s.out := rfl

@[simp] theorem State.setDisp_clock (v : Dispatcher) : (s.setDisp v).clock = s.clock := rfl
@[simp] theorem State.setDisp_cur (v : Dispatcher) : (s.setDisp v).cur = s.cur := rfl
@[simp] theorem State.setDisp_schedule (v : Dispatcher) : (s.setDisp v).schedule = s.schedule := rfl
@[simp] theorem State.setDisp_free (v : Dispatcher) : (s.setDisp v).free = s.free := rfl
@[simp] theorem State.setDisp_serial (v : Dispatcher) : (s.setDisp v).serial = s.serial := rfl
@[simp] theorem State.setDisp_mem (v : Dispatcher) : (s.setDisp v).mem = s.mem := rfl
@[simp] theorem State.setDisp_crews (v : Dispatcher) : (s.setDisp v).crews = s.crews := rfl
@[simp] theorem State.setDisp_tctxs (v : Dispatcher) : (s.setDisp v).tctxs = s.tctxs := rfl
@[simp] theorem State.setDisp_teams (v : Dispatcher) : (s.setDisp v).teams = s.teams := rfl
@[simp] theorem State.setDisp_launches (v : Dispatcher) : (s.setDisp v).launches = s.launches := rfl
@[simp] theorem State.setDisp_cores (v : Dispatcher) : (s.setDisp v).cores = s.cores := rfl
@[simp] theorem State.setDisp_disp (v : Dispatcher) : (s.setDisp v).disp = v := rfl
@[simp] theorem State.setDisp_sys (v : Dispatcher) : (s.setDisp v).sys = s.sys := rfl
@[simp] theorem State.setDisp_near (v : Dispatcher) : (s.setDisp v).near = s.near := rfl
@[simp] theorem State.setDisp_sleepers (v : Dispatcher) : (s.setDisp v).sleepers = s.sleepers := rfl
@[simp] theorem State.setDisp_out (v : Dispatcher) : (s.setDisp v).out = s.out := rfl

@[simp] theorem State.setSys_clock (v : SysDie) : (s.setSys v).clock = s.clock := rfl
@[simp] theorem State.setSys_cur (v : SysDie) : (s.setSys v).cur = s.cur := rfl
@[simp] theorem State.setSys_schedule (v : SysDie) : (s.setSys v).schedule = s.schedule := rfl
@[simp] theorem State.setSys_free (v : SysDie) : (s.setSys v).free = s.free := rfl
@[simp] theorem State.setSys_serial (v : SysDie) : (s.setSys v).serial = s.serial := rfl
@[simp] theorem State.setSys_mem (v : SysDie) : (s.setSys v).mem = s.mem := rfl
@[simp] theorem State.setSys_crews (v : SysDie) : (s.setSys v).crews = s.crews := rfl
@[simp] theorem State.setSys_tctxs (v : SysDie) : (s.setSys v).tctxs = s.tctxs := rfl
@[simp] theorem State.setSys_teams (v : SysDie) : (s.setSys v).teams = s.teams := rfl
@[simp] theorem State.setSys_launches (v : SysDie) : (s.setSys v).launches = s.launches := rfl
@[simp] theorem State.setSys_cores (v : SysDie) : (s.setSys v).cores = s.cores := rfl
@[simp] theorem State.setSys_disp (v : SysDie) : (s.setSys v).disp = s.disp := rfl
@[simp] theorem State.setSys_sys (v : SysDie) : (s.setSys v).sys = v := rfl
@[simp] theorem State.setSys_near (v : SysDie) : (s.setSys v).near = s.near := rfl
@[simp] theorem State.setSys_sleepers (v : SysDie) : (s.setSys v).sleepers = s.sleepers := rfl
@[simp] theorem State.setSys_out (v : SysDie) : (s.setSys v).out = s.out := rfl

@[simp] theorem State.setNear_clock (v : NearMem) : (s.setNear v).clock = s.clock := rfl
@[simp] theorem State.setNear_cur (v : NearMem) : (s.setNear v).cur = s.cur := rfl
@[simp] theorem State.setNear_schedule (v : NearMem) : (s.setNear v).schedule = s.schedule := rfl
@[simp] theorem State.setNear_free (v : NearMem) : (s.setNear v).free = s.free := rfl
@[simp] theorem State.setNear_serial (v : NearMem) : (s.setNear v).serial = s.serial := rfl
@[simp] theorem State.setNear_mem (v : NearMem) : (s.setNear v).mem = s.mem := rfl
@[simp] theorem State.setNear_crews (v : NearMem) : (s.setNear v).crews = s.crews := rfl
@[simp] theorem State.setNear_tctxs (v : NearMem) : (s.setNear v).tctxs = s.tctxs := rfl
@[simp] theorem State.setNear_teams (v : NearMem) : (s.setNear v).teams = s.teams := rfl
@[simp] theorem State.setNear_launches (v : NearMem) : (s.setNear v).launches = s.launches := rfl
@[simp] theorem State.setNear_cores (v : NearMem) : (s.setNear v).cores = s.cores := rfl
@[simp] theorem State.setNear_disp (v : NearMem) : (s.setNear v).disp = s.disp := rfl
@[simp] theorem State.setNear_sys (v : NearMem) : (s.setNear v).sys = s.sys := rfl
@[simp] theorem State.setNear_near (v : NearMem) : (s.setNear v).near = v := rfl
@[simp] theorem State.setNear_sleepers (v : NearMem) : (s.setNear v).sleepers = s.sleepers := rfl
@[simp] theorem State.setNear_out (v : NearMem) : (s.setNear v).out = s.out := rfl

@[simp] theorem State.setSleepers_clock (v : Map Sleeper) : (s.setSleepers v).clock = s.clock := rfl
@[simp] theorem State.setSleepers_cur (v : Map Sleeper) : (s.setSleepers v).cur = s.cur := rfl
@[simp] theorem State.setSleepers_schedule (v : Map Sleeper) : (s.setSleepers v).schedule = s.schedule := rfl
@[simp] theorem State.setSleepers_free (v : Map Sleeper) : (s.setSleepers v).free = s.free := rfl
@[simp] theorem State.setSleepers_serial (v : Map Sleeper) : (s.setSleepers v).serial = s.serial := rfl
@[simp] theorem State.setSleepers_mem (v : Map Sleeper) : (s.setSleepers v).mem = s.mem := rfl
@[simp] theorem State.setSleepers_crews (v : Map Sleeper) : (s.setSleepers v).crews = s.crews := rfl
@[simp] theorem State.setSleepers_tctxs (v : Map Sleeper) : (s.setSleepers v).tctxs = s.tctxs := rfl
@[simp] theorem State.setSleepers_teams (v : Map Sleeper) : (s.setSleepers v).teams = s.teams := rfl
@[simp] theorem State.setSleepers_launches (v : Map Sleeper) : (s.setSleepers v).launches = s.launches := rfl
@[simp] theorem State.setSleepers_cores (v : Map Sleeper) : (s.setSleepers v).cores = s.cores := rfl
@[simp] theorem State.setSleepers_disp (v : Map Sleeper) : (s.setSleepers v).disp = s.disp := rfl
@[simp] theorem State.setSleepers_sys (v : Map Sleeper) : (s.setSleepers v).sys = s.sys := rfl
@[simp] theorem State.setSleepers_near (v : Map Sleeper) : (s.setSleepers v).near = s.near := rfl
@[simp] theorem State.setSleepers_sleepers (v : Map Sleeper) : (s.setSleepers v).sleepers = v := rfl
@[simp] theorem State.setSleepers_out (v : Map Sleeper) : (s.setSleepers v).out = s.out := rfl

@[simp] theorem State.setOut_clock (v : List Output) : (s.setOut v).clock = s.clock := rfl
@[simp] theorem State.setOut_cur (v : List Output) : (s.setOut v).cur = s.cur := rfl
@[simp] theorem State.setOut_schedule (v : List Output) : (s.setOut v).schedule = s.schedule := rfl
@[simp] theorem State.setOut_free (v : List Output) : (s.setOut v).free = s.free := rfl
@[simp] theorem State.setOut_serial (v : List Output) : (s.setOut v).serial = s.serial := rfl
@[simp] theorem State.setOut_mem (v : List Output) : (s.setOut v).mem = s.mem := rfl
@[simp] theorem State.setOut_crews (v : List Output) : (s.setOut v).crews = s.crews := rfl
@[simp] theorem State.setOut_tctxs (v : List Output) : (s.setOut v).tctxs = s.tctxs := rfl
@[simp] theorem State.setOut_teams (v : List Output) : (s.setOut v).teams = s.teams := rfl
@[simp] theorem State.setOut_launches (v : List Output) : (s.setOut v).launches = s.launches := rfl
@[simp] theorem State.setOut_cores (v : List Output) : (s.setOut v).cores = s.cores := rfl
@[simp] theorem State.setOut_disp (v : List Output) : (s.setOut v).disp = s.disp := rfl
@[simp] theorem State.setOut_sys (v : List Output) : (s.setOut v).sys = s.sys := rfl
@[simp] theorem State.setOut_near (v : List Output) : (s.setOut v).near = s.near := rfl
@[simp] theorem State.setOut_sleepers (v : List Output) : (s.setOut v).sleepers = s.sleepers := rfl
@[simp] theorem State.setOut_out (v : List Output) : (s.setOut v).out = v := rfl

@[simp] theorem State.setCrew_clock (k : Nat) (c : Crew) : (s.setCrew k c).clock = s.clock := rfl
@[simp] theorem State.setCrew_cur (k : Nat) (c : Crew) : (s.setCrew k c).cur = s.cur := rfl
@[simp] theorem State.setCrew_schedule (k : Nat) (c : Crew) : (s.setCrew k c).schedule = s.schedule := rfl
@[simp] theorem State.setCrew_free (k : Nat) (c : Crew) : (s.setCrew k c).free = s.free := rfl
@[simp] theorem State.setCrew_serial (k : Nat) (c : Crew) : (s.setCrew k c).serial = s.serial := rfl
@[simp] theorem State.setCrew_mem (k : Nat) (c : Crew) : (s.setCrew k c).mem = s.mem := rfl
@[simp] theorem State.setCrew_crews (k : Nat) (c : Crew) : (s.setCrew k c).crews = s.crews.set k c := rfl
@[simp] theorem State.setCrew_tctxs (k : Nat) (c : Crew) : (s.setCrew k c).tctxs = s.tctxs := rfl
@[simp] theorem State.setCrew_teams (k : Nat) (c : Crew) : (s.setCrew k c).teams = s.teams := rfl
@[simp] theorem State.setCrew_launches (k : Nat) (c : Crew) : (s.setCrew k c).launches = s.launches := rfl
@[simp] theorem State.setCrew_cores (k : Nat) (c : Crew) : (s.setCrew k c).cores = s.cores := rfl
@[simp] theorem State.setCrew_disp (k : Nat) (c : Crew) : (s.setCrew k c).disp = s.disp := rfl
@[simp] theorem State.setCrew_sys (k : Nat) (c : Crew) : (s.setCrew k c).sys = s.sys := rfl
@[simp] theorem State.setCrew_near (k : Nat) (c : Crew) : (s.setCrew k c).near = s.near := rfl
@[simp] theorem State.setCrew_sleepers (k : Nat) (c : Crew) : (s.setCrew k c).sleepers = s.sleepers := rfl
@[simp] theorem State.setCrew_out (k : Nat) (c : Crew) : (s.setCrew k c).out = s.out := rfl

@[simp] theorem State.setCore_clock (k : Nat) (c : Core) : (s.setCore k c).clock = s.clock := rfl
@[simp] theorem State.setCore_cur (k : Nat) (c : Core) : (s.setCore k c).cur = s.cur := rfl
@[simp] theorem State.setCore_schedule (k : Nat) (c : Core) : (s.setCore k c).schedule = s.schedule := rfl
@[simp] theorem State.setCore_free (k : Nat) (c : Core) : (s.setCore k c).free = s.free := rfl
@[simp] theorem State.setCore_serial (k : Nat) (c : Core) : (s.setCore k c).serial = s.serial := rfl
@[simp] theorem State.setCore_mem (k : Nat) (c : Core) : (s.setCore k c).mem = s.mem := rfl
@[simp] theorem State.setCore_crews (k : Nat) (c : Core) : (s.setCore k c).crews = s.crews := rfl
@[simp] theorem State.setCore_tctxs (k : Nat) (c : Core) : (s.setCore k c).tctxs = s.tctxs := rfl
@[simp] theorem State.setCore_teams (k : Nat) (c : Core) : (s.setCore k c).teams = s.teams := rfl
@[simp] theorem State.setCore_launches (k : Nat) (c : Core) : (s.setCore k c).launches = s.launches := rfl
@[simp] theorem State.setCore_cores (k : Nat) (c : Core) : (s.setCore k c).cores = s.cores.set k c := rfl
@[simp] theorem State.setCore_disp (k : Nat) (c : Core) : (s.setCore k c).disp = s.disp := rfl
@[simp] theorem State.setCore_sys (k : Nat) (c : Core) : (s.setCore k c).sys = s.sys := rfl
@[simp] theorem State.setCore_near (k : Nat) (c : Core) : (s.setCore k c).near = s.near := rfl
@[simp] theorem State.setCore_sleepers (k : Nat) (c : Core) : (s.setCore k c).sleepers = s.sleepers := rfl
@[simp] theorem State.setCore_out (k : Nat) (c : Core) : (s.setCore k c).out = s.out := rfl

@[simp] theorem State.setEngine_clock (k : Nat) (e : StackEngine) : (s.setEngine k e).clock = s.clock := rfl
@[simp] theorem State.setEngine_cur (k : Nat) (e : StackEngine) : (s.setEngine k e).cur = s.cur := rfl
@[simp] theorem State.setEngine_schedule (k : Nat) (e : StackEngine) : (s.setEngine k e).schedule = s.schedule := rfl
@[simp] theorem State.setEngine_free (k : Nat) (e : StackEngine) : (s.setEngine k e).free = s.free := rfl
@[simp] theorem State.setEngine_serial (k : Nat) (e : StackEngine) : (s.setEngine k e).serial = s.serial := rfl
@[simp] theorem State.setEngine_mem (k : Nat) (e : StackEngine) : (s.setEngine k e).mem = s.mem := rfl
@[simp] theorem State.setEngine_crews (k : Nat) (e : StackEngine) : (s.setEngine k e).crews = s.crews := rfl
@[simp] theorem State.setEngine_tctxs (k : Nat) (e : StackEngine) : (s.setEngine k e).tctxs = s.tctxs := rfl
@[simp] theorem State.setEngine_teams (k : Nat) (e : StackEngine) : (s.setEngine k e).teams = s.teams := rfl
@[simp] theorem State.setEngine_launches (k : Nat) (e : StackEngine) : (s.setEngine k e).launches = s.launches := rfl
@[simp] theorem State.setEngine_cores (k : Nat) (e : StackEngine) : (s.setEngine k e).cores = s.cores := rfl
@[simp] theorem State.setEngine_disp (k : Nat) (e : StackEngine) : (s.setEngine k e).disp = s.disp := rfl
@[simp] theorem State.setEngine_sys (k : Nat) (e : StackEngine) : (s.setEngine k e).sys = s.sys := rfl
@[simp] theorem State.setEngine_near (k : Nat) (e : StackEngine) : (s.setEngine k e).near = { s.near with engines := s.near.engines.set k e } := rfl
@[simp] theorem State.setEngine_sleepers (k : Nat) (e : StackEngine) : (s.setEngine k e).sleepers = s.sleepers := rfl
@[simp] theorem State.setEngine_out (k : Nat) (e : StackEngine) : (s.setEngine k e).out = s.out := rfl

@[simp] theorem State.setContext_clock (k : Nat) (c : Context) : (s.setContext k c).clock = s.clock := rfl
@[simp] theorem State.setContext_cur (k : Nat) (c : Context) : (s.setContext k c).cur = s.cur := rfl
@[simp] theorem State.setContext_schedule (k : Nat) (c : Context) : (s.setContext k c).schedule = s.schedule := rfl
@[simp] theorem State.setContext_free (k : Nat) (c : Context) : (s.setContext k c).free = s.free := rfl
@[simp] theorem State.setContext_serial (k : Nat) (c : Context) : (s.setContext k c).serial = s.serial := rfl
@[simp] theorem State.setContext_mem (k : Nat) (c : Context) : (s.setContext k c).mem = s.mem := rfl
@[simp] theorem State.setContext_crews (k : Nat) (c : Context) : (s.setContext k c).crews = s.crews := rfl
@[simp] theorem State.setContext_tctxs (k : Nat) (c : Context) : (s.setContext k c).tctxs = s.tctxs := rfl
@[simp] theorem State.setContext_teams (k : Nat) (c : Context) : (s.setContext k c).teams = s.teams := rfl
@[simp] theorem State.setContext_launches (k : Nat) (c : Context) : (s.setContext k c).launches = s.launches := rfl
@[simp] theorem State.setContext_cores (k : Nat) (c : Context) : (s.setContext k c).cores = s.cores := rfl
@[simp] theorem State.setContext_disp (k : Nat) (c : Context) : (s.setContext k c).disp = { s.disp with contexts := s.disp.contexts.set k c } := rfl
@[simp] theorem State.setContext_sys (k : Nat) (c : Context) : (s.setContext k c).sys = s.sys := rfl
@[simp] theorem State.setContext_near (k : Nat) (c : Context) : (s.setContext k c).near = s.near := rfl
@[simp] theorem State.setContext_sleepers (k : Nat) (c : Context) : (s.setContext k c).sleepers = s.sleepers := rfl
@[simp] theorem State.setContext_out (k : Nat) (c : Context) : (s.setContext k c).out = s.out := rfl

@[simp] theorem State.setSubRing_clock (k : Nat) (c : SubRing) : (s.setSubRing k c).clock = s.clock := rfl
@[simp] theorem State.setSubRing_cur (k : Nat) (c : SubRing) : (s.setSubRing k c).cur = s.cur := rfl
@[simp] theorem State.setSubRing_schedule (k : Nat) (c : SubRing) : (s.setSubRing k c).schedule = s.schedule := rfl
@[simp] theorem State.setSubRing_free (k : Nat) (c : SubRing) : (s.setSubRing k c).free = s.free := rfl
@[simp] theorem State.setSubRing_serial (k : Nat) (c : SubRing) : (s.setSubRing k c).serial = s.serial := rfl
@[simp] theorem State.setSubRing_mem (k : Nat) (c : SubRing) : (s.setSubRing k c).mem = s.mem := rfl
@[simp] theorem State.setSubRing_crews (k : Nat) (c : SubRing) : (s.setSubRing k c).crews = s.crews := rfl
@[simp] theorem State.setSubRing_tctxs (k : Nat) (c : SubRing) : (s.setSubRing k c).tctxs = s.tctxs := rfl
@[simp] theorem State.setSubRing_teams (k : Nat) (c : SubRing) : (s.setSubRing k c).teams = s.teams := rfl
@[simp] theorem State.setSubRing_launches (k : Nat) (c : SubRing) : (s.setSubRing k c).launches = s.launches := rfl
@[simp] theorem State.setSubRing_cores (k : Nat) (c : SubRing) : (s.setSubRing k c).cores = s.cores := rfl
@[simp] theorem State.setSubRing_disp (k : Nat) (c : SubRing) : (s.setSubRing k c).disp = { s.disp with rings := s.disp.rings.set k c } := rfl
@[simp] theorem State.setSubRing_sys (k : Nat) (c : SubRing) : (s.setSubRing k c).sys = s.sys := rfl
@[simp] theorem State.setSubRing_near (k : Nat) (c : SubRing) : (s.setSubRing k c).near = s.near := rfl
@[simp] theorem State.setSubRing_sleepers (k : Nat) (c : SubRing) : (s.setSubRing k c).sleepers = s.sleepers := rfl
@[simp] theorem State.setSubRing_out (k : Nat) (c : SubRing) : (s.setSubRing k c).out = s.out := rfl

@[simp] theorem State.setQueue_clock (k : Nat) (c : JobQueue) : (s.setQueue k c).clock = s.clock := rfl
@[simp] theorem State.setQueue_cur (k : Nat) (c : JobQueue) : (s.setQueue k c).cur = s.cur := rfl
@[simp] theorem State.setQueue_schedule (k : Nat) (c : JobQueue) : (s.setQueue k c).schedule = s.schedule := rfl
@[simp] theorem State.setQueue_free (k : Nat) (c : JobQueue) : (s.setQueue k c).free = s.free := rfl
@[simp] theorem State.setQueue_serial (k : Nat) (c : JobQueue) : (s.setQueue k c).serial = s.serial := rfl
@[simp] theorem State.setQueue_mem (k : Nat) (c : JobQueue) : (s.setQueue k c).mem = s.mem := rfl
@[simp] theorem State.setQueue_crews (k : Nat) (c : JobQueue) : (s.setQueue k c).crews = s.crews := rfl
@[simp] theorem State.setQueue_tctxs (k : Nat) (c : JobQueue) : (s.setQueue k c).tctxs = s.tctxs := rfl
@[simp] theorem State.setQueue_teams (k : Nat) (c : JobQueue) : (s.setQueue k c).teams = s.teams := rfl
@[simp] theorem State.setQueue_launches (k : Nat) (c : JobQueue) : (s.setQueue k c).launches = s.launches := rfl
@[simp] theorem State.setQueue_cores (k : Nat) (c : JobQueue) : (s.setQueue k c).cores = s.cores := rfl
@[simp] theorem State.setQueue_disp (k : Nat) (c : JobQueue) : (s.setQueue k c).disp = { s.disp with queues := s.disp.queues.set k c } := rfl
@[simp] theorem State.setQueue_sys (k : Nat) (c : JobQueue) : (s.setQueue k c).sys = s.sys := rfl
@[simp] theorem State.setQueue_near (k : Nat) (c : JobQueue) : (s.setQueue k c).near = s.near := rfl
@[simp] theorem State.setQueue_sleepers (k : Nat) (c : JobQueue) : (s.setQueue k c).sleepers = s.sleepers := rfl
@[simp] theorem State.setQueue_out (k : Nat) (c : JobQueue) : (s.setQueue k c).out = s.out := rfl

@[simp] theorem State.setFaultUnit_clock (k : Nat) (c : FaultUnit) : (s.setFaultUnit k c).clock = s.clock := rfl
@[simp] theorem State.setFaultUnit_cur (k : Nat) (c : FaultUnit) : (s.setFaultUnit k c).cur = s.cur := rfl
@[simp] theorem State.setFaultUnit_schedule (k : Nat) (c : FaultUnit) : (s.setFaultUnit k c).schedule = s.schedule := rfl
@[simp] theorem State.setFaultUnit_free (k : Nat) (c : FaultUnit) : (s.setFaultUnit k c).free = s.free := rfl
@[simp] theorem State.setFaultUnit_serial (k : Nat) (c : FaultUnit) : (s.setFaultUnit k c).serial = s.serial := rfl
@[simp] theorem State.setFaultUnit_mem (k : Nat) (c : FaultUnit) : (s.setFaultUnit k c).mem = s.mem := rfl
@[simp] theorem State.setFaultUnit_crews (k : Nat) (c : FaultUnit) : (s.setFaultUnit k c).crews = s.crews := rfl
@[simp] theorem State.setFaultUnit_tctxs (k : Nat) (c : FaultUnit) : (s.setFaultUnit k c).tctxs = s.tctxs := rfl
@[simp] theorem State.setFaultUnit_teams (k : Nat) (c : FaultUnit) : (s.setFaultUnit k c).teams = s.teams := rfl
@[simp] theorem State.setFaultUnit_launches (k : Nat) (c : FaultUnit) : (s.setFaultUnit k c).launches = s.launches := rfl
@[simp] theorem State.setFaultUnit_cores (k : Nat) (c : FaultUnit) : (s.setFaultUnit k c).cores = s.cores := rfl
@[simp] theorem State.setFaultUnit_disp (k : Nat) (c : FaultUnit) : (s.setFaultUnit k c).disp = s.disp := rfl
@[simp] theorem State.setFaultUnit_sys (k : Nat) (c : FaultUnit) : (s.setFaultUnit k c).sys = { s.sys with faults := s.sys.faults.set k c } := rfl
@[simp] theorem State.setFaultUnit_near (k : Nat) (c : FaultUnit) : (s.setFaultUnit k c).near = s.near := rfl
@[simp] theorem State.setFaultUnit_sleepers (k : Nat) (c : FaultUnit) : (s.setFaultUnit k c).sleepers = s.sleepers := rfl
@[simp] theorem State.setFaultUnit_out (k : Nat) (c : FaultUnit) : (s.setFaultUnit k c).out = s.out := rfl

@[simp] theorem State.setTctx_clock (t k : Nat) (c : TeamCtx) : (s.setTctx t k c).clock = s.clock := rfl
@[simp] theorem State.setTctx_cur (t k : Nat) (c : TeamCtx) : (s.setTctx t k c).cur = s.cur := rfl
@[simp] theorem State.setTctx_schedule (t k : Nat) (c : TeamCtx) : (s.setTctx t k c).schedule = s.schedule := rfl
@[simp] theorem State.setTctx_free (t k : Nat) (c : TeamCtx) : (s.setTctx t k c).free = s.free := rfl
@[simp] theorem State.setTctx_serial (t k : Nat) (c : TeamCtx) : (s.setTctx t k c).serial = s.serial := rfl
@[simp] theorem State.setTctx_mem (t k : Nat) (c : TeamCtx) : (s.setTctx t k c).mem = s.mem := rfl
@[simp] theorem State.setTctx_crews (t k : Nat) (c : TeamCtx) : (s.setTctx t k c).crews = s.crews := rfl
@[simp] theorem State.setTctx_tctxs (t k : Nat) (c : TeamCtx) : (s.setTctx t k c).tctxs = s.tctxs.set (tctxKey t k) c := rfl
@[simp] theorem State.setTctx_teams (t k : Nat) (c : TeamCtx) : (s.setTctx t k c).teams = s.teams := rfl
@[simp] theorem State.setTctx_launches (t k : Nat) (c : TeamCtx) : (s.setTctx t k c).launches = s.launches := rfl
@[simp] theorem State.setTctx_cores (t k : Nat) (c : TeamCtx) : (s.setTctx t k c).cores = s.cores := rfl
@[simp] theorem State.setTctx_disp (t k : Nat) (c : TeamCtx) : (s.setTctx t k c).disp = s.disp := rfl
@[simp] theorem State.setTctx_sys (t k : Nat) (c : TeamCtx) : (s.setTctx t k c).sys = s.sys := rfl
@[simp] theorem State.setTctx_near (t k : Nat) (c : TeamCtx) : (s.setTctx t k c).near = s.near := rfl
@[simp] theorem State.setTctx_sleepers (t k : Nat) (c : TeamCtx) : (s.setTctx t k c).sleepers = s.sleepers := rfl
@[simp] theorem State.setTctx_out (t k : Nat) (c : TeamCtx) : (s.setTctx t k c).out = s.out := rfl

@[simp] theorem State.emit_clock (o : Output) : (s.emit o).clock = s.clock := rfl
@[simp] theorem State.emit_cur (o : Output) : (s.emit o).cur = s.cur := rfl
@[simp] theorem State.emit_schedule (o : Output) : (s.emit o).schedule = s.schedule := rfl
@[simp] theorem State.emit_free (o : Output) : (s.emit o).free = s.free := rfl
@[simp] theorem State.emit_serial (o : Output) : (s.emit o).serial = s.serial := rfl
@[simp] theorem State.emit_mem (o : Output) : (s.emit o).mem = s.mem := rfl
@[simp] theorem State.emit_crews (o : Output) : (s.emit o).crews = s.crews := rfl
@[simp] theorem State.emit_tctxs (o : Output) : (s.emit o).tctxs = s.tctxs := rfl
@[simp] theorem State.emit_teams (o : Output) : (s.emit o).teams = s.teams := rfl
@[simp] theorem State.emit_launches (o : Output) : (s.emit o).launches = s.launches := rfl
@[simp] theorem State.emit_cores (o : Output) : (s.emit o).cores = s.cores := rfl
@[simp] theorem State.emit_disp (o : Output) : (s.emit o).disp = s.disp := rfl
@[simp] theorem State.emit_sys (o : Output) : (s.emit o).sys = s.sys := rfl
@[simp] theorem State.emit_near (o : Output) : (s.emit o).near = s.near := rfl
@[simp] theorem State.emit_sleepers (o : Output) : (s.emit o).sleepers = s.sleepers := rfl
@[simp] theorem State.emit_out (o : Output) : (s.emit o).out = o :: s.out := rfl

end Sys2Proof.Machine
end

