-- ==== Sys2Proof/Laws/Store.lean ====
section
/-! SUPPORT. Tables by key and byte stores: read after write, and the canonical form. -/

namespace Sys2Proof.Machine

variable {α : Type}

@[simp] theorem Map.get_nil (n : Nat) : Map.get ([] : Map α) n = none := rfl

/-- A set entry reads back. -/
@[simp] theorem Map.get_set_self (m : Map α) (n : Nat) (a : α) : (m.set n a).get n = some a := by
  induction m with
  | nil => simp [Map.set, Map.get]
  | cons e rest ih =>
    obtain ⟨k, v⟩ := e
    unfold Map.set
    split
    · simp [Map.get]
    · split
      · simp [Map.get]
      · rename_i h1 h2
        have : k ≠ n := fun h => h2 h.symm
        simp [Map.get, this, ih]

/-- Setting an entry leaves the others alone. -/
theorem Map.get_set_ne (m : Map α) {n k : Nat} (a : α) (h : k ≠ n) : (m.set n a).get k = m.get k := by
  induction m with
  | nil => simp [Map.set, Map.get, Ne.symm h]
  | cons e rest ih =>
    obtain ⟨j, v⟩ := e
    unfold Map.set
    split
    · simp [Map.get, Ne.symm h]
    · split
      · rename_i h1 h2
        subst h2
        simp [Map.get, Ne.symm h]
      · simp [Map.get, ih]

theorem Map.get_set (m : Map α) (n k : Nat) (a : α) : (m.set n a).get k = if k = n then some a else m.get k := by
  split
  · next h => subst h; simp
  · next h => exact Map.get_set_ne m a h

/-- Keys strictly rising, said by the first key and the rest. -/
theorem Map.sorted_cons (k : Nat) (v : α) (m : Map α) :
    Map.sorted ((k, v) :: m) = true ↔ (∀ j x r, m = (j, x) :: r → k < j) ∧ Map.sorted m = true := by
  cases m with
  | nil => simp [Map.sorted]
  | cons e r =>
    obtain ⟨j, x⟩ := e
    simp only [Map.sorted, Bool.and_eq_true, decide_eq_true_eq]
    constructor
    · rintro ⟨h1, h2⟩
      exact ⟨fun _ _ _ h => by injection h with h; injection h with h; omega, h2⟩
    · rintro ⟨h1, h2⟩
      exact ⟨h1 j x r rfl, h2⟩

/-- The first key of a table after a set. -/
theorem Map.set_head (m : Map α) (n : Nat) (a : α) {j : Nat} {x : α} {r : Map α} (h : m.set n a = (j, x) :: r) :
    j = n ∨ ∃ y q, m = (j, y) :: q := by
  cases m with
  | nil => simp only [Map.set, List.cons.injEq, Prod.mk.injEq] at h; exact Or.inl h.1.1.symm
  | cons e rest =>
    obtain ⟨k, v⟩ := e
    unfold Map.set at h
    split at h
    · simp only [List.cons.injEq, Prod.mk.injEq] at h; exact Or.inl h.1.1.symm
    · split at h
      · simp only [List.cons.injEq, Prod.mk.injEq] at h; exact Or.inl h.1.1.symm
      · simp only [List.cons.injEq, Prod.mk.injEq] at h
        exact Or.inr ⟨v, rest, by rw [h.1.1]⟩

/-- Setting an entry keeps the canonical form. -/
theorem Map.sorted_set (m : Map α) (n : Nat) (a : α) (h : m.sorted = true) : (m.set n a).sorted = true := by
  induction m with
  | nil => rfl
  | cons e rest ih =>
    obtain ⟨k, v⟩ := e
    have hk := (Map.sorted_cons k v rest).1 h
    unfold Map.set
    split
    · next hlt =>
      exact (Map.sorted_cons n a _).2 ⟨fun j x r he => by injection he with he; injection he with he; omega, h⟩
    · split
      · next heq =>
        subst heq
        exact (Map.sorted_cons n a _).2 hk
      · next hge hne =>
        refine (Map.sorted_cons k v _).2 ⟨fun j x r he => ?_, ih hk.2⟩
        rcases Map.set_head rest n a he with hj | ⟨y, q, hq⟩
        · omega
        · exact hk.1 j y q hq

/-- Dropping the first entry keeps the canonical form. -/
theorem Map.sorted_tail {k : Nat} {v : α} {m : Map α} (h : Map.sorted ((k, v) :: m) = true) : m.sorted = true :=
  ((Map.sorted_cons k v m).1 h).2

/-- Every key of a canonical table lies above its first. -/
theorem Map.head_lt {k : Nat} {v : α} {m : Map α} (h : Map.sorted ((k, v) :: m) = true) : ∀ e ∈ m, k < e.1 := by
  induction m generalizing k v with
  | nil => simp
  | cons e rest ih =>
    obtain ⟨j, x⟩ := e
    have hk := (Map.sorted_cons k v _).1 h
    have hj := hk.1 j x rest rfl
    intro e he
    rcases List.mem_cons.1 he with rfl | he
    · exact hj
    · exact Nat.lt_trans hj (ih hk.2 e he)

/-- Keeping some entries keeps the canonical form. -/
theorem Map.sorted_filter (m : Map α) (p : Nat × α → Bool) (h : m.sorted = true) : Map.sorted (m.filter p) = true := by
  induction m with
  | nil => rfl
  | cons e rest ih =>
    obtain ⟨k, v⟩ := e
    have ht := ih (Map.sorted_tail h)
    rw [List.filter_cons]
    split
    · refine (Map.sorted_cons k v _).2 ⟨fun j x r he => ?_, ht⟩
      have : (j, x) ∈ rest.filter p := by rw [he]; simp
      exact Map.head_lt h (j, x) (List.mem_filter.1 this).1
    · exact ht

/-- Removing an entry of a canonical table is keeping the others. -/
theorem Map.erase_eq_filter (m : Map α) (n : Nat) (h : m.sorted = true) : m.erase n = m.filter fun e => e.1 ≠ n := by
  induction m with
  | nil => rfl
  | cons e rest ih =>
    obtain ⟨k, v⟩ := e
    unfold Map.erase
    split
    · next he =>
      subst he
      have hlt := Map.head_lt h
      have hall : rest.filter (fun e => decide (e.1 ≠ k)) = rest :=
        List.filter_eq_self.2 fun e he => by have := hlt e he; simp; omega
      simp only [List.filter_cons]
      simpa using hall.symm
    · next he =>
      rw [ih (Map.sorted_tail h)]
      simp [he]

/-- Removing an entry keeps the canonical form. -/
theorem Map.sorted_erase (m : Map α) (n : Nat) (h : m.sorted = true) : (m.erase n).sorted = true := by
  rw [Map.erase_eq_filter m n h]
  exact Map.sorted_filter m _ h

/-- A key that no entry has reads as absent. -/
theorem Map.get_none (m : Map α) (n : Nat) (h : ∀ e ∈ m, e.1 ≠ n) : m.get n = none := by
  induction m with
  | nil => rfl
  | cons e rest ih =>
    obtain ⟨k, v⟩ := e
    have hk : k ≠ n := h (k, v) (by simp)
    simp [Map.get, hk, ih fun e he => h e (List.mem_cons_of_mem _ he)]

/-- A removed entry of a canonical table is absent. -/
theorem Map.get_erase_self (m : Map α) (n : Nat) (h : m.sorted = true) : (m.erase n).get n = none := by
  rw [Map.erase_eq_filter m n h]
  exact Map.get_none _ n fun e he => by simpa using (List.mem_filter.1 he).2

/-- Removing an entry leaves the others alone. -/
theorem Map.get_erase_ne (m : Map α) {n k : Nat} (h : k ≠ n) : (m.erase n).get k = m.get k := by
  induction m with
  | nil => rfl
  | cons e rest ih =>
    obtain ⟨j, v⟩ := e
    unfold Map.erase
    split
    · next he => subst he; simp [Map.get, Ne.symm h]
    · simp [Map.get, ih]

/-! ## Bytes -/

/-- A written byte reads back. -/
theorem Memory.read_write_self (m : Memory) (a : Nat) (b : Byte) (h : m.wf = true) : (m.write a b).read a = b := by
  have hs : Map.sorted m = true := by simp only [Memory.wf, Bool.and_eq_true] at h; exact h.1
  unfold Memory.write Memory.read
  split
  · next hb => rw [Map.get_erase_self m a hs, hb]; rfl
  · rw [Map.get_set_self]; rfl

/-- A write leaves every other address alone. -/
theorem Memory.read_write_ne (m : Memory) {a k : Nat} (b : Byte) (h : k ≠ a) : (m.write a b).read k = m.read k := by
  unfold Memory.write Memory.read
  split
  · rw [Map.get_erase_ne m h]
  · rw [Map.get_set_ne m b h]

/-- The entries of a table after a set. -/
theorem Map.mem_set (m : Map α) (n : Nat) (a : α) {e : Nat × α} (h : e ∈ m.set n a) : e = (n, a) ∨ e ∈ m := by
  induction m with
  | nil => simpa [Map.set] using h
  | cons x rest ih =>
    obtain ⟨k, v⟩ := x
    unfold Map.set at h
    split at h
    · simpa using h
    · split at h
      · rcases List.mem_cons.1 h with h | h
        · exact Or.inl h
        · exact Or.inr (List.mem_cons_of_mem _ h)
      · rcases List.mem_cons.1 h with h | h
        · exact Or.inr (by rw [h]; simp)
        · rcases ih h with h | h
          · exact Or.inl h
          · exact Or.inr (List.mem_cons_of_mem _ h)

/-- A write keeps the canonical form. -/
theorem Memory.wf_write (m : Memory) (a : Nat) (b : Byte) (h : m.wf = true) : (m.write a b).wf = true := by
  simp only [Memory.wf, Bool.and_eq_true, List.all_eq_true, decide_eq_true_eq] at h ⊢
  unfold Memory.write
  split
  · refine ⟨Map.sorted_erase m a h.1, fun e he => h.2 e ?_⟩
    rw [Map.erase_eq_filter m a h.1] at he
    exact (List.mem_filter.1 he).1
  · next hb =>
    refine ⟨Map.sorted_set m a b h.1, fun e he => ?_⟩
    rcases Map.mem_set m a b he with rfl | he
    · exact hb
    · exact h.2 e he

end Sys2Proof.Machine
end

