-- ==== Sys2Proof/Laws/Issue.lean ====
section
/-! SUPPORT. What one issue can do: its outcome, and the frame of an issue that raises nothing and ends no thread. -/

namespace Sys2Proof.Machine

/-! ## The outcome of an issue -/

/-- An issue whose group nothing bars and whose effect does not hold answers its finish. -/
theorem issueAs_next {i : Instr} {m : Form} {s : State} {body : Env → State → Eff} {is : Issue} {c : Crew}
    (h1 : s.cur = some is) (h2 : s.crews.get is.crew = some c) (h3 : groupBar i m is c = none)
    (h4 : (body (issueEnv i m is c) s).hold = false) :
    issueAs i m s body = .next (finishIssue i is i.fields.vd (Use.count m.d) m.lat (killRegs m i.fields)
      { body (issueEnv i m is c) s with
        s := addRfpsn (body (issueEnv i m is c) s).s is.crew (rfpsnCount c (countedRegs i m) is.lanes)
        raised := overrule (readRaised i m is c) (body (issueEnv i m is c) s).overs ++
          (body (issueEnv i m is c) s).raised }) := by
  simp [issueAs, issuing, h1, h2, h3, h4]

/-- An issue whose group a cause bars takes that cause and has no other effect. -/
theorem issueAs_barred {i : Instr} {m : Form} {s : State} {body : Env → State → Eff} {is : Issue} {c : Crew} {code : Nat}
    (h1 : s.cur = some is) (h2 : s.crews.get is.crew = some c) (h3 : groupBar i m is c = some code) :
    issueAs i m s body = .next (finishIssue i is 0 0 .none []
      { s := s, raised := (lanesOf is.lanes).map fun l => { lane := l, cause := code } }) := by
  simp [issueAs, issuing, h1, h2, h3]

/-- Where nothing lower is found, the read causes stand. -/
@[simp] theorem overrule_nil (rs : List Raised) : overrule rs [] = rs := rfl

/-- No read cause, none to overrule. -/
@[simp] theorem overrule_none (overs : List Raised) : overrule [] overs = [] := by
  cases overs <;> rfl

/-! ## The parts of a finish -/

section
variable (is : Issue) (old c : Crew)

@[simp] theorem advanceTable_threads : (advanceTable is old c).threads = c.threads := rfl
@[simp] theorem advanceTable_regs : (advanceTable is old c).regs = c.regs := rfl
@[simp] theorem advanceTable_gregs : (advanceTable is old c).gregs = c.gregs := rfl
@[simp] theorem advanceTable_conv : (advanceTable is old c).conv = c.conv := rfl
@[simp] theorem advanceTable_tokens : (advanceTable is old c).tokens = c.tokens := rfl
@[simp] theorem advanceTable_fflags : (advanceTable is old c).fflags = c.fflags := rfl
@[simp] theorem advanceTable_stallchk : (advanceTable is old c).stallchk = c.stallchk := rfl
@[simp] theorem advanceTable_pend : (advanceTable is old c).pend = c.pend := rfl
@[simp] theorem advanceTable_held : (advanceTable is old c).held = c.held := rfl
@[simp] theorem advanceTable_team : (advanceTable is old c).team = c.team := rfl
@[simp] theorem advanceTable_index : (advanceTable is old c).index = c.index := rfl
@[simp] theorem advanceTable_nregs : (advanceTable is old c).nregs = c.nregs := rfl
@[simp] theorem advanceTable_issues : (advanceTable is old c).issues = c.issues := rfl
@[simp] theorem advanceTable_stallTill : (advanceTable is old c).stallTill = c.stallTill := rfl
@[simp] theorem advanceTable_writeSets : (advanceTable is old c).writeSets = c.writeSets := rfl
@[simp] theorem advanceTable_acquired : (advanceTable is old c).acquired = c.acquired := rfl
@[simp] theorem advanceTable_know : (advanceTable is old c).know = c.know := rfl
@[simp] theorem advanceTable_mopr : (advanceTable is old c).mopr = c.mopr := rfl
@[simp] theorem advanceTable_fence : (advanceTable is old c).fence = c.fence := rfl
@[simp] theorem advanceTable_reads : (advanceTable is old c).reads = c.reads := rfl
@[simp] theorem advanceTable_signed : (advanceTable is old c).signed = c.signed := rfl
@[simp] theorem advanceTable_lost : (advanceTable is old c).lost = c.lost := rfl
@[simp] theorem advanceTable_hgrads : (advanceTable is old c).hgrads = c.hgrads := rfl
@[simp] theorem advanceTable_yielded : (advanceTable is old c).yielded = c.yielded := rfl

end

/-- The fields of a crew that neither the moves of threads nor last uses touch. -/
structure Crew.SameRest (c c' : Crew) : Prop where
  team : c'.team = c.team
  index : c'.index = c.index
  nregs : c'.nregs = c.nregs
  regrouped : c'.regrouped = c.regrouped
  gregs : c'.gregs = c.gregs
  conv : c'.conv = c.conv
  tokens : c'.tokens = c.tokens
  fflags : c'.fflags = c.fflags
  stallchk : c'.stallchk = c.stallchk
  held : c'.held = c.held
  lost : c'.lost = c.lost
  signed : c'.signed = c.signed
  writeSets : c'.writeSets = c.writeSets
  acquired : c'.acquired = c.acquired
  know : c'.know = c.know
  mopr : c'.mopr = c.mopr
  fence : c'.fence = c.fence
  reads : c'.reads = c.reads
  active : c'.active = c.active
  yielded : c'.yielded = c.yielded
  ready : c'.ready = c.ready
  hgrads : c'.hgrads = c.hgrads

theorem Crew.SameRest.refl (c : Crew) : c.SameRest c := by constructor <;> rfl

theorem Crew.SameRest.trans {a b c : Crew} (h : a.SameRest b) (k : b.SameRest c) : a.SameRest c := by
  constructor
  · rw [k.team, h.team]
  · rw [k.index, h.index]
  · rw [k.nregs, h.nregs]
  · rw [k.regrouped, h.regrouped]
  · rw [k.gregs, h.gregs]
  · rw [k.conv, h.conv]
  · rw [k.tokens, h.tokens]
  · rw [k.fflags, h.fflags]
  · rw [k.stallchk, h.stallchk]
  · rw [k.held, h.held]
  · rw [k.lost, h.lost]
  · rw [k.signed, h.signed]
  · rw [k.writeSets, h.writeSets]
  · rw [k.acquired, h.acquired]
  · rw [k.know, h.know]
  · rw [k.mopr, h.mopr]
  · rw [k.fence, h.fence]
  · rw [k.reads, h.reads]
  · rw [k.active, h.active]
  · rw [k.yielded, h.yielded]
  · rw [k.ready, h.ready]
  · rw [k.hgrads, h.hgrads]

/-! ### Moving threads -/

theorem Crew.thread_setThread (c : Crew) (l k : Nat) (t : Thread) :
    (c.setThread l t).thread k = if k = l then t else c.thread k := by
  simp only [Crew.thread, Crew.setThread, Map.get_set]
  split <;> simp

/-- Moving the threads of distinct lanes moves each by its own rule and leaves the others. -/
theorem Crew.thread_mapThreads (ls : List Nat) (f : Nat → Thread → Thread) (hn : ls.Nodup) (c : Crew) (k : Nat) :
    (c.mapThreads ls f).thread k = if k ∈ ls then f k (c.thread k) else c.thread k := by
  induction ls generalizing c with
  | nil => simp [Crew.mapThreads]
  | cons l rest ih =>
    rw [List.nodup_cons] at hn
    have e : c.mapThreads (l :: rest) f = (c.setThread l (f l (c.thread l))).mapThreads rest f := rfl
    rw [e, ih hn.2, Crew.thread_setThread]
    by_cases hk : k = l
    · subst hk; simp [hn.1]
    · simp [hk]

theorem Crew.mapThreads_rest (ls : List Nat) (f : Nat → Thread → Thread) (c : Crew) :
    (c.mapThreads ls f).SameRest c ∧ (c.mapThreads ls f).regs = c.regs ∧ (c.mapThreads ls f).pend = c.pend ∧
      (c.mapThreads ls f).issues = c.issues ∧ (c.mapThreads ls f).groups = c.groups := by
  induction ls generalizing c with
  | nil => exact ⟨Crew.SameRest.refl c, rfl, rfl, rfl, rfl⟩
  | cons l rest ih =>
    have e : c.mapThreads (l :: rest) f = (c.setThread l (f l (c.thread l))).mapThreads rest f := rfl
    obtain ⟨h, hr, hp, hi, hg⟩ := ih (c.setThread l (f l (c.thread l)))
    rw [e]
    refine ⟨h.trans ?_, hr, hp, hi, hg⟩
    constructor <;> rfl

/-- The lanes of a mask are distinct. -/
theorem lanesOf_nodup (m : Lanes) : (lanesOf m).Nodup := (List.nodup_range).filter _

theorem mem_lanesOf (m : Lanes) (l : Nat) : l ∈ lanesOf m ↔ l < 32 ∧ inMask m l = true := by
  simp [lanesOf, inMask]

/-! ### Last uses -/

theorem Map.get_modify {α : Type} (m : Map α) (n k : Nat) (f : α → α) :
    (m.modify n f).get k = if k = n then (m.get k).map f else m.get k := by
  unfold Map.modify
  cases h : m.get n with
  | none => split <;> simp_all
  | some a => simp only [Map.get_set]; split <;> simp_all

/-- A last use leaves every other register and lane alone. -/
theorem Crew.kill_get (c : Crew) (r : Nat) (ls : List Nat) (k : Nat) (h : ∀ l ∈ ls, k ≠ 32 * r + l) :
    (c.kill r ls).regs.get k = c.regs.get k := by
  unfold Crew.kill
  simp only
  generalize c.regs = m
  induction ls generalizing m with
  | nil => rfl
  | cons l rest ih =>
    simp only [List.foldl_cons]
    rw [ih (fun x hx => h x (List.mem_cons_of_mem _ hx)), Map.get_modify, if_neg (h l (by simp))]

theorem Crew.kill_rest (c : Crew) (r : Nat) (ls : List Nat) :
    (c.kill r ls).SameRest c ∧ (c.kill r ls).threads = c.threads ∧ (c.kill r ls).pend = c.pend ∧
      (c.kill r ls).issues = c.issues ∧ (c.kill r ls).groups = c.groups := by
  refine ⟨by constructor <;> rfl, rfl, rfl, rfl, rfl⟩

theorem kills_rest (rs ls : List Nat) (c : Crew) :
    (rs.foldl (fun c g => c.kill g ls) c).SameRest c ∧ (rs.foldl (fun c g => c.kill g ls) c).threads = c.threads ∧
      (rs.foldl (fun c g => c.kill g ls) c).pend = c.pend ∧ (rs.foldl (fun c g => c.kill g ls) c).issues = c.issues ∧
      (rs.foldl (fun c g => c.kill g ls) c).groups = c.groups := by
  induction rs generalizing c with
  | nil => exact ⟨Crew.SameRest.refl c, rfl, rfl, rfl, rfl⟩
  | cons r rest ih =>
    obtain ⟨h, ht, hp, hi, hg⟩ := ih (c.kill r ls)
    exact ⟨h.trans (Crew.kill_rest c r ls).1, ht, hp, hi, hg⟩

/-- Last uses leave every register that is not among them alone. -/
theorem kills_get (rs ls : List Nat) (c : Crew) (k : Nat) (h : ∀ r ∈ rs, ∀ l ∈ ls, k ≠ 32 * r + l) :
    (rs.foldl (fun c g => c.kill g ls) c).regs.get k = c.regs.get k := by
  induction rs generalizing c with
  | nil => rfl
  | cons r rest ih =>
    simp only [List.foldl_cons]
    rw [ih _ (fun x hx => h x (List.mem_cons_of_mem _ hx)), Crew.kill_get c r ls k (h r (by simp))]

/-! ### The crew of an issue -/

/-- Where each thread stands after an issue, its causes aside. -/
theorem issuedCrew_thread (i : Instr) (is : Issue) (clock dst run : Nat) (lat : Latency) (kills : List Nat) (r : Eff)
    (c : Crew) (l : Nat) :
    (issuedCrew i is clock dst run lat kills r c).thread l =
      if l ∈ lanesOf is.lanes then moveThread is r l (c.thread l) else c.thread l := by
  unfold issuedCrew
  simp only
  have e : ∀ (x : Crew) (y : Crew), x.threads = y.threads → x.thread l = y.thread l := by
    intro x y h; simp [Crew.thread, h]
  have hk := (kills_rest kills
    ((lanesOf is.lanes).filter fun l => !(r.raised.map Raised.lane).contains l && !(parkedLanes r).contains l) c).2.1
  have := Crew.thread_mapThreads (lanesOf is.lanes) (moveThread is r) (lanesOf_nodup is.lanes)
    (kills.foldl (fun c g => c.kill g
      ((lanesOf is.lanes).filter fun l => !(r.raised.map Raised.lane).contains l && !(parkedLanes r).contains l)) c) l
  rw [e _ c hk] at this
  exact this

/-- What an issue leaves of its crew beside threads, registers, results and the PC table. -/
theorem issuedCrew_rest (i : Instr) (is : Issue) (clock dst run : Nat) (lat : Latency) (kills : List Nat) (r : Eff)
    (c : Crew) : (issuedCrew i is clock dst run lat kills r c).SameRest c := by
  have h1 := Crew.mapThreads_rest (lanesOf is.lanes) (moveThread is r)
    (kills.foldl (fun c g => c.kill g
      ((lanesOf is.lanes).filter fun l => !(r.raised.map Raised.lane).contains l && !(parkedLanes r).contains l)) c)
  have h2 := kills_rest kills
    ((lanesOf is.lanes).filter fun l => !(r.raised.map Raised.lane).contains l && !(parkedLanes r).contains l) c
  refine Crew.SameRest.trans (Crew.SameRest.trans ?_ h1.1) h2.1
  constructor <;> rfl

/-- The registers an issue leaves alone. -/
theorem issuedCrew_get (i : Instr) (is : Issue) (clock dst run : Nat) (lat : Latency) (kills : List Nat) (r : Eff)
    (c : Crew) (k : Nat) (h : ∀ g ∈ kills, ∀ l ∈ lanesOf is.lanes, k ≠ 32 * g + l) :
    (issuedCrew i is clock dst run lat kills r c).regs.get k = c.regs.get k := by
  have h1 := (Crew.mapThreads_rest (lanesOf is.lanes) (moveThread is r)
    (kills.foldl (fun c g => c.kill g
      ((lanesOf is.lanes).filter fun l => !(r.raised.map Raised.lane).contains l && !(parkedLanes r).contains l)) c)).2.1
  have h2 := kills_get kills
    ((lanesOf is.lanes).filter fun l => !(r.raised.map Raised.lane).contains l && !(parkedLanes r).contains l) c k
    fun g hg l hl => h g hg l (List.mem_filter.1 hl).1
  show (Crew.mapThreads _ _ _).regs.get k = _
  rw [h1, h2]

/-- The result an issue posts stands last among the crew's results. -/
theorem issuedCrew_pend (i : Instr) (is : Issue) (clock dst run : Nat) (lat : Latency) (kills : List Nat) (r : Eff)
    (c : Crew) :
    (issuedCrew i is clock dst run lat kills r c).pend =
      (if lat ≠ .none && (!(postedWords dst r.writes).isEmpty || r.flags ≠ 0 || r.greg.isSome) then
        c.pend ++ [postedResult (c.issues + 1) clock dst run lat r] else c.pend) ∧
    (issuedCrew i is clock dst run lat kills r c).issues = c.issues + 1 := by
  have h1 := Crew.mapThreads_rest (lanesOf is.lanes) (moveThread is r)
    (kills.foldl (fun c g => c.kill g
      ((lanesOf is.lanes).filter fun l => !(r.raised.map Raised.lane).contains l && !(parkedLanes r).contains l)) c)
  have h2 := kills_rest kills
    ((lanesOf is.lanes).filter fun l => !(r.raised.map Raised.lane).contains l && !(parkedLanes r).contains l) c
  have hp := h1.2.2.1.trans h2.2.2.1
  have hi := h1.2.2.2.1.trans h2.2.2.2.1
  unfold issuedCrew
  simp only [hp, hi, and_true]

/-! ### Charges and counters -/

section
variable (s : State) (key : Nat) (c : Crew) (n : Nat)

/-- A charge touches the cores alone. -/
theorem chargeIssue_eq : ∃ k : Map Core, chargeIssue s key c = s.setCores k := by
  unfold chargeIssue
  split
  · exact ⟨_, rfl⟩
  · exact ⟨s.cores, rfl⟩

@[simp] theorem chargeIssue_crews : (chargeIssue s key c).crews = s.crews := by
  obtain ⟨k, h⟩ := chargeIssue_eq s key c; rw [h]; rfl
@[simp] theorem chargeIssue_mem : (chargeIssue s key c).mem = s.mem := by
  obtain ⟨k, h⟩ := chargeIssue_eq s key c; rw [h]; rfl
@[simp] theorem chargeIssue_clock : (chargeIssue s key c).clock = s.clock := by
  obtain ⟨k, h⟩ := chargeIssue_eq s key c; rw [h]; rfl
@[simp] theorem chargeIssue_teams : (chargeIssue s key c).teams = s.teams := by
  obtain ⟨k, h⟩ := chargeIssue_eq s key c; rw [h]; rfl
@[simp] theorem chargeIssue_tctxs : (chargeIssue s key c).tctxs = s.tctxs := by
  obtain ⟨k, h⟩ := chargeIssue_eq s key c; rw [h]; rfl
@[simp] theorem chargeIssue_launches : (chargeIssue s key c).launches = s.launches := by
  obtain ⟨k, h⟩ := chargeIssue_eq s key c; rw [h]; rfl
@[simp] theorem chargeIssue_disp : (chargeIssue s key c).disp = s.disp := by
  obtain ⟨k, h⟩ := chargeIssue_eq s key c; rw [h]; rfl
@[simp] theorem chargeIssue_sys : (chargeIssue s key c).sys = s.sys := by
  obtain ⟨k, h⟩ := chargeIssue_eq s key c; rw [h]; rfl
@[simp] theorem chargeIssue_near : (chargeIssue s key c).near = s.near := by
  obtain ⟨k, h⟩ := chargeIssue_eq s key c; rw [h]; rfl
@[simp] theorem chargeIssue_sleepers : (chargeIssue s key c).sleepers = s.sleepers := by
  obtain ⟨k, h⟩ := chargeIssue_eq s key c; rw [h]; rfl
@[simp] theorem chargeIssue_out : (chargeIssue s key c).out = s.out := by
  obtain ⟨k, h⟩ := chargeIssue_eq s key c; rw [h]; rfl
@[simp] theorem chargeIssue_cur : (chargeIssue s key c).cur = s.cur := by
  obtain ⟨k, h⟩ := chargeIssue_eq s key c; rw [h]; rfl
@[simp] theorem chargeIssue_free : (chargeIssue s key c).free = s.free := by
  obtain ⟨k, h⟩ := chargeIssue_eq s key c; rw [h]; rfl
@[simp] theorem chargeIssue_serial : (chargeIssue s key c).serial = s.serial := by
  obtain ⟨k, h⟩ := chargeIssue_eq s key c; rw [h]; rfl
@[simp] theorem chargeIssue_schedule : (chargeIssue s key c).schedule = s.schedule := by
  obtain ⟨k, h⟩ := chargeIssue_eq s key c; rw [h]; rfl

/-- A message to a hart enters its interrupt file and what the machine has sent, at most. -/
theorem sendMsi_eq (h i : Nat) : ∃ d o, sendMsi s h i = (s.setSys d).setOut o := by
  unfold sendMsi deliverMsi
  split
  · split
    · exact ⟨_, _, rfl⟩
    · exact ⟨s.sys, _, rfl⟩
  · exact ⟨s.sys, s.out, rfl⟩

theorem healthMessage_eq (code : Nat) : ∃ d o, healthMessage s code = (s.setSys d).setOut o := by
  unfold healthMessage
  obtain ⟨d, o, h⟩ := sendMsi_eq (s.emit (.bmc code)) s.sys.hlthHart.toNat s.sys.hlthId.toNat
  exact ⟨d, o, by rw [h]; rfl⟩

theorem healthMessage_sys (d : SysDie) (code : Nat) :
    ∃ d' o, healthMessage (s.setSys d) code = (s.setSys d').setOut o := by
  obtain ⟨d', o, h⟩ := healthMessage_eq (s.setSys d) code
  exact ⟨d', o, h⟩

theorem raiseHealth_eq (bit : Nat) : ∃ d o, raiseHealth s bit = (s.setSys d).setOut o := by
  unfold raiseHealth
  dsimp only
  generalize (if bit = 1 then s.sys.tshare else if bit = 2 then s.sys.l2spare else if bit = 3 then s.sys.hbmspare
    else s.sys.cerate) = was
  cases was
  · exact healthMessage_sys s _ bit
  · exact ⟨s.sys, s.out, rfl⟩

theorem countCorrected_eq (field : Nat) : ∃ d o, countCorrected s field n = (s.setSys d).setOut o := by
  unfold countCorrected
  dsimp only
  split
  · obtain ⟨d, o, h⟩ := raiseHealth_eq
      (s.setSys { s.sys with cecnt := s.sys.cecnt.set field (min 65535 (nth s.sys.cecnt field + n)) }) 4
    exact ⟨d, o, h⟩
  · exact ⟨{ s.sys with cecnt := s.sys.cecnt.set field (min 65535 (nth s.sys.cecnt field + n)) }, s.out, rfl⟩

/-- The poison counter touches the cores, the health registers and what they send. -/
theorem addRfpsn_eq : ∃ k d o, addRfpsn s key n = ((s.setCores k).setSys d).setOut o := by
  unfold addRfpsn
  simp only
  split
  · exact ⟨s.cores, s.sys, s.out, rfl⟩
  · obtain ⟨d, o, h⟩ := countCorrected_eq
      (s.setCore (coreOf key) { s.core (coreOf key) with
        parts := (s.core (coreOf key)).parts.set (partOf key)
          { (s.core (coreOf key)).part (partOf key) with
            rfpsn := ((s.core (coreOf key)).part (partOf key)).rfpsn + BitVec.ofNat 32 n } }) n 0
    exact ⟨_, d, o, h⟩

@[simp] theorem addRfpsn_crews : (addRfpsn s key n).crews = s.crews := by
  obtain ⟨k, d, o, h⟩ := addRfpsn_eq s key n; rw [h]; rfl
@[simp] theorem addRfpsn_mem : (addRfpsn s key n).mem = s.mem := by
  obtain ⟨k, d, o, h⟩ := addRfpsn_eq s key n; rw [h]; rfl
@[simp] theorem addRfpsn_clock : (addRfpsn s key n).clock = s.clock := by
  obtain ⟨k, d, o, h⟩ := addRfpsn_eq s key n; rw [h]; rfl
@[simp] theorem addRfpsn_teams : (addRfpsn s key n).teams = s.teams := by
  obtain ⟨k, d, o, h⟩ := addRfpsn_eq s key n; rw [h]; rfl
@[simp] theorem addRfpsn_tctxs : (addRfpsn s key n).tctxs = s.tctxs := by
  obtain ⟨k, d, o, h⟩ := addRfpsn_eq s key n; rw [h]; rfl
@[simp] theorem addRfpsn_launches : (addRfpsn s key n).launches = s.launches := by
  obtain ⟨k, d, o, h⟩ := addRfpsn_eq s key n; rw [h]; rfl
@[simp] theorem addRfpsn_disp : (addRfpsn s key n).disp = s.disp := by
  obtain ⟨k, d, o, h⟩ := addRfpsn_eq s key n; rw [h]; rfl
@[simp] theorem addRfpsn_near : (addRfpsn s key n).near = s.near := by
  obtain ⟨k, d, o, h⟩ := addRfpsn_eq s key n; rw [h]; rfl
@[simp] theorem addRfpsn_sleepers : (addRfpsn s key n).sleepers = s.sleepers := by
  obtain ⟨k, d, o, h⟩ := addRfpsn_eq s key n; rw [h]; rfl
@[simp] theorem addRfpsn_cur : (addRfpsn s key n).cur = s.cur := by
  obtain ⟨k, d, o, h⟩ := addRfpsn_eq s key n; rw [h]; rfl
@[simp] theorem addRfpsn_free : (addRfpsn s key n).free = s.free := by
  obtain ⟨k, d, o, h⟩ := addRfpsn_eq s key n; rw [h]; rfl
@[simp] theorem addRfpsn_serial : (addRfpsn s key n).serial = s.serial := by
  obtain ⟨k, d, o, h⟩ := addRfpsn_eq s key n; rw [h]; rfl
@[simp] theorem addRfpsn_schedule : (addRfpsn s key n).schedule = s.schedule := by
  obtain ⟨k, d, o, h⟩ := addRfpsn_eq s key n; rw [h]; rfl

end

/-! ### Causes -/

/-- Taking no cause writes the crew back. -/
theorem takeCauses_nil (s : State) (key : Nat) (c : Crew) (h5 h6 : Word) (next : Addr) (h : s.crews.get key = some c) :
    takeCauses s key [] h5 h6 next = s.setCrew key c := by
  simp [takeCauses, h]

/-- The finish of an issue that raises nothing and ends no thread. -/
theorem finishIssue_calm {i : Instr} {is : Issue} {dst run : Nat} {lat : Latency} {kills : List Nat} {r : Eff} {c0 : Crew}
    (hc : r.s.crews.get is.crew = some c0) (hr : r.raised = []) (he : r.ended = []) :
    finishIssue i is dst run lat kills r =
      (((chargeIssue r.s is.crew c0).setCrew is.crew
        (issuedCrew i is r.s.clock dst run lat kills r c0)).setCrew is.crew
        (issuedCrew i is r.s.clock dst run lat kills r c0)).setCrew is.crew
        (advanceTable is c0 (issuedCrew i is r.s.clock dst run lat kills r c0)) := by
  unfold finishIssue
  rw [hc]
  simp only [hr, he, chargeIssue_clock]
  rw [takeCauses_nil _ _ (issuedCrew i is r.s.clock dst run lat kills r c0) _ _ _ (by simp)]
  simp

end Sys2Proof.Machine
end

