-- ==== Sys2Proof/Laws/Memory.lean ====
section
/-! SUPPORT. Every operation over the memory keeps its canonical form, and reset memory has it. -/

namespace Sys2Proof.Machine

theorem reset_ram_wf : State.reset.mem.ram.wf = true := rfl

/-- Keeping some bytes keeps the canonical form. -/
theorem Memory.wf_filter (m : Memory) (p : Nat × Byte → Bool) (h : m.wf = true) : Memory.wf (m.filter p) = true := by
  simp only [Memory.wf, Bool.and_eq_true, List.all_eq_true] at h ⊢
  exact ⟨Map.sorted_filter m p h.1, fun e he => h.2 e (List.mem_filter.1 he).1⟩

/-- Writing bytes one by one keeps the canonical form. -/
theorem Memory.wf_foldl {α : Type} (es : List α) (a : α → Nat) (b : α → Byte) (m : Memory) (h : m.wf = true) :
    Memory.wf (es.foldl (fun r e => Memory.write r (a e) (b e)) m) = true := by
  induction es generalizing m with
  | nil => exact h
  | cons e es ih => exact ih _ (Memory.wf_write m _ _ h)

/-- Setting entries one by one keeps a table's canonical form. -/
theorem Map.sorted_foldl_set {α β : Type} (es : List β) (k : β → Nat) (v : β → α) (m : Map α) (h : m.sorted = true) :
    Map.sorted (es.foldl (fun (m : Map α) e => m.set (k e) (v e)) m) = true := by
  induction es generalizing m with
  | nil => exact h
  | cons e es ih => exact ih _ (Map.sorted_set m _ _ h)

end Sys2Proof.Machine

namespace Sys2Proof

open Machine

/-! ## One byte or granule -/

theorem MemGood.putHome {m : MemSys} (h : MemGood m) (pa : Nat) (b : Byte) : MemGood (m.putHome pa b) :=
  { h with l2 := Map.sorted_set _ _ _ h.l2 }

theorem MemGood.putThrough {m : MemSys} (h : MemGood m) (pa : Nat) (b : Byte) : MemGood (m.putThrough pa b) :=
  { h with ram := Memory.wf_write _ _ _ h.ram, l2 := Map.sorted_erase _ _ h.l2 }

theorem MemGood.putL1 {m : MemSys} (h : MemGood m) (core pa : Nat) (b : Byte) : MemGood (m.putL1 core pa b) :=
  { h with l1 := Map.sorted_set _ _ _ h.l1 }

theorem MemGood.poisonSet {m : MemSys} (h : MemGood m) (g : Nat) : MemGood (m.poisonSet g) :=
  { h with poison := Map.sorted_set _ _ _ h.poison }

theorem MemGood.poisonClear {m : MemSys} (h : MemGood m) (g : Nat) : MemGood (m.poisonClear g) :=
  { h with poison := Map.sorted_erase _ _ h.poison }

theorem MemGood.poisonScratch {m : MemSys} (h : MemGood m) (g : Nat) : MemGood (m.poisonScratch g) :=
  { h with scratchPoison := Map.sorted_set _ _ _ h.scratchPoison }

theorem MemGood.noteScratch {m : MemSys} (h : MemGood m) (writers : List Nat) (step k n : Nat) : MemGood (m.noteScratch writers step k n) :=
  { h with }

theorem MemGood.putAcc {m : MemSys} (h : MemGood m) (k : Nat) (w : Word) : MemGood (m.putAcc k w) := by
  refine { h with acc := ?_ }
  show Map.sorted (if w = 0#32 then _ else _) = true
  split
  · exact Map.sorted_erase _ _ h.acc
  · exact Map.sorted_set _ _ _ h.acc

theorem MemGood.poisonAcc {m : MemSys} (h : MemGood m) (g : Nat) (on : Bool) :
    MemGood { m with accPoison := if on then m.accPoison.set g () else m.accPoison.erase g } := by
  refine { h with accPoison := ?_ }
  dsimp only
  split
  · exact Map.sorted_set _ _ _ h.accPoison
  · exact Map.sorted_erase _ _ h.accPoison

/-! ## Folds -/

/-- A fold of operations that keep the form keeps it. -/
theorem MemGood.foldl {α : Type} {f : MemSys → α → MemSys} (hf : ∀ m a, MemGood m → MemGood (f m a)) (es : List α)
    {m : MemSys} (h : MemGood m) : MemGood (es.foldl f m) := by
  induction es generalizing m with
  | nil => exact h
  | cons e es ih => exact ih (hf m e h)

/-- So does writing bytes at consecutive addresses. -/
theorem MemGood.writeSeq {f : MemSys → Nat → Byte → MemSys} (hf : ∀ m a b, MemGood m → MemGood (f m a b)) (bs : List Byte)
    {m : MemSys} (h : MemGood m) (a : Nat) : MemGood (Machine.writeSeq f m a bs) := by
  induction bs generalizing m a with
  | nil => exact h
  | cons b bs ih => exact ih (hf m a b h) (a + 1)

theorem MemGood.unpoison {m : MemSys} (h : MemGood m) (pa n : Nat) : MemGood (m.unpoison pa n) := by
  refine MemGood.foldl (fun m k hm => ?_) _ h
  dsimp only
  split
  · exact hm.poisonClear _
  · exact hm

/-! ## Lines -/

theorem MemGood.flushL1 {m : MemSys} (h : MemGood m) (core : Nat) (p : Nat → Bool) : MemGood (m.flushL1 core p) :=
  MemGood.foldl (fun _ _ hm => hm.putHome _ _) _
    { h with l1 := Map.sorted_filter _ _ h.l1 }

theorem MemGood.flushL2 {m : MemSys} (h : MemGood m) (p : Nat → Bool) : MemGood (m.flushL2 p) :=
  MemGood.foldl (f := fun m (e : Nat × Byte) => { m with ram := m.ram.write e.1 e.2 })
    (fun _ e hm => { hm with ram := Memory.wf_write _ e.1 e.2 hm.ram }) _
    (m := { m with l2 := m.l2.filter fun e => !p e.1 })
    { h with l2 := Map.sorted_filter _ _ h.l2 }

theorem MemGood.writeHome {m : MemSys} (h : MemGood m) (core pa : Nat) (bs : List Byte) : MemGood (m.writeHome core pa bs) :=
  MemGood.unpoison (MemGood.writeSeq (fun _ _ _ hm => hm.putHome _ _) bs (h.flushL1 core _) pa) pa bs.length

/-- Dropping dirty L2 bytes keeps the form (29 R339, 11 R160). -/
theorem MemGood.dropL2 {m : MemSys} (h : MemGood m) (p : Nat × Byte → Bool) : MemGood { m with l2 := m.l2.filter p } :=
  { h with l2 := Map.sorted_filter _ _ h.l2 }

/-- Zeroing ranges of memory keeps the form (31 R351). -/
theorem MemGood.zeroRam {m : MemSys} (h : MemGood m) (p r : Nat × Byte → Bool) (q : Nat × Unit → Bool) :
    MemGood { m with ram := m.ram.filter p, l2 := m.l2.filter r, poison := m.poison.filter q } :=
  { h with ram := Memory.wf_filter _ _ h.ram, l2 := Map.sorted_filter _ _ h.l2, poison := Map.sorted_filter _ _ h.poison }

/-- Writing listed bytes to the memory itself keeps the form (21 R264; 29 R339). -/
theorem MemGood.writeRam {α : Type} {m : MemSys} (h : MemGood m) (es : List α) (a : α → Nat) (b : α → Byte) :
    MemGood { m with ram := es.foldl (fun r e => Memory.write r (a e) (b e)) m.ram } :=
  { h with ram := Memory.wf_foldl es a b _ h.ram }

/-! ## Scratchpad and accumulators -/

theorem MemGood.putScratch {m : MemSys} (h : MemGood m) (k : Nat) (bs : List Byte) : MemGood (m.putScratch k bs) := by
  refine MemGood.foldl (fun m j hm => ?_) _ (MemGood.writeSeq (fun m a b hm => ?_) bs h k)
  · dsimp only
    split
    · exact { hm with scratchPoison := Map.sorted_erase _ _ hm.scratchPoison }
    · exact hm
  · refine { hm with scratch := ?_ }
    dsimp only
    split
    · exact Map.sorted_erase _ _ hm.scratch
    · exact Map.sorted_set _ _ _ hm.scratch

/-- Clearing a reservation keeps the form (27 R325). -/
theorem MemGood.clearScratch {m : MemSys} (h : MemGood m) (p : Nat × Byte → Bool) (q : Nat × Unit → Bool) :
    MemGood { m with scratch := m.scratch.filter p, scratchPoison := m.scratchPoison.filter q } :=
  { h with scratch := Map.sorted_filter _ _ h.scratch, scratchPoison := Map.sorted_filter _ _ h.scratchPoison }

theorem MemGood.poisonTile {m : MemSys} (h : MemGood m) (core t : Nat) (on : Bool) : MemGood (Machine.poisonTile m core t on) := by
  unfold Machine.poisonTile
  generalize List.range 1024 = gs
  refine MemGood.foldl (fun m g hm => ?_) gs h
  exact hm.poisonAcc _ _

theorem MemGood.zeroTile {m : MemSys} (h : MemGood m) (core t : Nat) : MemGood (Machine.zeroTile m core t) := by
  unfold Machine.zeroTile
  apply MemGood.poisonTile
  exact { h with acc := Map.sorted_filter _ _ h.acc }

/-! ## Frames of migrations, and the placing of an instruction -/

theorem MemGood.copyMemory {m : MemSys} (h : MemGood m) (src dst n : Nat) : MemGood (Machine.copyMemory m src dst n) :=
  { h with
    ram := Memory.wf_foldl _ _ _ _ (Memory.wf_foldl _ _ _ _ (Memory.wf_filter _ _ h.ram))
    l2 := Map.sorted_filter _ _ h.l2
    poison := Map.sorted_foldl_set _ _ _ _ (Map.sorted_filter _ _ h.poison) }

theorem MemGood.placedMem {m : MemSys} (h : MemGood m) (w : Nat) : MemGood (Machine.placedMem m w) := by
  have hw := MemGood.writeSeq (f := MemSys.putThrough) (fun _ a b hm => MemGood.putThrough hm a b) (natBytes 8 w)
    (MemGood.writeSeq (f := MemSys.putThrough) (fun _ a b hm => MemGood.putThrough hm a b) (natBytes 8 0xDF) h (placeRoot * 4096)) placePc
  exact { hw with poison := rfl }

end Sys2Proof
end

