-- ==== Sys2Proof/Tests/Slice0.lean ====
section
/-! SUPPORT. Tests of the decoder and of single steps against the spec's worked examples, and for every statement with
hypotheses a state and operands that meet them. -/

namespace Sys2Proof.Slice0Tests

set_option Elab.async false

open Sys2Proof.Machine Sys2Proof.Claim

/-! ## Ill-formed terms, one for each check of WellFormed -/

/-- An event stands for no encoding. -/
theorem test_event_is_no_encoding : (Instr.sleepExpire).wellFormed = false := by decide +kernel
/-- 07 R85: a V3 form that does not use vb has it 0. -/
theorem test_unused_field_must_be_zero :
    (Instr.clz { s := 0, vd := 1, va := 2, vb := 3, la := false, lb := false, g := false }).wellFormed = false := by decide +kernel
/-- 05 R58: a pair starts at an even register. -/
theorem test_pair_must_be_even :
    (Instr.addw { s := 0, vd := 1, va := 2, vb := 3, la := false, lb := false, g := false }).wellFormed = false := by decide +kernel
/-- 07 R82: G may be 1 only where b is an operand. -/
theorem test_group_operand_must_be_allowed :
    (Instr.popc { s := 0, vd := 1, va := 2, vb := 0, la := false, lb := false, g := true }).wellFormed = false := by decide +kernel
/-- 07 R86: a shift immediate has imm8[7:5] = 0. -/
theorem test_shift_immediate_is_below_32 :
    (Instr.shrImm { s := 1, vd := 7, va := 12, la := false, imm := 0x28 }).wellFormed = false := by decide +kernel
/-- 13 R167: an SPR selector is one of the table's. -/
theorem test_spr_selector_is_listed :
    (Instr.spr { s := 0, vd := 7, va := 0, la := false, imm := 0x0E }).wellFormed = false := by decide +kernel
/-- 05 R58, 13 R165: a group index above 383 is out of range. -/
theorem test_group_index_is_in_range : (Instr.gmov { s := 0, v := 1, n := 384 }).wellFormed = false := by decide +kernel
/-- 07 R84: op7 0x08 is assigned. -/
theorem test_assigned_is_not_unassigned : (Instr.unassignedEncoding false 0x81).wellFormed = false := by decide +kernel

/-! ## Words of the spec (07 after R94; 08; 13 after R174; 15 after R187; 17 after R202; 21 to 29) -/

/-- 07: the assembled fragment. -/
theorem test_decode_add16 : decodeTableWord 16 0x48A2 = some (.add16 { vd := 5, vb := 9 }) := by decide +kernel
theorem test_decode_and_imm :
    decodeTableWord 32 0xF0061961 = some (.andImm { s := 0, vd := 3, va := 3, la := false, imm := 0xF0 }) := by decide +kernel
theorem test_decode_fmul :
    decodeTableWord 32 0xD2085421 = some (.fmul { s := 0, vd := 10, va := 4, vb := 36, la := false, lb := true, g := true }) := by
  decide +kernel
theorem test_decode_ffma :
    decodeTableWord 32 0x41844439 = some (.ffma { s := 2, vd := 8, va := 2, vb := 3, la := false, lb := true, g := false }) := by
  decide +kernel
theorem test_decode_rep : decodeTableWord 32 0x000A1F31 = some (.rep { s := 0, n := 3, d := true, a := false, b := true }) := by
  decide +kernel
theorem test_decode_brnz : decodeTableWord 32 0xFFEA1EA1 = some (.brnz { s := 0, va := 3, d := 0x7FF5 }) := by decide +kernel
/-- 08: three words decoded. -/
theorem test_decode_fmul16 : decodeTableWord 16 0x1B5A = some (.fmul16 { vd := 26, vb := 3 }) := by decide +kernel
theorem test_decode_refuses_wide_shift : decodeTableWord 32 0x281839F5 = none := by decide +kernel
theorem test_decode_unassigned : decodeTableWord 64 0x0D53 = some (.unassignedEncoding true 0x0D53) := by decide +kernel
/-- 13: three encodings. -/
theorem test_decode_scaddw8 :
    decodeTableWord 32 0x03885351 = some (.scaddw8 { s := 0, vd := 10, va := 4, vb := 7, la := false, lb := false, g := false }) := by
  decide +kernel
theorem test_decode_bfx :
    decodeTableWord 32 0x82921271 = some (.bfx { s := 0, vd := 2, va := 9, vb := 5, la := false, lb := false, g := true }) := by
  decide +kernel
/-- The 64-bit fields with no mark, no immediate and no group operand. -/
def plain64 (vd va vb vc : BitVec 6) (mod : BitVec 15) : F64 :=
  { s := 0, vd, va, vb, vc, la := false, lb := false, lc := false, gb := false, imm := 0, mod }
theorem test_decode_ffma4 : decodeTableWord 64 0x0000000A18428803 = some (.ffma4 (plain64 20 8 12 20 0)) := by decide +kernel
/-- 15: votes, shuffles, leaders and transfers. -/
theorem test_decode_vote :
    decodeTableWord 32 0x01062F81 = some (.vote { s := 0, vd := 5, va := 3, vb := 2, la := false, lb := false, g := false }) := by
  decide +kernel
theorem test_decode_elect :
    decodeTableWord 32 0x00800FA1 = some (.elect { s := 0, vd := 1, va := 0, vb := 1, la := false, lb := false, g := false }) := by
  decide +kernel
theorem test_decode_lred : decodeTableWord 64 0x001000000010C833 = some (.lred (plain64 6 2 0 0 8)) := by decide +kernel
theorem test_decode_xsend :
    decodeTableWord 64 0x0006062000500893 = some (.xsend { plain64 0 10 0 0 3 with la := true, imm := 3 }) := by decide +kernel
/-- 17: control. -/
theorem test_decode_bra : decodeTableWord 32 0x00010681 = some (.bra { s := 0, d := 0x20 }) := by decide +kernel
theorem test_decode_cvset : decodeTableWord 32 0x000016F1 = some (.cvset { s := 0, c := 2 }) := by decide +kernel
theorem test_decode_sleep : decodeTableWord 32 0x00001F51 = some (.sleep { s := 0, imm := 3 }) := by decide +kernel
theorem test_decode_trap : decodeTableWord 32 0x00010F71 = some (.trap { s := 0, imm := 0x21 }) := by decide +kernel
theorem test_decode_bcc :
    decodeTableWord 64 0xFFE2001F8A260483 = some (.bcc (plain64 0x30 4 5 0x3F 0x7FF1)) := by decide +kernel
/-- 21 and 22: Millrace. -/
theorem test_decode_bcopy : decodeTableWord 64 0x2364000F28408C13 = some (.bcopy (plain64 4 8 20 30 0x11B2)) := by decide +kernel
theorem test_decode_tcopy : decodeTableWord 64 0x5AA0000A12300C03 = some (.tcopy (plain64 0 6 9 20 0x2D50)) := by decide +kernel
theorem test_decode_ringacq : decodeTableWord 64 0x000600000000AC33 = some (.ringacq (plain64 5 0 0 0 3)) := by decide +kernel
theorem test_decode_toktest : decodeTableWord 64 0x000C000000010C63 = some (.toktest (plain64 8 0 0 0 6)) := by decide +kernel
/-- 23 and 24: Millstone. -/
theorem test_decode_mma : decodeTableWord 64 0x003200060C201073 = some (.mma (plain64 0 4 6 12 0x19)) := by decide +kernel
theorem test_decode_accalloc :
    decodeTableWord 64 0x0002020000029023 = some (.accalloc { plain64 20 0 0 0 1 with imm := 1 }) := by decide +kernel
theorem test_decode_mmas : decodeTableWord 64 0x041000030A201083 = some (.mmas (plain64 0 4 5 6 0x208)) := by decide +kernel
theorem test_decode_mvar : decodeTableWord 64 0x00000000000310E3 = some (.mvar (plain64 24 0 0 0 0)) := by decide +kernel
/-- 25: Trowel. -/
theorem test_decode_henc : decodeTableWord 64 0x0002000000111413 = some (.henc (plain64 8 2 0 0 1)) := by decide +kernel
theorem test_decode_vpin : decodeTableWord 64 0x0000000000509433 = some (.vpin (plain64 4 10 0 0 0)) := by decide +kernel
/-- 29: the custom instructions; rs2 = x12 makes bsq.start illegal. -/
theorem test_decode_bsq_start : decodeTableWord 32 0x0005850B = some (.bsqStart 10 11) := by decide +kernel
theorem test_decode_bsq_poll : decodeTableWord 32 0x0005950B = some (.bsqPoll 10 11) := by decide +kernel
theorem test_decode_refuses_bsq_rs2 : decodeTableWord 32 0x00C5850B = none := by decide +kernel
/-- 19: memory and system. -/
theorem test_decode_ld : decodeTableWord 64 0x0032100004408003 = some (.ld { plain64 4 8 2 0 0x19 with imm := 8 }) := by decide +kernel
theorem test_decode_cas : decodeTableWord 64 0x1D40000600210063 = some (.cas (plain64 8 4 0 12 0xEA0)) := by decide +kernel
theorem test_decode_fence : decodeTableWord 64 0x002E000000000073 = some (.fence (plain64 0 0 0 0 0x17)) := by decide +kernel
theorem test_decode_csrr : decodeTableWord 64 0x000200000000A433 = some (.csrr (plain64 5 0 0 0 1)) := by decide +kernel

/-! ## Small states -/

/-- A module that is up, with context 0 translating addresses to themselves and one team of one crew of 64 registers on
core 0: what withFetchWord lays out for the halfword 0. -/
def base : State := State.reset.withFetchWord 16 0

/-- The crew of that state. -/
def crew0 : Crew := (base.crews.get 0).getD (startCrew 0 placedRecord 0 0 0 [])

/-- A crew with words in its registers: register, lane and value. -/
def Crew.holding (c : Crew) (ws : List (Nat × Nat × Word)) : Crew :=
  { c with regs := ws.foldl (fun m e => m.set (32 * e.1 + e.2.1) { val := e.2.2, live := true, poison := false, seq := 0 }) c.regs }

/-- Every lane of a register with the same value. -/
def everyLane (r : Nat) (v : Word) : List (Nat × Nat × Word) := (List.range 32).map fun l => (r, l, v)

/-- The issue of a 64-bit instruction by lanes of the crew. -/
def issueOf (lanes : Lanes) : Issue :=
  { crew := 0, lanes, pc := 0x200000#57, handler := false, rep := 0, count := 1, unit := false, next := 0x200008#57
    h5 := 0, h6 := 0, target := none }

/-- The state with the crew c, whose lanes issue. -/
def meeting (c : Crew) (lanes : Lanes) : State := { base with crews := [(0, c)], cur := some (issueOf lanes) }

/-- The word on its way to a register of a lane after an instruction. -/
def sent (i : Instr) (c : Crew) (lanes : Lanes) (r l : Nat) : Option Word :=
  match exec i (meeting c lanes) with
  | .next s => ((s.crews.get 0).map Crew.pend).bind fun ps => ps.findSome? fun p => p.writes.get (32 * r + l)
  | _ => none

/-- The flags on their way after an instruction. -/
def flagsOf (i : Instr) (c : Crew) : Option Flags :=
  match exec i (meeting c 1#32) with
  | .next s => ((s.crews.get 0).map Crew.pend).bind fun ps => ps.head?.map Pending.flags
  | _ => none

/-- The crew after an instruction. -/
def crewAfter (i : Instr) (c : Crew) (lanes : Lanes) : Option Crew :=
  match exec i (meeting c lanes) with
  | .next s => s.crews.get 0
  | _ => none

/-- The fields of a 32-bit form. -/
def v3 (vd va vb : BitVec 6) : V3 := { s := 0, vd, va, vb, la := false, lb := false, g := false }

/-! ## Steps of the spec's worked examples -/

/-- 13 R174: w4 = 0x00000001FFFFFFF0 and v7 = −3 give w10 = 0x00000001FFFFFFD8. -/
theorem test_scaddw8 :
    let c := Crew.holding crew0 [(4, 0, 0xFFFFFFF0#32), (5, 0, 1#32), (7, 0, 0xFFFFFFFD#32)]
    sent (.scaddw8 (v3 10 4 7)) c 1#32 10 0 = some 0xFFFFFFD8#32 ∧ sent (.scaddw8 (v3 10 4 7)) c 1#32 11 0 = some 1#32 := by
  decide +kernel
/-- 13 R171: g5 = 0x00008708 and v9 = 0x1234F6AB give 0xFFFFFFF6. -/
theorem test_bfx :
    sent (.bfx { v3 2 9 5 with g := true }) { Crew.holding crew0 [(9, 0, 0x1234F6AB#32)] with
      gregs := [(5, { val := 0x8708#32, poison := false })] } 1#32 2 0 = some 0xFFFFFFF6#32 := by decide +kernel
/-- 13 R169: a shift by 32 or more; SAR gives the sign. -/
theorem test_shl_by_32 : sent (.shl (v3 2 3 4)) (Crew.holding crew0 [(3, 0, 7#32), (4, 0, 32#32)]) 1#32 2 0 = some 0#32 := by
  decide +kernel
theorem test_sar_by_40 :
    sent (.sar (v3 2 3 4)) (Crew.holding crew0 [(3, 0, 0x80000000#32), (4, 0, 40#32)]) 1#32 2 0 = some 0xFFFFFFFF#32 := by
  decide +kernel
/-- 13 R168: MULHI and MULHU of 0x80000000 and 2. -/
theorem test_mulhi :
    sent (.mulhi (v3 2 3 4)) (Crew.holding crew0 [(3, 0, 0x80000000#32), (4, 0, 2#32)]) 1#32 2 0 = some 0xFFFFFFFF#32 := by
  decide +kernel
theorem test_mulhu :
    sent (.mulhu (v3 2 3 4)) (Crew.holding crew0 [(3, 0, 0x80000000#32), (4, 0, 2#32)]) 1#32 2 0 = some 1#32 := by decide +kernel
/-- 13 R173: −0 in vd selects va. -/
theorem test_sel :
    sent (.sel (v3 2 3 4)) (Crew.holding crew0 [(2, 0, 0x80000000#32), (3, 0, 5#32), (4, 0, 6#32)]) 1#32 2 0 = some 5#32 := by
  decide +kernel
/-- 13 R175: 1 + (−1) is +0; ∞ − ∞ is the canonical NaN with NV. -/
theorem test_fadd_to_zero :
    sent (.fadd (v3 2 3 4)) (Crew.holding crew0 [(3, 0, 0x3F800000#32), (4, 0, 0xBF800000#32)]) 1#32 2 0 = some 0#32 := by
  decide +kernel
theorem test_fsub_of_infinities :
    flagsOf (.fsub (v3 2 3 4)) (Crew.holding crew0 [(3, 0, 0x7F800000#32), (4, 0, 0x7F800000#32)]) = some flagNV := by decide +kernel
/-- 13 R176: FMIN orders −0 below +0 and yields the operand that is no NaN. -/
theorem test_fmin_of_zeros :
    sent (.fmin (v3 2 3 4)) (Crew.holding crew0 [(3, 0, 0#32), (4, 0, 0x80000000#32)]) 1#32 2 0 = some 0x80000000#32 := by
  decide +kernel
theorem test_fmax_of_nan :
    sent (.fmax (v3 2 3 4)) (Crew.holding crew0 [(3, 0, 0x7FC00001#32), (4, 0, 0xC0000000#32)]) 1#32 2 0 = some 0xC0000000#32 := by
  decide +kernel
/-- 09 R119: FCVTI to nearest even of 2.5, and saturation with NV. -/
theorem test_fcvti : sent (.fcvti (v3 2 3 0)) (Crew.holding crew0 [(3, 0, 0x40200000#32)]) 1#32 2 0 = some 2#32 := by decide +kernel
theorem test_fcvti_saturates :
    sent (.fcvti (v3 2 3 0)) (Crew.holding crew0 [(3, 0, 0x4F000000#32)]) 1#32 2 0 = some 0x7FFFFFFF#32 := by decide +kernel
/-- 13 R184: the ray through a shared edge meets the first triangle at t = 1. -/
theorem test_rtri :
    let one := 0x3F800000#32
    let neg := 0xBF800000#32
    let c := Crew.holding crew0 [(8, 0, 0#32), (9, 0, 0#32), (10, 0, neg), (11, 0, 0#32), (12, 0, 0#32), (13, 0, one),
      (16, 0, neg), (17, 0, neg), (18, 0, 0#32), (19, 0, one), (20, 0, neg), (21, 0, 0#32), (22, 0, neg), (23, 0, one),
      (24, 0, 0#32), (4, 0, 0#32), (5, 0, 0x41200000#32)]
    sent (.rtri (plain64 28 8 16 4 0)) c 1#32 28 0 = some one ∧ sent (.rtri (plain64 28 8 16 4 0)) c 1#32 29 0 = some 0x3F000000#32 := by
  decide +kernel
/-- 15 after R195: lanes 1, 4, 5, 9 and 12 hold 3, 0, 7, 2 and 5, and select 1, 5 and 12. -/
def packed : Crew :=
  Crew.holding crew0 [(2, 1, 3#32), (2, 4, 0#32), (2, 5, 7#32), (2, 9, 2#32), (2, 12, 5#32),
    (3, 1, 1#32), (3, 4, 0#32), (3, 5, 1#32), (3, 9, 0#32), (3, 12, 1#32)]
theorem test_lscan : sent (.lscan (plain64 6 2 0 0 0)) packed 0x1232#32 6 9 = some 12#32 := by decide +kernel
theorem test_compact :
    sent (.compact (plain64 7 2 3 0 0)) packed 0x1232#32 7 4 = some 7#32 ∧
      sent (.compact (plain64 7 2 3 0 0)) packed 0x1232#32 7 9 = none := by decide +kernel
theorem test_vote_ballot : sent (.vote (v3 8 3 2)) packed 0x1232#32 8 4 = some 0x1022#32 := by decide +kernel
/-- 16: the keys 5, 3, 5, 9, 3, 5, 9, 5 of lanes 0 to 7. -/
theorem test_match :
    sent (.match64 (plain64 4 2 0 0 0)) (Crew.holding crew0 ([5, 3, 5, 9, 3, 5, 9, 5].zipIdx.map fun e => (2, e.2, BitVec.ofNat 32 e.1)))
      0xFF#32 4 5 = some 0xA5#32 := by decide +kernel
/-- 17 R203: BRNZ goes back 11 halfwords where va is not 0. -/
theorem test_brnz :
    ((crewAfter (.brnz { s := 0, va := 3, d := 0x7FF5 }) (Crew.holding crew0 [(3, 0, 1#32), (3, 1, 0#32)]) 3#32).map fun c =>
      ((c.thread 0).pc, (c.thread 1).pc)) = some (0x1FFFEA#57, 0x200008#57) := by decide +kernel
/-- 17 R215: SLEEP 3 sleeps for 64 clocks. -/
theorem test_sleep :
    ((crewAfter (.sleep { s := 0, imm := 3 }) crew0 1#32).map fun c => (c.thread 0).wait) = some (.sleep 64) := by decide +kernel
/-- 27 after R310: TRAP 0x21 parks its threads at cause 0x221, the handler being enabled. -/
def handled : State → State := fun s => s.setContext 0 { s.context 0 with hen := true, hbase := 0x300000#57 }
theorem test_trap :
    (match exec (.trap { s := 0, imm := 0x21 }) (handled (meeting crew0 0xF#32)) with
     | .next s => (s.crews.get 0).map fun c => ((c.thread 3).pc, (c.thread 3).handler, (c.thread 3).h.head?, (c.thread 4).handler)
     | _ => none) = some (0x300000#57, true, some 0x221#32, false) := by decide +kernel
/-- 29 R328: jcard.ld a0, a1 gives dword a1 mod 8 of the card. -/
theorem test_jcard_ld :
    (match exec (.jcardLd 10 11) (let s := State.reset.withFetchWord 32 0x0B
      let e := s.engine 0
      (s.setEngine 0 { e with running := e.running.map (fun j => { j with card := [0, 0, 0, 7, 0, 0, 0, 0] })
                              hart := e.hart.setX 11 3 }).setNear { (s.setEngine 0 { e with
                                running := e.running.map (fun j => { j with card := [0, 0, 0, 7, 0, 0, 0, 0] })
                                hart := e.hart.setX 11 3 }).near with turn := some 0 }) with
     | .next s => some ((s.engine 0).hart.getX 10)
     | _ => none) = some 7#64 := by decide +kernel
/-- 03 R23: a step from the placed state issues MOV v0, v0 and moves every thread by 2 bytes. -/
theorem test_step_issues :
    (match step (State.reset.withFetchWord 16 0) with
     | .next s => (s.crews.get 0).map fun c => ((c.thread 31).pc, s.cur.isNone)
     | _ => none) = some (0x200002#57, true) := by decide +kernel

/-! ## Witnesses: states and operands that meet the hypotheses of the statements -/

/-- A state in which crew slot 0 of s holds c and the issue `is` is in progress. -/
def met (s : State) (c : Crew) (is : Issue) : State := { s with crews := [(0, c)], cur := some is }

/-- The issue of lane 0 alone, of all lanes, and of lane 0 in handler mode. -/
def lane0 : Issue := issueOf 1#32
def allLanes : Issue := issueOf 0xFFFFFFFF#32
def inHandler : Issue := { lane0 with handler := true }

/-- The placed state with the handler of context 0 enabled. -/
def baseH : State := handled base

/-- The crew after changes to its thread of lane 0. -/
def lane0As (f : Thread → Thread) : Crew := crew0.setThread 0 (f (crew0.thread 0))

theorem ready_of {i : Instr} {m : Form} {s : State} {is : Issue} {c : Crew} (h0 : is.crew = 0)
    (h : groupBar i m is c = none ∧ (readRaised i m is c).isEmpty = true) : ReadyAs i m (met s c is) is c :=
  ⟨rfl, by rw [h0]; rfl, h.1, List.isEmpty_iff.1 h.2⟩

theorem crew0_conv : crew0.conv = [] := by decide +kernel
theorem crew0_threads : ∀ e ∈ crew0.threads, e.1 < 32 := by decide +kernel

/-- The instructions of which LaneGives, CrossGives or Branches speak: an operand of each kind. -/
def simpleInstrs : List Instr :=
  let f := v3 2 4 6
  let u := v3 2 4 0
  let b := v3 2 0 4
  let i : VI := { s := 0, vd := 2, va := 4, la := false, imm := 7 }
  let j : VI := { i with va := 0 }
  let h : H16 := { vd := 2, vb := 4 }
  [.nop { s := 0 }, .mov b, .movi j, .gmov { s := 0, v := 2, n := 383 }, .add f, .addImm i, .sub f, .subImm i, .mul f, .mulImm i,
   .mulhi f, .mulhu f, .imad f, .imin f, .imax f, .umin f, .umax f, .and32 f, .andImm i, .or32 f, .orImm i, .xor f, .xorImm i,
   .andn f, .shl f, .shlImm i, .shr f, .shrImm i, .sar f, .sarImm i, .rol f, .rolImm i, .clz u, .popc u, .brev u, .bfx f, .bfi f,
   .icmpEq f, .icmpNe f, .icmpLt f, .icmpLe f, .icmpLtu f, .icmpLeu f, .icmpGt f, .icmpGtu f, .sel f, .addw f, .scaddw2 f,
   .scaddw4 f, .scaddw8 f, .scaddw16 f, .mov16 h, .add16 h, .sub16 h, .and16 h, .or16 h, .xor16 h, .shl16 h, .shr16 h, .sar16 h,
   .imin16 h, .imax16 h, .fadd16 h, .fsub16 h, .fmul16 h, .fmin16 h, .fmax16 h, .fadd f, .fsub f, .fmul f, .ffma f, .ffms f,
   .fmin f, .fmax f, .fsat u, .fclass u, .fcopysign f, .fabs u, .fneg u, .fcmpEq f, .fcmpNe f, .fcmpLt f, .fcmpLe f, .fcmpGt f,
   .fcmpGe f, .fcmpOrd f, .fcmpUno f, .frnd u, .fcvti u, .icvtf u, .ucvtf u, .frcp u, .frsq u, .fsqrt u, .fexp2 u, .flog2 u,
   .fsinpi u, .fcospi u, .ftanh u, .ffma4 (plain64 20 8 12 20 0), .rbox (plain64 20 8 16 4 0), .rtri (plain64 20 8 16 4 1),
   .spr j, .vote (v3 2 4 3), .shfl f, .elect (v3 2 0 0), .elect (v3 2 0 1), .wake (v3 0 4 0), .lred (plain64 2 4 0 0 7),
   .lred (plain64 2 4 0 0 10), .lscan (plain64 2 4 0 0 0x10), .lscan (plain64 2 4 0 0 0x18), .match64 (plain64 2 4 0 0 0),
   .compact (plain64 2 4 6 0 0), .expand (plain64 2 4 6 0 0), .bra { s := 0, d := 4 }, .brz { s := 0, va := 2, d := 4 },
   .brnz { s := 0, va := 2, d := 4 }, .bcc (plain64 2 4 6 0 0), .bcc (plain64 2 4 6 0 15), .jmpr (v3 0 4 0), .callr (v3 0 4 0),
   .call { s := 0, d := 4 }, .ret { s := 0 }, .cvset { s := 0, c := 15 }, .cvdrop { s := 0, c := 0 }, .exit { s := 0 },
   .yield { s := 0 }, .sleep { s := 0, imm := 255 }, .brk { s := 0, imm := 1 }, .trap { s := 0, imm := 255 }]

theorem simple_ready : ∀ i ∈ simpleInstrs,
    groupBar i i.form allLanes crew0 = none ∧ (readRaised i i.form allLanes crew0).isEmpty = true := by decide +kernel

/-- Every one of them meets a state in which it issues. -/
theorem witness_simple : ∀ i ∈ simpleInstrs, Ready i (met baseH crew0 allLanes) allLanes crew0 :=
  fun i h => ready_of rfl (simple_ready i h)

/-- The group register GMOV reads. -/
theorem witness_gmov : parts (.gmov { s := 0, v := 2, n := 383 }) allLanes crew0 ≠ [] := by decide +kernel
/-- A magnitude between integers, at its tie. -/
theorem witness_rounding : (0 < (Q.of 5 2).den ∧ 0 ≤ (Q.of 5 2).num) := by decide +kernel
/-- The special operands of the special functions. -/
theorem witness_special : isNan 0x7F800001#32 = true ∧ isNan 0xBF800000#32 = false ∧ (0xBF800000#32 : Word).msb = true ∧
    0xBF800000#32 ≠ zeroWord true ∧ num32 0x40000000#32 = .fin false (Q.of 2 1) ∧ (Q.of 2 1).isZero = false ∧
    (Q.of 2 1).num % (Q.of 2 1).den = 0 := by decide +kernel
/-- The operands of the long forms with a NaN or an infinity. -/
theorem witness_long_forms : ([0x7FC00000#32] ++ [] ++ ([] : List Word)).any isNan = true ∧
    ([0x7F800000#32] ++ [] ++ ([] : List Word)).any (fun x => !(num32 x).isFin) = true := by decide +kernel

def gset5 : G9 := { s := 0, v := 2, n := 5 }
/-- GSET by every live thread, and by lane 0 with others live. -/
theorem witness_gset :
    ReadyAs (.gset gset5) (gsetForm gset5) (met baseH crew0 allLanes) allLanes crew0 ∧
      lanesOf allLanes.lanes = 0 :: (lanesOf allLanes.lanes).tail ∧ gset5.v.toNat < crew0.nregs ∧
      (∀ k ∈ crew0.liveLanes, inMask allLanes.lanes k = true) ∧ runCause crew0 gset5.v.toNat 1 0 = none :=
  ⟨ready_of rfl (by decide +kernel), by decide +kernel⟩
theorem witness_gset_refused :
    ReadyAs (.gset gset5) (gsetForm gset5) (met baseH crew0 lane0) lane0 crew0 ∧ lanesOf lane0.lanes = [0] ∧
      (∃ k ∈ crew0.liveLanes, inMask lane0.lanes k = false) ∧ OneGroup lane0 crew0 ∧ CanEnter (met baseH crew0 lane0) lane0 crew0 :=
  ⟨ready_of rfl (by decide +kernel), by unfold OneGroup CanEnter; decide +kernel⟩
/-- SPR with the last selector, and with the one above. -/
theorem witness_spr : Ready (.spr { s := 0, vd := 2, va := 0, la := false, imm := 0x0D }) (met baseH crew0 lane0) lane0 crew0 :=
  ready_of rfl (by decide +kernel)
theorem witness_spr_refused :
    let i : Instr := .spr { s := 0, vd := 2, va := 0, la := false, imm := 0x0E }
    groupBar i i.form lane0 crew0 = some 0x002 ∧ (0x0E#8).toNat ≥ 14 := by decide +kernel
/-- ELECT with SLEEP by two lanes; WAKE of a lane asleep under lane 0. -/
theorem witness_elect :
    Ready (.elect (v3 2 0 1)) (met baseH crew0 (issueOf 3#32)) (issueOf 3#32) crew0 ∧ lanesOf (issueOf 3#32).lanes = [0, 1] ∧
      (1#6 : BitVec 6).getLsbD 0 = true ∧ (0#6 : BitVec 6).getLsbD 0 = false :=
  ⟨ready_of rfl (by decide +kernel), by decide +kernel⟩

/-! ### Transfers -/

theorem witness_regroup :
    let i : Instr := .regroup (plain64 0 4 6 0 0)
    let s := met baseH crew0 allLanes
    ReadyAs i { i.form with a := .no } s allLanes crew0 ∧ crew0.stallchk = false ∧
      tableSize (s.core 0) + (lanesOf allLanes.lanes).length ≤ 2048 ∧ allLanes.lanes ≠ 0#32 ∧ (s.core 0).payloads = [] :=
  ⟨ready_of rfl (by decide +kernel), by decide +kernel⟩
theorem witness_arrived_live : ArrivedLive crew0 := fun e h => by rw [crew0_conv] at h; cases h

def xsend3 : Instr := .xsend { plain64 0 4 0 0 3 with imm := 2 }
def xrecv3 : Instr := .xrecv (plain64 2 0 0 0 3)
/-- What a release that carries nothing carries. -/
def bare : Carried := { sig := 0#512, know := [] }
/-- The state with slot 3 of the team filled with one count, empty or released. -/
def slotAs (st : SlotState) : State := setSlot (met baseH crew0 lane0) 0 0 3 { state := st, vals := [], bad := false, carried := bare }
theorem slotAs_met (st : SlotState) : (slotAs st).cur = some lane0 ∧ (slotAs st).crews.get 0 = some crew0 := ⟨rfl, rfl⟩
theorem ready_slot {i : Instr} (st : SlotState)
    (h : groupBar i i.form lane0 crew0 = none ∧ (readRaised i i.form lane0 crew0).isEmpty = true) :
    Ready i (slotAs st) lane0 crew0 := ⟨rfl, rfl, h.1, List.isEmpty_iff.1 h.2⟩
theorem witness_xsend_fills :
    Ready xsend3 (slotAs .released) lane0 crew0 ∧ (slotOf (slotAs .released) 0 0 3).state = .released ∧
      slotSenders (slotAs .released) 0 0 3 = [] ∧ (slotAs .released).sleepers = [] ∧
      (slotAs .released).tctxs.get (tctxKey 0 0) ≠ none ∧
      ((serveReceivers (fillSlot (releaseAt (slotAs .released) 0 2) 0 0 3 2 (sentWords xsend3 lane0 crew0)
        (releaseSig (slotAs .released) 0 2 (lanesOf lane0.lanes))) 0 0 3 0).crews.get 0).isSome = true :=
  ⟨ready_slot _ (by decide +kernel), by decide +kernel⟩
theorem witness_xsend_sleeps :
    Ready xsend3 (slotAs (.filled 1)) lane0 crew0 ∧ (slotOf (slotAs (.filled 1)) 0 0 3).state = .filled 1 :=
  ⟨ready_slot _ (by decide +kernel), by decide +kernel⟩
/-- A released slot behind which another group's XSEND sleeps. -/
theorem witness_xsend_behind :
    let s := (slotAs .released).setSleepers [(5, { crew := 1, lanes := 1#32, since := 0, seq := 0, next := 0, what := .xsend 3 [] 1 bare })]
    let s := { s with crews := s.crews ++ [(1, crew0)] }
    s.cur = some lane0 ∧ s.crews.get 0 = some crew0 ∧ (slotOf s 0 0 3).state = .released ∧ slotSenders s 0 0 3 ≠ [] := by decide +kernel
theorem witness_xrecv :
    (∀ st, Ready xrecv3 (slotAs st) lane0 crew0) ∧ (slotOf (slotAs (.filled 1)) 0 0 3).state = .filled 1 ∧
      (slotOf (slotAs .empty) 0 0 3).state = .empty ∧ (slotOf (slotAs .released) 0 0 3).state = .released ∧
      OneGroup lane0 crew0 ∧ CanEnter (slotAs .released) lane0 crew0 :=
  ⟨fun st => ready_slot st (by decide +kernel), by unfold OneGroup CanEnter; decide +kernel⟩

/-! ### Control -/

/-- A target that JMPR and CALLR take, and one with bit 0 set. -/
theorem witness_jmpr :
    let c (v : Word) := Crew.holding crew0 (everyLane 4 v)
    (∀ p ∈ parts (.jmpr (v3 0 4 0)) lane0 (c 0x1000#32), GoodTarget (pairOf p.a)) ∧
      (∀ p ∈ parts (.callr (v3 0 4 0)) lane0 (c 0x1000#32), GoodTarget (pairOf p.a)) ∧
      (∀ p ∈ parts (.jmpr (v3 0 4 0)) lane0 (c 1#32), pairOf p.a = 1#64) ∧ ¬ GoodTarget 1#64 ∧ ¬ GoodTarget (2#64 ^ 57) ∧
      groupBar (.jmpr (v3 0 4 0)) (Instr.form (.jmpr (v3 0 4 0))) lane0 (c 1#32) = none ∧
      (readRaised (.jmpr (v3 0 4 0)) (Instr.form (.jmpr (v3 0 4 0))) lane0 (c 1#32)).isEmpty = true ∧
      OneGroup lane0 (c 1#32) ∧ CanEnter baseH lane0 (c 1#32) := by
  unfold OneGroup CanEnter GoodTarget; decide +kernel
/-- A return stack of seven entries, and the one RET takes. -/
theorem witness_call :
    let c := lane0As fun t => { t with stack := List.replicate 7 { addr := 0x1000#57, poison := false } }
    (∀ l ∈ lanesOf lane0.lanes, (c.thread l).stack.length < 8) ∧
      (∀ l ∈ lanesOf lane0.lanes, (c.thread l).stack.head?.map (fun e => (e.poison, e.addr.getLsbD 0)) = some (false, false)) ∧
      (∀ l ∈ lanesOf lane0.lanes, (crew0.thread l).stack = [] ∧ (crew0.thread l).tlsp.toNat < 8) := by decide +kernel
/-- Lane 0 with a full return stack, or an empty one, and a TLSP, in a team whose threads have 64 bytes each. -/
def stacked (n : Nat) (tlsp : Word) : Crew :=
  { Crew.holding crew0 (everyLane 4 0x1000#32) with
    threads := (lane0As fun t => { t with
      stack := List.replicate n { addr := 0x1000#57, poison := false }, tlbase := 0x30000#57, tlsp := tlsp }).threads }
def roomy (c : Crew) : State :=
  let s := met baseH c lane0
  { s with launches := s.launches.map fun (e : Nat × Launch) => (e.1, { e.2 with record := { e.2.record with tlsize := 64#32 } }) }
def callInstrs : List Instr := [.call { s := 0, d := 4 }, .callr (v3 0 4 0), .ret { s := 0 }]
theorem witness_spill_issues : ∀ i ∈ callInstrs, ∀ c ∈ [stacked 8 56#32, stacked 8 57#32, stacked 0 8#32],
    groupBar i i.form lane0 c = none ∧ (readRaised i i.form lane0 c).isEmpty = true := by decide +kernel
theorem witness_spill_ready : ∀ i ∈ callInstrs, ∀ c ∈ [stacked 8 56#32, stacked 8 57#32, stacked 0 8#32], Ready i (roomy c) lane0 c :=
  fun i h c g => ⟨rfl, rfl, (witness_spill_issues i h c g).1, List.isEmpty_iff.1 (witness_spill_issues i h c g).2⟩
def allBytes (gs : List (Nat × Got)) : Bool := gs.all fun e => match e.2 with | .bytes _ _ _ => true | _ => false
/-- The last entry that TLSIZE leaves room for is spilled and reloaded; one more passes it. -/
theorem witness_spill_room :
    (∀ l ∈ lanesOf lane0.lanes, ((stacked 8 56#32).thread l).stack.length = 8 ∧
      ∀ e ∈ ((stacked 8 56#32).thread l).stack, e.poison = false) ∧
      (∀ l ∈ lanesOf lane0.lanes, ((stacked 8 56#32).thread l).tlsp.toNat + 8 ≤ tlsizeOf (roomy (stacked 8 56#32)) (stacked 8 56#32)) ∧
      (∀ l ∈ lanesOf lane0.lanes, tlsizeOf (roomy (stacked 8 57#32)) (stacked 8 57#32) < ((stacked 8 57#32).thread l).tlsp.toNat + 8 ∧
        spillAt ((stacked 8 57#32).thread l) ((stacked 8 57#32).thread l).tlsp = 0x30039) := by decide +kernel
theorem witness_spill_call :
    allBytes (spills (.call { s := 0, d := 4 }) (roomy (stacked 8 56#32)) lane0 (stacked 8 56#32)).2 = true := by decide +kernel
theorem witness_spill_callr :
    allBytes (spills (.callr (v3 0 4 0)) (roomy (stacked 8 56#32)) lane0 (stacked 8 56#32)).2 = true := by decide +kernel
theorem witness_callr_goal : ∀ p ∈ parts (.callr (v3 0 4 0)) lane0 (stacked 8 56#32), GoodTarget (pairOf p.a) := by
  unfold GoodTarget; decide +kernel
theorem witness_refill :
    (∀ l ∈ lanesOf lane0.lanes, ((stacked 0 8#32).thread l).stack = [] ∧ 8 ≤ ((stacked 0 8#32).thread l).tlsp.toNat) ∧
      OneGroup lane0 (stacked 0 8#32) ∧ CanEnter (roomy (stacked 0 8#32)) lane0 (stacked 0 8#32) := by
  unfold OneGroup CanEnter; decide +kernel
theorem witness_refill_read :
    let r := refills (.ret { s := 0 }) (roomy (stacked 0 8#32)) lane0 (stacked 0 8#32)
    (allBytes r.2 && (lanesOf lane0.lanes).all fun l => !((wordOfBytes 8 (bytesOf r.2 l)).setWidth 57).getLsbD 0) = true := by
  decide +kernel

/-- Lane 0 waits at convergence register 0, whose members are given. -/
def waitsAt (members : Lanes) : Crew :=
  { lane0As (fun t => { t with wait := .conv 0 }) with conv := [(0, { members, arrived := 1#32 })] }
def waitsAt0 : Crew := waitsAt 3#32
def waitsAt2 : Crew := waitsAt 7#32
/-- CVSET with nobody and with lane 0 waiting. -/
theorem witness_cvset :
    (∀ l ∈ crew0.liveLanes, (crew0.thread l).wait ≠ .conv 15) ∧ (∃ l ∈ waitsAt0.liveLanes, (waitsAt0.thread l).wait = .conv 0) ∧
      OneGroup (issueOf 2#32) waitsAt0 ∧ CanEnter baseH (issueOf 2#32) waitsAt0 := by
  unfold OneGroup CanEnter; decide +kernel
def cvInstrs : List Instr := [.cvset { s := 0, c := 0 }, .cvdrop { s := 0, c := 0 }, .cvwait { s := 0, c := 0 }]
theorem witness_cv_ready : ∀ i ∈ cvInstrs, ∀ c ∈ [waitsAt0, waitsAt2], Ready i (met baseH c (issueOf 2#32)) (issueOf 2#32) c :=
  fun i h c g => ready_of rfl ((by decide +kernel : ∀ i ∈ cvInstrs, ∀ c ∈ [waitsAt0, waitsAt2],
    groupBar i i.form (issueOf 2#32) c = none ∧ (readRaised i i.form (issueOf 2#32) c).isEmpty = true) i h c g)
/-- CVDROP of lane 1 out of two members, lane 0 having arrived, and out of three. -/
theorem witness_cvdrop :
    (∀ c ∈ [waitsAt0, waitsAt2], ∀ e ∈ c.conv, e.1 < 16 ∧ (e.1 ≠ 0 → e.2.arrived = 0#32)) ∧
      (∀ l ∈ waitsAt0.liveLanes, inMask (3#32 &&& ~~~2#32) l = true → inMask (1#32 &&& ~~~2#32) l = true) ∧
      (∃ l ∈ waitsAt2.liveLanes, inMask (7#32 &&& ~~~2#32) l = true ∧ inMask (1#32 &&& ~~~2#32) l = false) := by decide +kernel
theorem thread_beyond (c : Crew) (l : Nat) (h : ∀ e ∈ c.threads, e.1 < 32) (hl : 32 ≤ l) : c.threads.get l = none :=
  Map.get_none _ _ fun e he => by have := h e he; omega
/-- CVWAIT by the last member, lane 1 of two, lane 0 having arrived, and by one of three; and by a group of which lane 1 alone
is a member, lane 3 asleep under lane 0. -/
theorem witness_cvwait :
    (∀ l ∈ lanesOf (2#32 : Lanes), ∀ c ∈ [waitsAt0, waitsAt2], (c.thread l).live = true ∧ (c.thread l).wait = .awake) ∧
      (∀ l, l < 32 → inMask 1#32 l = true → (waitsAt0.thread l).wait = .conv 0) ∧
      (∀ l ∈ waitsAt0.liveLanes, inMask 3#32 l = true → inMask (1#32 ||| 2#32) l = true) ∧
      (∃ l ∈ waitsAt2.liveLanes, inMask 7#32 l = true ∧ inMask (1#32 ||| 2#32) l = false) ∧
      (∃ l ∈ waitsAt2.liveLanes, inMask 2#32 l = false ∧ (waitsAt2.thread l).wait = .awake) := by decide +kernel
def mixed : Crew :=
  { crew0.setThread 3 { crew0.thread 3 with wait := .elect 0 } with conv := [(0, { members := 6#32, arrived := 0#32 })] }
theorem witness_cvwait_mixed :
    Ready (.cvwait { s := 0, c := 0 }) (met baseH mixed (issueOf 3#32)) (issueOf 3#32) mixed ∧
      (∀ l ∈ lanesOf (3#32 : Lanes), (mixed.thread l).live = true ∧ (mixed.thread l).wait = .awake) ∧
      (∃ l ∈ mixed.liveLanes, inMask 6#32 l = true ∧ inMask (0#32 ||| 3#32 &&& 6#32) l = false) ∧
      (∃ l ∈ mixed.liveLanes, inMask (3#32 &&& 6#32) l = false ∧ (mixed.thread l).wait = .awake) ∧
      (mixed.thread 3).wait = .elect 0 := ⟨ready_of rfl (by decide +kernel), by decide +kernel⟩
/-- HKILL needs handler mode. -/
def handlerCrew : Crew := lane0As fun t => { t with handler := true }
theorem witness_hkill : Ready (.hkill (plain64 0 0 0 0 0)) (met baseH handlerCrew inHandler) inHandler handlerCrew :=
  ready_of rfl (by decide +kernel)
theorem witness_traps : OneGroup allLanes crew0 ∧ CanEnter (met baseH crew0 allLanes) allLanes crew0 := by
  unfold OneGroup CanEnter; decide +kernel
/-- REP of ADD v16, v32, v40 (07): the target is fetched, decodes and steps; with the root table gone the fetch fails; and
with HKILL as its target the unit raises. -/
def rep3 : RP := { s := 0, n := 3, d := true, a := false, b := true }
def repeated (w : Nat) : State := met (State.reset.withFetchWord 64 w) crew0 lane0
def repeatedH (w : Nat) : State := handled (repeated w)
def unmapped : State :=
  let s := repeatedH 0x14408081000A1F31
  s.setMem (writeSeq MemSys.putThrough s.mem 0x100000 (List.replicate 8 0#8))
theorem witness_rep :
    (match fetchInstr (repeated 0x14408081000A1F31) 0 0 (lane0.pc + 4#57) with
     | .ok bs =>
       (match repTargetAt rep3 false (bs.map Prod.snd) 64 false 3 with | .ok t => decide (t = .add (v3 19 32 43)) | .error _ => false)
     | .error _ => false) = true ∧
    (match fetchInstr (repeatedH 0x14408081000A1F31) 0 0 (lane0.pc + 4#57) with
     | .ok bs =>
       (match repTargetAt rep3 false (bs.map Prod.snd) 40 false 0 with | .ok _ => false | .error k => decide (k = 0x004))
     | .error _ => false) = true ∧
    (match fetchInstr unmapped 0 0 (lane0.pc + 4#57) with
     | .error k => decide (0x040 ≤ k ∧ k ≤ 0x04D) | _ => false) = true ∧
    OneGroup lane0 crew0 ∧ CanEnter (repeatedH 0x14408081000A1F31) lane0 crew0 := by unfold OneGroup CanEnter; decide +kernel
/-- A target for each cause a unit raises, and what makes it so: unassigned, a step bit of a field not used, privileged, a
number beyond the allocation, and one no unit may repeat. -/
def repCases : List (RP × Instr × Nat × Option Nat × Bool × Bool) :=
  [({ rep3 with d := false, b := false }, .unassignedEncoding false 0x61#64, 0x001, some 0x001, false, false),
   ({ rep3 with d := false }, .movi { s := 0, vd := 2, va := 0, la := false, imm := 7 }, 0x002, none, true, false),
   ({ rep3 with d := false, b := false }, .hkill (plain64 0 0 0 0 0), 0x003, some 0x003, false, false),
   (rep3, .add (v3 61 4 6), 0x004, none, false, true),
   ({ rep3 with d := false, b := false }, .bra { s := 0, d := 4 }, 0x006, none, false, false)]
theorem witness_rep_causes : ∀ x ∈ repCases, x.2.1.decodeCause 64 false = x.2.2.2.1 ∧ StepsUnused x.1 x.2.1 = x.2.2.2.2.1 ∧
    PassesLast x.1 x.2.1 64 = x.2.2.2.2.2 ∧
    (match decode ((encodeBytes x.2.1).getD []) with | .ok (t, _) => decide (t = x.2.1) | _ => false) = true := by
  decide +kernel

/-! ### Memory -/

/-- Lane 0's pair w4 holds the address of a word of HBM, and v6 a value. -/
def addressed : Crew := Crew.holding crew0 [(4, 0, 0x10000#32), (5, 0, 0#32), (6, 0, 0x3F800000#32), (7, 0, 0#32)]
/-- The state in which it issues. -/
def memState : State := met baseH addressed lane0
/-- Where that address lies, behind the root table's leaf. -/
def there (pa : Nat) : Mapped := { pa, pte := 0xDF#64, pteAt := 0x100000 }
/-- The same with granule 0x1000 poisoned, and with the whole space an IO page. -/
def poisonState : State := memState.setMem (memState.mem.poisonSet 0x1000)
def ioState : State := memState.setMem (writeSeq MemSys.putThrough memState.mem 0x100000 (natBytes 8 (2 ^ 62 + 0xDF)))

/-- MemGood as a test. -/
def goodMem (m : MemSys) : Bool :=
  m.ram.wf && Map.sorted m.l2 && Map.sorted m.l1 && Map.sorted m.scratch && Map.sorted m.scratchPoison && Map.sorted m.poison &&
    Map.sorted m.acc && Map.sorted m.accPoison && Map.sorted m.staged
theorem good_of {m : MemSys} (h : goodMem m = true) : MemGood m := by
  simp only [goodMem, Bool.and_eq_true] at h
  obtain ⟨⟨⟨⟨⟨⟨⟨⟨h1, h2⟩, h3⟩, h4⟩, h5⟩, h6⟩, h7⟩, h8⟩, h9⟩ := h
  exact ⟨h1, h2, h3, h4, h5, h6, h7, h8, h9⟩
theorem memState_good : MemGood memState.mem := good_of (by decide +kernel)
theorem lies_of {s : State} {n : Nat} {k : Access} {pa : Nat} (h : 0 < n ∧ meet s 0 0 pa n k = .ok [(there pa, n)] ∧
    s.sys.target pa = .hbm ∧ pa + n ≤ 2 ^ 52) : LiesAt s 0 0 pa n k (there pa) :=
  ⟨h.1, h.2.1, fun p => by show s.sys.target pa ≠ _; rw [h.2.2.1]; simp, h.2.2.2⟩
def performed (gs : List (Nat × Got)) : Bool := gs.all fun e => match e.2 with | .bytes _ _ _ => true | _ => false
theorem performed_iff {gs : List (Nat × Got)} (h : performed gs = true) : AllPerformed gs := by
  intro e he
  have := List.all_eq_true.1 h e he
  cases hx : e.2 <;> simp_all

/-- An access of 4 bytes, the greatest below the end of the page, a misaligned address, one that is not canonical, poison,
and an IO page. -/
theorem witness_load : LiesAt memState 0 0 0x10FFC 4 .load (there 0x10FFC) ∧ memState.mem.poisonIn 0x10FFC 4 = false ∧
    0x10001 % 4 ≠ 0 ∧ meet memState 0 0 (2 ^ 56) 4 .load = .bad 0x042 ∧ poisonState.mem.poisonIn 0x10000 4 = true :=
  ⟨lies_of (by decide +kernel), by decide +kernel⟩
theorem witness_store : LiesAt memState 0 0 0x10FFC 4 .store (there 0x10FFC) ∧ windowAt memState 0 0x10FFC = none ∧
    meet memState 0 0 (2 ^ 56) 4 .store = .bad 0x042 := ⟨lies_of (by decide +kernel), by decide +kernel⟩
/-- Reducing window 3, of 4 KiB from the address, with an operation; and the whole space read-only or execute-only. -/
def winState (op : BitVec 2) : State :=
  memState.setContext 0 { memState.context 0 with windows := [(3, { base := 0x10000#57, log := 12#5, op, en := true })] }
def permState (s : State) (pte : Nat) : State := s.setMem (writeSeq MemSys.putThrough s.mem 0x100000 (natBytes 8 pte))
theorem witness_reduce :
    LiesAt (winState 0) 0 0 0x10FFC 4 .store (there 0x10FFC) ∧ LiesAt (winState 1) 0 0 0x10FFE 2 .store (there 0x10FFE) ∧
      LiesAt (winState 2) 0 0 0x10000 4 .store (there 0x10000) ∧ windowsAt (winState 0) 0 0x10FFC = [(3, 0)] ∧
      windowsAt (winState 1) 0 0x10FFE = [(3, 1)] ∧ windowsAt (winState 2) 0 0x10000 = [(3, 2)] ∧
      (winState 2).sys.target 0x10000 = .hbm ∧ windowsAt (permState (winState 2) 0xDB) 0 0x10000 = [(3, 2)] ∧
      meet (permState (winState 2) 0xDB) 0 0 0x10000 4 .store = .bad 0x043 :=
  ⟨lies_of (by decide +kernel), lies_of (by decide +kernel), lies_of (by decide +kernel), by decide +kernel⟩
theorem witness_atomic_read_only :
    reach (permState memState 0xDB) 0 0 0x10000 .store = .bad 0x043 ∧
      (match reach (permState memState 0xDB) 0 0 0x10000 .load with
        | .ok m => (permState memState 0xDB).sys.target m.pa == .hbm && !isIo m.pte | _ => false) = true ∧
      reach (permState memState 0xD9) 0 0 0x10000 .store = .bad 0x043 ∧
      (match reach (permState memState 0xD9) 0 0 0x10000 .load with | .ok _ => false | _ => true) = true ∧
      windowAt (winState 2) 0 0x10000 ≠ none ∧ (match reach (winState 2) 0 0 0x10000 .store with
        | .ok m => !(winState 2).mem.poisonIn m.pa 4 | _ => false) = true := by decide +kernel
theorem witness_atomic : reach memState 0 0 0x10000 .store = .ok (there 0x10000) ∧ memState.sys.target 0x10000 = .hbm ∧
    reach memState 0 0 (2 ^ 56) .store = .bad 0x042 ∧
    (match reach ioState 0 0 0x10000 .store with | .ok m => isIo m.pte | _ => false) = true := by decide +kernel
/-- A byte outside the page table entry. -/
theorem witness_not_the_entry : NotTheEntry memState 0 0 0x10000 true 0x10000 := by
  intro pte at' log h
  have : leafOf memState 0 0 (0x10000 % 2 ^ 57) true = .leaf 0xDF#64 0x100000 48 := by decide +kernel
  rw [this] at h; injection h; omega

/-- A team whose record gives it 1 KiB of scratchpad. -/
def scratchState : State :=
  { met baseH (Crew.holding crew0 [(4, 0, 0x3F0#32), (6, 0, 7#32), (7, 0, 7#32)]) lane0 with
    launches := base.launches.map fun e => (e.1, { e.2 with record := { e.2.record with scratch := 1 } }) }
def scratchCrew : Crew := Crew.holding crew0 [(4, 0, 0x3F0#32), (6, 0, 7#32), (7, 0, 7#32)]
/-- The last word of the reservation, and the one behind it. -/
theorem witness_scratch : scratchAt scratchState 0 0x3FC 4 = some 0x3FC ∧ scratchAt scratchState 0 0x400 4 = none ∧
    scratchState.mem.scratchPoisoned 0x3FC 4 = false ∧ scratchState.cores = [] := by decide +kernel
theorem witness_no_footprint (g : Nat) : inFootprint scratchState 0 g = false := by
  have : scratchState.cores = [] := by decide +kernel
  simp [inFootprint, this]
theorem ready_scratch {i : Instr}
    (h : groupBar i i.form lane0 scratchCrew = none ∧ (readRaised i i.form lane0 scratchCrew).isEmpty = true) :
    Ready i scratchState lane0 scratchCrew := ⟨rfl, rfl, h.1, List.isEmpty_iff.1 h.2⟩
theorem ready_mem {i : Instr} {s : State} (hs : s.cur = some lane0 ∧ s.crews.get 0 = some addressed)
    (h : groupBar i i.form lane0 addressed = none ∧ (readRaised i i.form lane0 addressed).isEmpty = true) :
    Ready i s lane0 addressed := ⟨hs.1, hs.2, h.1, List.isEmpty_iff.1 h.2⟩

def ld (mod : BitVec 15) : Instr := .ld (plain64 8 4 0 0 mod)
def st (mod : BitVec 15) : Instr := .st (plain64 0 4 0 6 mod)
/-- LD of a word (FMT 2), of a quad, with acquire at device scope, and of the three records. -/
def lds0 : List Instr := [ld 0x002, ld 0x023, ld 0x342, ld 0x00A, ld 0x00B, ld 0x34C]
theorem witness_ld : ∀ i ∈ lds0, Ready i memState lane0 addressed :=
  fun i h => ready_mem ⟨rfl, rfl⟩ ((by decide +kernel : ∀ i ∈ lds0,
    groupBar i i.form lane0 addressed = none ∧ (readRaised i i.form lane0 addressed).isEmpty = true) i h)
theorem witness_ld_performed : AllPerformed (inTurn (fun s p => threadLoad s 0 0
    (eaOf (ld 2).fields false 4 p) 4 4 true) (parts (ld 2) lane0 addressed) memState).2 ∧
    AllPerformed (inTurn (fun s p => threadLoad s 0 0 (eaOf (ld 0x342).fields false 4 p) 4 4 false)
      (parts (ld 0x342) lane0 addressed) memState).2 ∧
    Same (parts (ld 0x00A) lane0 addressed) (fun p => eaOf (ld 0x00A).fields false 2 p) 0x10000 :=
  ⟨performed_iff (by decide +kernel), performed_iff (by decide +kernel), by unfold Same; decide +kernel⟩
theorem witness_record_lies : LiesAt memState 0 0 0x10000 34 .load (there 0x10000) ∧
    LiesAt memState 0 0 0x10000 18 .load (there 0x10000) := ⟨lies_of (by decide +kernel), lies_of (by decide +kernel)⟩
/-- ST of a word, as a release at device scope, and of a record. -/
def sts0 : List Instr := [st 0x002, st 0x342, st 0x00A, st 0x00B]
theorem witness_st : ∀ i ∈ sts0, Ready i memState lane0 addressed :=
  fun i h => ready_mem ⟨rfl, rfl⟩ ((by decide +kernel : ∀ i ∈ sts0,
    groupBar i i.form lane0 addressed = none ∧ (readRaised i i.form lane0 addressed).isEmpty = true) i h)
theorem witness_st_performed :
    (match threadStore memState 0 0 0x10000 4 [1, 2, 3, 4] true (some 2) with | (_, .bytes _ _ _) => true | _ => false) = true ∧
      (match threadStore (releaseAt memState 0 5) 0 0 0x10000 4 [1, 2, 3, 4] false (some 2) with
        | (_, .bytes _ _ _) => true | _ => false) = true ∧
      (match threadStore memState 0 0 0x10000 2 (List.replicate 34 1) true none with | (_, .bytes _ _ _) => true | _ => false) = true ∧
      windowAt memState 0 (0x10000 + 34 - 1) = none := by decide +kernel
/-- Two lanes whose record addresses differ. -/
def apart : Crew := Crew.holding addressed [(4, 1, 0x10100#32), (5, 1, 0#32), (6, 1, 0#32)]
theorem witness_records_differ :
    let is := issueOf 3#32
    Ready (st 0x00A) (met baseH apart is) is apart ∧ OneGroup is apart ∧ (baseH.context (ctxOf baseH apart)).hen = true ∧
      (∃ p ∈ parts (st 0x00A) is apart, ∃ q ∈ parts (st 0x00A) is apart,
        eaOf (st 0x00A).fields false 2 p ≠ eaOf (st 0x00A).fields false 2 q) :=
  ⟨ready_of rfl (by decide +kernel), by unfold OneGroup; decide +kernel⟩
theorem witness_records_reach : ∀ p ∈ parts (st 0x00A) (issueOf 3#32) apart, eaOf (st 0x00A).fields false 2 p % 2 = 0 ∧
    (match meet (met baseH apart (issueOf 3#32)) 0 0 (eaOf (st 0x00A).fields false 2 p) 34 .store with | .ok _ => true | _ => false) = true := by
  decide +kernel

def lds (mod : BitVec 15) : Instr := .lds (plain64 8 4 0 0 mod)
def sts (mod : BitVec 15) : Instr := .sts (plain64 0 4 0 6 mod)
theorem witness_scratch_access : ∀ i ∈ [lds 0x002, sts 0x002, lds 0x00B, sts 0x00B], Ready i scratchState lane0 scratchCrew :=
  fun i h => ready_scratch ((by decide +kernel : ∀ i ∈ [lds 0x002, sts 0x002, lds 0x00B, sts 0x00B],
    groupBar i i.form lane0 scratchCrew = none ∧ (readRaised i i.form lane0 scratchCrew).isEmpty = true) i h)
theorem witness_scratch_performed :
    AllPerformed (inTurn (fun s p => (s, scratchLoad s 0 (scratchEaOf (lds 2).fields false 4 p) 4 4))
      (parts (lds 2) lane0 scratchCrew) scratchState).2 ∧
    AllPerformed (inTurn (fun s p => scratchStore s [threadWriter 0 p.l] 0 (scratchEaOf (sts 2).fields false 4 p) 4 [1, 2, 3, 4])
      (parts (sts 2) lane0 scratchCrew) scratchState).2 ∧
    scratchAt scratchState 0 0x3EE 18 = some 0x3EE :=
  ⟨performed_iff (by decide +kernel), performed_iff (by decide +kernel), by decide +kernel⟩

/-- ATOM of 4 bytes with operation 11 and of 8 bytes with operation 8, as acquire and release at device scope; ARED; CAS of 16 bytes. -/
def atoms : List Instr :=
  [.atom (plain64 8 4 0 6 0x00B), .atom (plain64 8 4 0 6 0xE98), .ared (plain64 0 4 0 6 0x000), .cas (plain64 8 4 0 12 0x020)]
theorem witness_atoms : ∀ i ∈ atoms, Ready i memState lane0 addressed :=
  fun i h => ready_mem ⟨rfl, rfl⟩ ((by decide +kernel : ∀ i ∈ atoms,
    groupBar i i.form lane0 addressed = none ∧ (readRaised i i.form lane0 addressed).isEmpty = true) i h)
theorem witness_atoms_performed :
    AllPerformed (atomFrom (plain64 8 4 0 6 0xE98) memState lane0 (fun _ _ => true) fun s0 =>
      atomics (.atom (plain64 8 4 0 6 0xE98)) (plain64 8 4 0 6 0xE98) memState s0 lane0 addressed 8 fun p old =>
        some (bytesOfWord 8 (atomValue 8 8 (wordOfBytes 8 old) (operandWord 8 p.c)))).2 ∧
    AllPerformed (atomFrom (plain64 0 4 0 6 0x000) memState lane0 (fun _ _ => true) fun s0 =>
      atomics (.ared (plain64 0 4 0 6 0x000)) (plain64 0 4 0 6 0x000) memState s0 lane0 addressed 4 fun p old =>
        some (bytesOfWord 4 (atomValue 0 4 (wordOfBytes 4 old) (operandWord 4 p.c)))).2 ∧
    AllPerformed (atomFrom (plain64 8 4 0 12 0x020) memState lane0 (fun _ _ => false) fun s0 =>
      atomics (.cas (plain64 8 4 0 12 0x020)) (plain64 8 4 0 12 0x020) memState s0 lane0 addressed 16 fun p old =>
        if old = p.d.flatMap (bytesOfWord 4) then some (p.c.flatMap (bytesOfWord 4)) else none).2 :=
  ⟨performed_iff (by decide +kernel), performed_iff (by decide +kernel), performed_iff (by decide +kernel)⟩

/-! ### Fences, barriers, launches, registers and handlers -/

/-- FENCE of kinds acq and sc; PREF; CCTL with each operation's code at its ends. -/
def fences : List Instr := [.fence (plain64 0 0 0 0 0x14), .fence (plain64 0 0 0 0 0x17), .pref (plain64 0 4 0 0 0), .cctl (plain64 0 4 0 0 0)]
theorem witness_fences : ∀ i ∈ fences, Ready i memState lane0 addressed :=
  fun i h => ready_mem ⟨rfl, rfl⟩ ((by decide +kernel : ∀ i ∈ fences,
    groupBar i i.form lane0 addressed = none ∧ (readRaised i i.form lane0 addressed).isEmpty = true) i h)
theorem witness_cctl_reaches : (match reach memState 0 0 0x10000 .cache with | .ok _ => true | _ => false) = true := by decide +kernel

def bar : Instr := .bar (plain64 0 0 0 0 0)
/-- BAR by all threads of the team; by lane 0 alone; in handler mode. -/
theorem witness_bar :
    Ready bar (met baseH crew0 allLanes) allLanes crew0 ∧ Ready bar (met baseH crew0 lane0) lane0 crew0 ∧
      Ready bar (met baseH handlerCrew inHandler) inHandler handlerCrew :=
  ⟨ready_of rfl (by decide +kernel), ready_of rfl (by decide +kernel), ready_of rfl (by decide +kernel)⟩
theorem witness_bar_team :
    let s := met baseH crew0 lane0
    Map.sorted s.crews = true ∧ ((s.teams.get 0).map Team.barBad) = some false ∧
      (∀ l ∈ crew0.liveLanes, inMask allLanes.lanes l = true) ∧ (∀ l, l < 32 → (crew0.thread l).wait = .awake) ∧
      (∃ l ∈ crew0.liveLanes, (crew0.thread l).wait = .awake ∧ inMask lane0.lanes l = false) ∧ OneGroup inHandler handlerCrew := by
  unfold OneGroup; decide +kernel
def waitbit (sense : Bool) : Instr := .waitbit (plain64 8 4 0 0 (if sense then 0x540 else 0x500))
theorem witness_waitbit : ∀ b, Ready (waitbit b) memState lane0 addressed :=
  fun b => ready_mem ⟨rfl, rfl⟩ ((by decide +kernel : ∀ b, groupBar (waitbit b) (waitbit b).form lane0 addressed = none ∧
    (readRaised (waitbit b) (waitbit b).form lane0 addressed).isEmpty = true) b)
theorem witness_waitbit_word :
    (match threadLoad memState 0 0 0x10000 8 8 false with
     | (_, .bytes bs _ _) => decide ((wordOfBytes 8 bs).getLsbD 0 = false)
     | _ => false) = true := by decide +kernel

/-- A record of the placed team's launch that names job queue 0 of context 0, at 0x10000. -/
def recordBytes0 : List Byte :=
  natBytes 8 0x200000 ++ natBytes 4 0 ++ natBytes 4 0x1C00 ++ natBytes 4 0 ++ natBytes 4 5 ++ List.replicate 104 0
def launchState : State :=
  let s := memState.setMem (writeSeq MemSys.putThrough memState.mem 0x10000 recordBytes0)
  s.setQueue 0 { s.queue 0 with en := true }
theorem witness_launch :
    recordBad launchState 0 recordBytes0 = false ∧
      (match takeRecord launchState (.check 0 0x200000) 0 recordBytes0 with | .taken _ => true | _ => false) = true ∧
      (launchInTurn 0 0 (.check 0 lane0.pc.toNat) (parts (.launch (plain64 8 4 0 0 0)) lane0 addressed) launchState).isSome = true := by decide +kernel
theorem witness_launch_ready : Ready (.launch (plain64 8 4 0 0 0)) launchState lane0 addressed :=
  ready_mem ⟨rfl, rfl⟩ (by decide +kernel)
/-- A queue of 64 launches that have not ended. -/
theorem witness_launch_full :
    let s := { launchState with launches := (List.range 64).map fun k => (k, { (launchState.launches.head?.map Prod.snd).getD
      { record := placedRecord, ctx := 0, bad := false, next := 0, retired := 0, killed := false, placed := false, faulted := false, halted := false, reset := false, done := false } with done := false }) }
    let s := s.setQueue 0 { s.queue 0 with launches := List.range 64 }
    recordBad s 0 recordBytes0 = false ∧ 64 ≤ ((s.queue 0).launches.filter fun id =>
      match s.launches.get id with | some l => !l.done | none => false).length := by decide +kernel

/-- CSRR and CSRW of the registers of the map, with the last of the handler registers in handler mode. -/
def csrs : List Instr :=
  [.csrr (plain64 5 0 0 0 0x001), .csrr (plain64 5 0 0 0 0x020), .csrw (plain64 0 4 0 0 0x012), .csrw (plain64 0 4 0 0 0x1001),
   .csrw (plain64 0 4 0 0 0x2002)]
theorem witness_csrs : ∀ i ∈ csrs, Ready i memState lane0 addressed :=
  fun i h => ready_mem ⟨rfl, rfl⟩ ((by decide +kernel : ∀ i ∈ csrs,
    groupBar i i.form lane0 addressed = none ∧ (readRaised i i.form lane0 addressed).isEmpty = true) i h)
def poolCrew (v : Word) : Crew := Crew.holding handlerCrew [(4, 0, v)]
def privileged : List Instr :=
  [.csrw (plain64 0 4 0 0 0x110), .csrw (plain64 0 4 0 0 0x111), .csrw (plain64 0 4 0 0 0x180), .csrw (plain64 0 4 0 0 0x18F)]
theorem witness_privileged_csrs : ∀ i ∈ privileged,
    Ready i (met baseH (poolCrew 0x20202020#32) inHandler) inHandler (poolCrew 0x20202020#32) :=
  fun i h => ready_of rfl ((by decide +kernel : ∀ i ∈ privileged, groupBar i i.form inHandler (poolCrew 0x20202020#32) = none ∧
    (readRaised i i.form inHandler (poolCrew 0x20202020#32)).isEmpty = true) i h)
theorem witness_pools : poolOk 0x20202020#32 (base.core 0).poolCap = true ∧ poolOk (base.core 0).poolMin 0x20202020#32 = true := by
  decide +kernel
/-- A handler thread that recorded the placed instruction, with no cause held and with one. -/
def returning (held : Map Addr) : Crew :=
  { lane0As (fun t => { t with handler := true, pc := 0x300000#57, h := [0x221#32, 0x200000#32] ++ List.replicate 14 0#32 }) with held := held }
theorem witness_hret :
    (match unitAt (met baseH (returning []) inHandler) 0 0 (recorded ((returning []).thread 0)).1 with
      | .ok u => decide (u = (0, 2)) | .error _ => false) = true ∧
      ((returning []).thread 0).wait = .awake ∧ (returning []).lost = false ∧
      ((returning []).conv.all fun e => e.2.arrived == 0#32) = true := by decide +kernel
def hrets : List Instr := [.hret (plain64 0 0 0 0 0), .hret (plain64 0 0 0 0 1)]
/-- The handler thread with a TRAP held. -/
def held101 : Crew := returning [(0x101, 0x200000#57)]
theorem witness_hret_ready : ∀ i ∈ hrets, Ready i (met baseH held101 inHandler) inHandler held101 :=
  fun i h => ready_of rfl ((by decide +kernel : ∀ i ∈ hrets, groupBar i i.form inHandler held101 = none ∧
    (readRaised i i.form inHandler held101).isEmpty = true) i h)
/-- HESC with room in the ring, and with a full one. -/
theorem witness_hesc : Ready (.hesc (plain64 0 4 0 0 0)) (met baseH (returning []) inHandler) inHandler (returning []) :=
  ready_of rfl (by decide +kernel)
theorem witness_event_ring : evFull (baseH.context 0) = false ∧ evFull { baseH.context 0 with evhead := 16 } = true := by decide +kernel

/-! ### Registers and exceptions -/

def due0 : Pending :=
  { seq := 1, due := some 0, board := false, memory := false, lines := [], dst := 2, run := 1, lanes := 1#32, writes := [(64, 7#32)]
    greg := none, flags := 0 }
def reply0 : Pending := { due0 with due := none, memory := true }
theorem witness_results :
    (met base { crew0 with pend := [reply0, due0] } lane0).crews.get 0 = some { crew0 with pend := [reply0, due0] } ∧
    [reply0, due0].find? (fun p => p.seq = 1 && !p.memory && (match p.due with | some d => decide (d ≤ base.clock) | none => true)) =
      some due0 ∧ [reply0, due0].find? (fun p => p.seq = 1 && p.memory && p.lines.isEmpty) = some reply0 ∧
    Map.sorted due0.writes = true := by decide +kernel
/-- Reads of live, dead, poisoned and early registers. -/
theorem witness_reads :
    let c := { Crew.holding crew0 [(2, 0, 7#32)] with stallchk := true }
    c.isLive 2 0 = true ∧ c.isLive 3 0 = false ∧ (c.poisonLanes 2 [0]).isPoison 2 0 = true ∧ c.isPoison 2 0 = false ∧ c.pend = [] ∧
      (∃ p ∈ [due0], p.due.isSome = true ∧ (p.writes.get (32 * 2 + 0)).isSome = true) := by decide +kernel
/-- An ADD of two lanes of which lane 1 reads a poisoned register. -/
theorem witness_raising :
    let c := (Crew.holding crew0 [(2, 0, 7#32), (2, 1, 7#32)]).poisonLanes 2 [1]
    let i : Instr := .add (v3 1 2 3)
    groupBar i i.form (issueOf 3#32) c = none ∧ laneCause i.form i.fields c 0 = none ∧
      (laneCause i.form i.fields c 1).map Prod.fst = some 0x100 ∧ OneGroup (issueOf 3#32) c ∧
      (baseH.context (ctxOf baseH c)).hen = true := by unfold OneGroup; decide +kernel
theorem witness_barred :
    (Instr.add (v3 63 2 3)).bitsOk = true ∧ ({ crew0 with nregs := 63 } : Crew).nregs ≤ (63#6).toNat ∧
      groupBar (.hkill (plain64 0 0 0 0 0)) (Instr.form (.hkill (plain64 0 0 0 0 0))) lane0 crew0 = some 0x003 ∧
      OneGroup lane0 { crew0 with nregs := 63 } := by unfold OneGroup; decide +kernel
theorem witness_no_handler : Ready (.brk { s := 0, imm := 1 }) (met base crew0 lane0) lane0 crew0 ∧ OneGroup lane0 crew0 ∧
    (base.context 0).hen = false ∧ (base.context 0).waiting = [] ∧ evFull (base.context 0) = false :=
  ⟨ready_of rfl (by decide +kernel), by unfold OneGroup; decide +kernel⟩

/-! ### Engine commands, tokens and rings -/

/-- A crew whose pairs w4, w6 and w8 hold the operands a, b and c of lane 0, with 0 in the registers behind. -/
def operands (a b c : Word) : Crew :=
  Crew.holding crew0 ([(4, 0, a), (6, 0, b), (8, 0, c)] ++ ([5, 7] ++ (List.range 15).map (· + 9)).map fun r => (r, 0, 0#32))
/-- Bytes of memory, and a team with 8 KiB of scratchpad and four tiles. -/
def engState (c : Crew) (at' : Nat) (bs : List Byte) : State :=
  let s := met baseH c lane0
  { s with
    mem := writeSeq MemSys.putThrough s.mem at' bs
    launches := s.launches.map fun e => (e.1, { e.2 with record := { e.2.record with scratch := 8, acc := 4 } }) }
/-- The lowest participant. -/
def firstOf (i : Instr) (is : Issue) (c : Crew) : Part1 := (parts i is c).headD { l := 0, a := [], b := [], c := [], d := [] }
def readsFine (s : State) (ea n : Nat) (p : List Byte → Bool) : Bool :=
  match engineRead s 0 0 ea n with | .ok bs false => p bs | _ => false

/-- The instruction's command may enter its queue in s. -/
def enters (i : Instr) (f : F64) (s : State) (c : Crew) (queue entries : Nat) : Prop :=
  (groupBar i i.form lane0 c = none ∧ (readRaised i i.form lane0 c).isEmpty = true) ∧
    (parts i lane0 c).head? = some (firstOf i lane0 c) ∧ namedWord f (firstOf i lane0 c) = none ∧
    mayAccept s 0 lane0.pc queue entries (namedToken f) = true ∧ s.cur = some lane0 ∧ s.crews.get 0 = some c
theorem enter_of {i : Instr} {f : F64} {s : State} {c : Crew} {queue entries : Nat} (h : enters i f s c queue entries) :
    MayEnter i f s lane0 c (firstOf i lane0 c) queue entries :=
  ⟨⟨h.2.2.2.2.1, h.2.2.2.2.2, h.1.1, List.isEmpty_iff.1 h.1.2⟩, h.2.1, (fun x hx => by rw [h.2.2.1] at hx; simp at hx), h.2.2.2.1⟩

/-- A record of a row of 16 elements in BF16, a descriptor of a table of two rows of 16, and a card. -/
def layoutRow : List Byte :=
  [9, 1, 0, 0] ++ natBytes 2 16 ++ natBytes 2 1 ++ natBytes 8 0x20000 ++ natBytes 8 0 ++ natBytes 4 16 ++ List.replicate 36 0
def poolTable : List Byte :=
  natBytes 8 0x40000 ++ natBytes 4 2 ++ natBytes 4 (16 + 8 * 2 ^ 16) ++ natBytes 4 64 ++ natBytes 4 0 ++ natBytes 8 0x50000 ++
    natBytes 8 0x50100 ++ natBytes 8 0 ++ natBytes 8 0x50200 ++ natBytes 2 1 ++ natBytes 6 0
/-- The record at 0x10000, the tile to scratch address 0x100; with the token 3, and with a pool entry of token 3 pending. -/
def tcopy : F64 := plain64 0 4 6 8 0x013
def copyState : State := engState (operands 0x10000 0x100 0) 0x10000 layoutRow
theorem witness_tcopy :
    enters (.tcopy tcopy) tcopy copyState (operands 0x10000 0x100 0) 0 2 ∧
      readsFine (releaseAt copyState 0 (namedScope tcopy)) 0x10000 64 (fun bs =>
        !layoutBad bs && !(Layout.parse bs).pair &&
          decide (tcopyCause (releaseAt copyState 0 (namedScope tcopy)) 0 0 (Layout.parse bs)
            ((firstOf (.tcopy tcopy) lane0 (operands 0x10000 0x100 0)).c.map BitVec.toNat) false false false none 0x100#32 = none)) = true := by
  unfold enters; decide +kernel
/-- A record address one byte off. -/
def oddCopy : State := engState (operands 0x10001 0x100 0) 0 []
theorem witness_tcopy_misaligned : Ready (.tcopy tcopy) oddCopy lane0 (operands 0x10001 0x100 0) ∧
    (parts (.tcopy tcopy) lane0 (operands 0x10001 0x100 0)).head? = some (firstOf (.tcopy tcopy) lane0 (operands 0x10001 0x100 0)) ∧
    namedWord tcopy (firstOf (.tcopy tcopy) lane0 (operands 0x10001 0x100 0)) = none ∧ OneGroup lane0 (operands 0x10001 0x100 0) ∧
    CanEnter oddCopy lane0 (operands 0x10001 0x100 0) ∧ (waiterAt oddCopy 0 lane0.pc).isNone = true ∧
    (oddCopy.sys.faults.all fun e => e.2.unread.isEmpty) = true :=
  ⟨⟨rfl, rfl, by decide +kernel, List.isEmpty_iff.1 (by decide +kernel)⟩, by unfold OneGroup CanEnter; decide +kernel⟩
/-- BCOPY of 16 bytes from memory to the scratchpad. -/
def bcopy : F64 := plain64 0 4 6 8 0x400
theorem witness_bcopy :
    let c := operands 0x10000 0x1FF0 16
    enters (.bcopy bcopy) bcopy (engState c 0 []) c 0 1 ∧ scratchAt (engState c 0 []) 0 0x1FF0 16 ≠ none := by
  unfold enters; decide +kernel
/-- COMBINE of window 3. -/
def combine : F64 := plain64 0 0 0 0 0x600
def combineState : State :=
  let s := engState (operands 0 0 0) 0 []
  s.setContext 0 { s.context 0 with windows := (s.context 0).windows.set 3 { (s.context 0).window 3 with en := true, op := 2 } }
theorem witness_combine : enters (.combine combine) combine combineState (operands 0 0 0) 1 1 ∧
    ((combineState.context 0).window 3).en = true ∧ ((combineState.context 0).window 3).op ≠ 3 := by unfold enters; decide +kernel
/-- EMBG, EMBW and SJOB. -/
def poolState (c : Crew) : State := engState c 0x10000 poolTable
theorem witness_embg :
    let c := operands 0x10000 0 0
    let f := plain64 0 4 0 0 0
    enters (.embg f) f (poolState c) c 1 4 ∧
      readsFine (releaseAt (poolState c) 0 (namedScope f)) 0x10000 64 (fun bs => !poolBad bs) = true := by unfold enters; decide +kernel
theorem witness_embw :
    let c := operands 0x10000 1 0x40
    let f := plain64 0 4 6 8 0
    enters (.embw f) f (poolState c) c 1 2 ∧
      readsFine (releaseAt (poolState c) 0 (namedScope f)) 0x10000 64 (fun bs => !poolBad bs &&
        (scratchAt (poolState c) 0 0x40 (poolRowBytes (PoolDesc.parse 0x10000 bs))).isSome) = true := by unfold enters; decide +kernel
theorem witness_sjob :
    let c := operands 0x10000 0x40 0
    let f := plain64 0 4 6 0 0
    enters (.sjob f) f (engState c 0 []) c 2 2 ∧ 0 < (engState c 0 []).sys.stacks := by unfold enters; decide +kernel

/-- A command of crew 0 with its work. -/
def posted (queue : Nat) (token : Option Nat) (work : Work) : Command :=
  { serial := 7, queue, entries := 2, ctx := 0, team := 0, crew := 0, lane := 0, token, word := none, scope := 2, after := false
    claimed := none, started := false, plan := none, listed := [], answered := [], asked := [], tags := [], bags := [], rows := []
    till := 0, charged := 0, heads := [], know := [], reply := none, result := none, signers := [], work }
def withCommand (x : Command) (s : State) : State := s.setCore 0 { s.core 0 with commands := [x] }
/-- A card at 0x10000 on its way to engine 0. -/
theorem witness_hand :
    let x := posted 2 none (.sjob 0 none [0x10000])
    let s := withCommand x baseH
    (s.core 0).commands.find? (fun c => c.queue = 2 && !c.started && c.result.isNone) = some x ∧ chooseEngine s 0 none = some 0 ∧
      readsFine s 0x10000 64 (fun _ => true) = true := by decide +kernel
/-- Tokens idle, pending and failed. -/
def tokenCrew (st : TokState) : Crew := { crew0 with tokens := [(3, { state := st, status := 1, cause := 0x040, ea := 0x10001, carried := bare })] }
def tokStates : List TokState := [.idle, .pending, .complete, .failed]
def tokenInstrs : List Instr := [.tokwait (plain64 0 0 0 0 3), .toktest (plain64 8 0 0 0 3)]
theorem witness_tokens : ∀ i ∈ tokenInstrs, ∀ st ∈ tokStates,
    Ready i (met baseH (tokenCrew st) lane0) lane0 (tokenCrew st) :=
  fun i h st g => ready_of rfl ((by decide +kernel : ∀ i ∈ tokenInstrs, ∀ st ∈ tokStates,
    groupBar i i.form lane0 (tokenCrew st) = none ∧ (readRaised i i.form lane0 (tokenCrew st)).isEmpty = true) i h st g)
theorem witness_tokens_raise : OneGroup lane0 (tokenCrew TokState.failed) ∧ CanEnter baseH lane0 (tokenCrew TokState.failed) := by
  unfold OneGroup CanEnter; decide +kernel
/-- A ring of two slots of 64 bytes, with fill and acq as given. -/
def ring0 (fill acq rel : Word) : Ring := { team := 0, base := 0x100, size := 64, log := 1, claim := fill, fill, acq, rel, carried := bare }
def ringState (r : Ring) (c : Crew) : State :=
  let s := engState c 0 []
  s.setCore 0 { s.core 0 with rings := [(15, r)] }
def ringInstrs : List Instr := [.ringset (plain64 0 4 6 0 0x01F), .ringacq (plain64 8 0 0 0 0x00F), .ringacq (plain64 8 0 0 0 0x01F),
  .ringrel (plain64 0 0 0 0 0x00F)]
theorem witness_rings : ∀ i ∈ ringInstrs, Ready i (ringState (ring0 1 1 1) (operands 0x1F80 64 0)) lane0 (operands 0x1F80 64 0) :=
  fun i h => ⟨rfl, rfl, ((by decide +kernel : ∀ i ∈ ringInstrs, groupBar i i.form lane0 (operands 0x1F80 64 0) = none) i h),
    List.isEmpty_iff.1 ((by decide +kernel : ∀ i ∈ ringInstrs, (readRaised i i.form lane0 (operands 0x1F80 64 0)).isEmpty = true) i h)⟩
/-- The largest size and both ways of being free; filled, empty and taken rings. -/
theorem witness_ring_states :
    let s (r : Ring) := ringState r (operands 0x1F80 64 0)
    ownPad (s (ring0 1 1 1)) 0 0 0x1F80 (64 * 2 ^ 1) ≠ none ∧ ringNamed (s (ring0 1 1 1)) 0 15 = false ∧
      (ring0 1 1 1).claim = (ring0 1 1 1).rel ∧ ringOf (s (ring0 2 1 1)) 0 0 15 = some (ring0 2 1 1) ∧
      (ring0 2 1 1).fill ≠ (ring0 2 1 1).acq ∧ ringOf (s (ring0 1 1 1)) 0 0 15 = some (ring0 1 1 1) ∧
      ringOf (s (ring0 2 2 1)) 0 0 15 = some (ring0 2 2 1) ∧ (ring0 2 2 1).acq ≠ (ring0 2 2 1).rel ∧
      OneGroup lane0 (operands 0x1F80 64 0) ∧ CanEnter (s (ring0 1 1 1)) lane0 (operands 0x1F80 64 0) := by
  unfold OneGroup CanEnter; decide +kernel
/-- A waiting command, a ring copy without its slot, and a BCOPY at the head of its queue. -/
theorem witness_accept :
    let x : Waiter := { crew := 0, pc := 0x200000#57, lanes := 1#32, queue := 1, entries := 4, token := some 3, accepted := none
                        was := .idle, page := none, ring := none }
    let c := tokenCrew .complete
    let s := (met baseH c lane0).setCore 0 { baseH.core 0 with waiters := [x] }
    (s.core 0).waiters.find? (fun x => x.queue = 1 && x.accepted.isNone) = some x ∧ s.crews.get 0 = some c ∧
      poolFits (s.core 0) 1 4 = true ∧ (tokenIn c 3).state ≠ .pending := by decide +kernel
theorem witness_claim :
    let x := posted 0 none (.bcopy (.virt 0x10000) (.ring 15) 16)
    let s := withCommand x (ringState (ring0 1 1 1) crew0)
    s.cores.findSome? (fun e => (claimable s e.1).map fun x => (e.1, x)) = some (0, x, 15, ring0 1 1 1) := by decide +kernel
theorem witness_publish :
    let x := posted 0 (some 3) (.bcopy (.virt 0x10000) (.virt 0x20000) 16)
    let s := withCommand x (engState (tokenCrew TokState.pending) 0 [])
    headCommand s 0 0 = some x ∧ wordPage s 0 x = none ∧ ringOfWork x.work = none ∧
      (match workDone s 0 x with | some (.ended _ st _ _) => decide (st = 0) | _ => false) = true := by decide +kernel

/-! ### Copies and folds -/

/-- CanRead, CanWrite and AllWritten as tests. -/
def reads1 (s : State) (a : Nat) : Bool :=
  match reach s 0 0 a .load with | .ok m => decide (s.sys.target m.pa = .hbm) && !s.mem.poisonAt m.pa | _ => false
theorem canRead_of {s : State} {a : Nat} (h : reads1 s a = true) : CanRead s 0 0 a := by
  unfold reads1 at h
  split at h
  · next m hm =>
    simp only [Bool.and_eq_true, decide_eq_true_eq, Bool.not_eq_true'] at h
    exact ⟨m, hm, fun p => by rw [h.1]; simp, h.2⟩
  · simp at h
def writes1 (s : State) (a : Nat) (plain : Bool) : Bool :=
  (match reach s 0 0 a .store with | .ok _ => true | _ => false) && (plain || (windowAt s 0 (a % 2 ^ 57)).isNone)
theorem canWrite_of {s : State} {a : Nat} {plain : Bool} (h : writes1 s a plain = true) : CanWrite s 0 0 a plain := by
  simp only [writes1, Bool.and_eq_true, Bool.or_eq_true, Option.isNone_iff_eq_none] at h
  refine ⟨?_, h.2⟩
  cases hr : reach s 0 0 a .store with
  | ok m => exact ⟨m, rfl⟩
  | bad _ => simp [hr] at h
  | capacity _ _ _ => simp [hr] at h
/-- The writes of a list all succeed, in turn. -/
def writesAll (s : State) (plain : Bool) (ws : List (Nat × List Byte)) : Bool :=
  (ws.foldl (fun (x : State × Bool) e =>
    let r := engineWrite x.1 (.command 7) 0 0 e.1 e.2 plain
    (r.1, x.2 && (match r.2 with | .bytes _ _ _ => true | _ => false))) (s, true)).2

/-- A row of 16 BF16 elements, a row of 32 M8 elements in a record, and where their copies go. -/
def bf16Row : Layout := { Layout.parse layoutRow with tile0 := 16 }
def m8Row (scl : Nat) : Layout :=
  { bf16Row with fmt := 10, scl, tile0 := 32, size := [32, 0, 0, 0, 0], sbase := if scl = 1 then 0x21000 else 0 }
def toPad : Place := .scratch 0x100
def padState : State := engState crew0 0x20000 ((List.range 40).map fun k => BitVec.ofNat 8 (k + 100))
theorem padState_good : MemGood padState.mem := good_of (by decide +kernel)
theorem witness_engine_reach : LiesAt memState 0 0 0x10FFC 4 .load (there 0x10FFC) ∧ LiesAt memState 0 0 0x10FFC 4 .store (there 0x10FFC) ∧
    windowAt (winState 2) 0 0x10000 ≠ none ∧ LiesAt (winState 2) 0 0 0x10000 4 .store (there 0x10000) :=
  ⟨lies_of (by decide +kernel), lies_of (by decide +kernel), by decide +kernel, lies_of (by decide +kernel)⟩
/-- That state with the reads of 17 bytes and of a tile noted; scratchpad bytes that no command owns. -/
def padRead : State := noteReads padState 0 0 ((List.range 17).map fun o => 0x20000 + o)
def padTile (l : Layout) (tr : Bool) (x : Nat) : State := noteReads padState 0 0 (tcopyReads l false false tr [x, 0, 0, 0, 0])
theorem witness_not_owned (n : Nat) : NotOwned padState 0 0x100 n := fun o _ => by
  have h : ∀ g, inFootprint padState 0 g = false := fun g => by
    have hc : (padState.cores.all fun e => e.2.footprints.isEmpty) = true := by decide +kernel
    simp only [inFootprint, List.any_eq_false, Bool.not_eq_true]
    intro e he
    have := List.all_eq_true.1 hc e he
    simp [List.isEmpty_iff.1 this]
  exact h _
/-- BCOPY of 17 bytes to scratchpad, to memory, and from an address that is not canonical. -/
theorem witness_bcopy_work :
    padOf padState 0 0 none toPad 17 = some 0x100 ∧ (List.range 17).all (fun o => reads1 padRead (0x20000 + o)) = true ∧
      (List.range 17).all (fun o => writes1 padRead (0x20100 + o) true) = true ∧
      writesAll padRead true [(0x20100, List.replicate 16 1), (0x20110, [1])] = true ∧
      reach (noteReads padState 0 0 [2 ^ 60]) 0 0 (2 ^ 60) .load = .bad 0x042 := by decide +kernel
theorem witness_plain_tiles : PlainTile bf16Row [4, 0, 0, 0, 0] ∧ PlainTile (m8Row 2) [0, 0, 0, 0, 0] ∧ PlainTile (m8Row 1) [3, 0, 0, 0, 0] :=
  ⟨⟨by decide +kernel, by decide +kernel, by decide +kernel⟩, ⟨by decide +kernel, by decide +kernel, by decide +kernel⟩,
    ⟨by decide +kernel, by decide +kernel, by decide +kernel⟩⟩
/-- Every element inside the tensor can be read, with its scale: of the BF16 row from its fourth, of the records from their
first, and of blocks formed anew from the fourth. -/
theorem witness_tile_reads :
    padOf padState 0 0 none toPad (rowPitch bf16Row * 1) = some 0x100 ∧ padOf padState 0 0 none toPad (rowPitch (m8Row 2) * 1) = some 0x100 ∧
      (List.range 32).all (fun o => !inTensor bf16Row [4, 0, 0, 0, 0] 0 (o / 2) ||
        reads1 (padTile bf16Row false 4) (canonicalOf (codeAddress bf16Row (tileIndex [4, 0, 0, 0, 0] 0 (o / 2)) + o % 2))) = true ∧
      [((0 : Nat), (2 : Nat)), (3, 1)].all (fun x => (List.range 32).all fun q => !inTensor (m8Row x.2) [x.1, 0, 0, 0, 0] 0 q ||
        (reads1 (padTile (m8Row x.2) false x.1) (canonicalOf (codeAddress (m8Row x.2) (tileIndex [x.1, 0, 0, 0, 0] 0 q))) &&
          reads1 (padTile (m8Row x.2) false x.1) (canonicalOf (scaleAddress (m8Row x.2) (tileIndex [x.1, 0, 0, 0, 0] 0 q))))) = true := by decide +kernel
/-- The same rows written out, the records at the tensor's first element. -/
theorem witness_tile_writes :
    (List.range 32).all (fun o => writes1 padState (0x20000 + o) false && !padState.mem.scratchPoisoned (0x100 + o) 1) = true ∧
      (List.range 34).all (fun o => writes1 padState (0x20000 + o) false && !padState.mem.scratchPoisoned (0x100 + o) 1) = true ∧
      writesAll padState false [(0x20000, List.replicate 32 1)] = true ∧
      writesAll padState false [(0x20000, List.replicate 16 1), (0x20020, [1]), (0x20010, List.replicate 16 1), (0x20021, [1])] = true ∧
      extentOf (m8Row 2) 0 % 32 = 0 := by decide +kernel
/-- A canonical tile of one row of 16 BF16 elements, and of 32 M8 elements. -/
theorem witness_canonical :
    padOf padState 0 0 none toPad 112 = some 0x100 ∧ padOf padState 0 0 none toPad 120 = some 0x100 ∧
      (List.range 16).all (fun q => reads1 (noteReads padState 0 0 (tcopyReads bf16Row false true false [0, 0, 0, 0, 0])) (canonicalOf (codeAddress bf16Row (tileIndex [0, 0, 0, 0, 0] 0 q))) &&
        reads1 (noteReads padState 0 0 (tcopyReads bf16Row false true false [0, 0, 0, 0, 0])) (canonicalOf (codeAddress bf16Row (tileIndex [0, 0, 0, 0, 0] 0 q) + 1))) = true ∧
      min bf16Row.tile1 (extentOf bf16Row 1 - 0) = 1 ∧ min bf16Row.tile0 (extentOf bf16Row 0 - 0) = 16 := by decide +kernel
/-- COMBINE of a window with two slots of one element and one of the next. -/
def stagedState (op : Nat) : State :=
  padState.setMem { padState.mem with staged := [(0x20010 * 256, 3), (0x20010 * 256 + 255, 4), (0x20014 * 256 + 1, 5)].map fun (e : Nat × Nat) =>
    (e.1, { ctx := 0, win := 3, op, val := BitVec.ofNat 32 e.2 }) }
theorem witness_combine_work : ∀ op ∈ [0, 1, 2],
    goodMem (stagedState op).mem = true ∧
    (∀ e ∈ (stagedState op).mem.staged, e.2.op = op ∧ e.1 / 256 + 4 ≤ 2 ^ 52 ∧ (stagedState op).sys.target (e.1 / 256) = .hbm ∧
      (stagedState op).mem.poisonIn (e.1 / 256) 4 = false) ∧
    (∀ e ∈ (stagedState op).mem.staged, ∀ f ∈ (stagedState op).mem.staged, e.1 / 256 < f.1 / 256 → e.1 / 256 + 4 ≤ f.1 / 256) := by
  decide +kernel

/-! ### Millstone, Trowel and version blocks -/

/-- A BF16 tile of one row and one step: role 0 for A, 1 for B. -/
def tileHead (role : Nat) : List Byte := [9, BitVec.ofNat 8 role] ++ natBytes 2 1 ++ natBytes 2 1 ++ natBytes 2 24 ++ List.replicate 56 0
def tileOf (role : Nat) : TileHead := { fmt := 9, role, rows := 1, steps := 1, klen := 24 }
/-- The team holds the Millstone and tile 5; an A tile lies at scratch address 0, a B tile at 0x100. -/
def withTiles (c : Crew) : State :=
  let s := engState c 0 []
  let s := s.setMem ((s.mem.putScratch 0 (tileHead 0)).putScratch 0x100 (tileHead 1))
  s.setCore 0 { s.core 0 with mill := some 0, tiles := [(5, 0)] }
def millCrew : Crew := { operands 0 0x100 5 with gregs := [(3, ⟨0x200, false⟩), (4, ⟨0x300, false⟩), (5, ⟨1048576, false⟩), (6, ⟨9, false⟩), (7, ⟨7, false⟩)] }
def millState : State := withTiles millCrew

def entersMill (i : Instr) (s : State) (c : Crew) (entries : Nat) : Prop :=
  (groupBar i i.form lane0 c = none ∧ (readRaised i i.form lane0 c).isEmpty = true) ∧
    (parts i lane0 c).head? = some (firstOf i lane0 c) ∧ mayAccept s 0 lane0.pc 3 entries none = true ∧
    ((s.core 0).commands.all fun x => x.serial != serialHere s lane0) = true ∧ s.cur = some lane0 ∧ s.crews.get 0 = some c
theorem mill_of {i : Instr} {s : State} {c : Crew} {entries : Nat} (h : entersMill i s c entries) :
    MillEnter i s lane0 c (firstOf i lane0 c) entries :=
  ⟨⟨h.2.2.2.2.1, h.2.2.2.2.2, h.1.1, List.isEmpty_iff.1 h.1.2⟩, h.2.1, h.2.2.1,
    fun x hx => by have := List.all_eq_true.1 h.2.2.2.1 x hx; simpa using this⟩

def millInstrs : List (Instr × Nat) :=
  [(.mma (plain64 0 4 6 8 0x000), 2), (.mma (plain64 0 4 6 8 0x008), 2), (.mmas (plain64 0 4 6 8 0x030), 4), (.mnorm (plain64 0 4 6 0 0), 2),
   (.midx (plain64 0 4 6 0 0), 1), (.accrd { plain64 0 0 6 8 0x01F with imm := 32 }, 1), (.accwr { plain64 0 0 6 8 0x01F with imm := 32 }, 1),
   (.acczero (plain64 0 0 0 8 0), 1)]
theorem witness_mill_enter : ∀ x ∈ millInstrs, MillEnter x.1 millState lane0 millCrew (firstOf x.1 lane0 millCrew) x.2 :=
  fun x h => mill_of ((by unfold entersMill; decide +kernel : ∀ x ∈ millInstrs, entersMill x.1 millState millCrew x.2) x h)
/-- TileAt as a test. -/
def tileAt (s : State) (a : Word) (h : TileHead) (k : Nat) : Bool :=
  a.toNat % 64 == 0 && (match tileOperand s 0 0 a.toNat with
    | .ok x => decide (x = { head := h, key := k, bytes := s.mem.scratchBytes k 64 }) | _ => false)
theorem tileAt_of {s : State} {c : Crew} {a : Word} {h : TileHead} {k : Nat} (hc : c.team = 0) (ht : tileAt s a h k = true) :
    TileAt s lane0 c a h k := by
  simp only [tileAt, Bool.and_eq_true, beq_iff_eq] at ht
  refine ⟨ht.1, ?_⟩
  rw [hc]; show tileOperand s 0 0 a.toNat = _
  cases hx : tileOperand s 0 0 a.toNat with
  | ok x => simp only [hx, decide_eq_true_eq] at ht; rw [ht.2]
  | error _ => simp [hx] at ht
theorem witness_tiles : TileAt millState lane0 millCrew 0#32 (tileOf 0) 0 ∧ TileAt millState lane0 millCrew 0x100#32 (tileOf 1) 0x100 ∧
    Paired (tileOf 0) (tileOf 1) ∧ HoldsTile millState lane0 millCrew 5#32 ∧ Reserved millState lane0 millCrew ∧
    OwnBytes millState lane0 millCrew 0x200#32 96 0x200 ∧ OwnBytes millState lane0 millCrew 0x300#32 96 0x300 ∧
    OwnBytes millState lane0 millCrew 0x100#32 96 0x100 ∧ OwnBytes millState lane0 millCrew 0#32 8192 0 :=
  ⟨tileAt_of (by decide +kernel) (by decide +kernel), tileAt_of (by decide +kernel) (by decide +kernel),
    by unfold Paired HoldsTile Reserved OwnBytes; decide +kernel⟩
/-- MMA without the reservation. -/
theorem witness_unreserved :
    let i : Instr := .mma (plain64 0 4 6 8 0)
    let s := met { millState with cores := [] } millCrew lane0
    Ready i s lane0 millCrew ∧ (parts i lane0 millCrew).head? = some (firstOf i lane0 millCrew) ∧ ¬ Reserved s lane0 millCrew ∧
      waiterAt s 0 lane0.pc = none ∧ s.sys.faults = [] ∧ OwnBytes s lane0 millCrew 0#32 64 0 ∧
      OwnBytes s lane0 millCrew 0x100#32 64 0x100 ∧ OneGroup lane0 millCrew ∧ CanEnter s lane0 millCrew :=
  ⟨⟨rfl, rfl, by decide +kernel, List.isEmpty_iff.1 (by decide +kernel)⟩, by
    unfold Reserved OwnBytes OneGroup CanEnter; decide +kernel⟩
/-- The last row of the tile in the index vector. -/
theorem witness_gathered :
    let t : TeamCtx := { scratch := 0, joints := [], slots := [], tables := [], index := some [0#32, 0xFFFFFFFF#32] }
    indexInForce (millState.setTctx 0 0 t) 0 0 0 = some [0#32, 0xFFFFFFFF#32] := by decide +kernel
/-- A joint register with one signature of crew 1, and a count of 2 and of 3. -/
def jointOf (need : Option Nat) (fields : List Word) : Joint := { need, sigs := [{ crew := 1, sleeper := 9, fields, know := [] }], bad := false }
def jointState (j : Joint) : State :=
  millState.setTctx 0 0 { scratch := 0, joints := [(0, j)], slots := [], tables := [], index := none }
def jointMma : F64 := plain64 0 4 6 8 0x008
theorem witness_joint : ∀ n ∈ [none, some 2, some 3],
    let j := jointOf n [0, 0x100, 5, 8]
    ((jointState j).tctxs.get 0).map (fun t => t.joints.get 0) = some (some j) ∧ jointMma.mod.getLsbD 3 = true ∧
      [w (firstOf (.mma jointMma) lane0 millCrew).a 0, w (firstOf (.mma jointMma) lane0 millCrew).b 0,
        w (firstOf (.mma jointMma) lane0 millCrew).c 0, jointMma.mod.setWidth 32] = [0#32, 0x100#32, 5#32, 8#32] ∧
      (jointState j).sleepers = [] := by decide +kernel
/-- MRES, MREL, ACCALLOC, ACCFREE, MOPR, JSET, MWAIT and MVAR of that crew. -/
def millRules : List Instr :=
  [.mres (plain64 8 0 0 0 0), .mrel (plain64 0 0 0 0 0), .accalloc { plain64 8 0 0 0 0 with imm := 3 },
   .accalloc { plain64 8 0 0 0 1 with imm := 3 }, .accalloc { plain64 8 0 0 0 0 with imm := 4 }, .accfree (plain64 0 4 0 0 0),
   .mopr (plain64 0 0 0 0 0), .jset { plain64 0 0 0 0 7 with imm := 1 }, .mwait (plain64 0 0 0 0 0), .mvar (plain64 8 0 0 0 0)]
theorem witness_mill_rules : ∀ i ∈ millRules, Ready i millState lane0 millCrew :=
  fun i h => ⟨rfl, rfl, (by decide +kernel : ∀ i ∈ millRules, groupBar i i.form lane0 millCrew = none) i h,
    List.isEmpty_iff.1 ((by decide +kernel : ∀ i ∈ millRules, (readRaised i i.form lane0 millCrew).isEmpty = true) i h)⟩
theorem witness_mill_rules_state : ((recordOf millState millCrew).map fun r => r.acc.toNat) = some 4 ∧ allocWaits millState 0 = [] ∧
    millSerials millState 0 0 = [] ∧ millCrew.signed = [] ∧ (millState.core 0).reports = [] ∧ (millState.core 0).commands = [] ∧
    ((millState.core 0).tiles.filter fun e => e.2 = millCrew.team).length = 1 ∧
    ((List.range 64).filter fun t => ((millState.core 0).tiles.get t).isNone).length = 63 ∧
    millSerials (withCommand (posted 3 none (.acczero 5)) millState) 0 0 = [7] ∧
    (({ millState with cores := [] } : State).core 0).mill = none ∧
    OneGroup lane0 millCrew ∧ CanEnter millState lane0 millCrew := by unfold OneGroup CanEnter; decide +kernel
/-- Tiles held by another team, so that none is free: SHORT, and the sleep of WAIT. -/
theorem witness_full :
    let s := millState.setCore 0 { millState.core 0 with tiles := (List.range 64).map fun t => (t, 1) }
    ((List.range 64).filter fun t => ((s.core 0).tiles.get t).isNone) = [] ∧
      ((s.core 0).tiles.filter fun e => e.2 = millCrew.team) = [] ∧ allocWaits s 0 = [] ∧ s.cur = some lane0 ∧
      s.crews.get 0 = some millCrew := by decide +kernel
/-- ACCFREE of the tile held, and of one not held. -/
theorem witness_accfree :
    let c (x : Word) := operands x 0 0
    let i : Instr := .accfree (plain64 0 4 0 0 0)
    (∀ x ∈ [32, 64], (groupBar i i.form lane0 (c (BitVec.ofNat 32 x)) = none ∧
      (readRaised i i.form lane0 (c (BitVec.ofNat 32 x))).isEmpty = true)) ∧
    pairOf (firstOf i lane0 (c 32)).a = 32#64 ∧ (withTiles (c 32)).crews.get 0 = some (c 32) ∧
    (millState.core 0).tiles.get 5 = some 0 ∧ (millState.core 0).tiles.get 6 = none := by decide +kernel
/-- JSET with no signature, and with one. -/
theorem witness_jset :
    let j : Joint := { need := none, sigs := [], bad := false }
    ((jointState j).tctxs.get 0).map (fun t => t.joints.get 0) = some (some j) ∧ (jointState j).cur = some lane0 ∧
      (jointState j).crews.get 0 = some millCrew ∧
      ((recordOf (jointState j) millCrew).map fun r => (r.crews.toNat + 1) / (r.cores.toNat + 1)) = some 1 ∧
      (millCrew.team = 0 ∧ coreOf 0 = 0) := by decide +kernel
/-- A report of a command, told to a wait that its footprint reaches, and to none. -/
theorem witness_report :
    let core (n : Nat) := { millState.core 0 with
      reports := [(7, 0x101)], footprints := [{ team := 0, serial := n, first := 0, count := 4, dest := .pad 0 0, touched := false }] }
    ((core 7).footprints.any fun f => (f.team = millCrew.team && f.serial < 9) && f.serial = 7) = true ∧
      ((core 6).footprints.any fun f => (f.team = millCrew.team && f.serial < 9) && f.serial = 7) = false ∧
      millSerials (millState.setCore 0 (core 7)) 0 0 = [] := by decide +kernel
/-- The oldest command of queue MATRIX, its clocks over, and its work; a wait for it alone. -/
def millPosted (w : Work) : State := { withCommand (posted 3 none w) millState with clock := 1000 }
theorem witness_mill_publish :
    let c := posted 3 none (.acczero 5)
    let s := millPosted (.acczero 5)
    headCommand s 0 3 = some c ∧ c.word = none ∧ c.token = none ∧ ringOfWork c.work = none ∧
      c.till + (millWork s 0 c).clocks ≤ 1000 ∧ (millWork s 0 c).report = none ∧ s.sleepers = [] ∧ (s.core 0).reports = [] ∧
      (let sl : Sleeper := { crew := 0, lanes := 1#32, since := 0, seq := 0, next := 0, what := .mill [7] [7] none }
       c.till + (millWork (s.setSleepers [(9, sl)]) 0 c).clocks ≤ 1000 ∧
         (millWork (s.setSleepers [(9, sl)]) 0 c).report = none ∧ s.crews.get sl.crew = some millCrew) := by decide +kernel

/-- A command whose two operands have the headers of the tiles at 0 and 0x100. -/
def headed (w : Work) : Command := { posted 3 none w with heads := [tileHead 0, tileHead 1] }
/-- The tile's bytes as a command reads them. -/
def tileRead (s : State) (a : Word) (n : Nat) : List Byte :=
  match readTile s (headed (.acczero 5)) 0 a n with | some x => x.2.1 | none => []
theorem millState_untouched (c : Command) : Untouched millState 0 c := by
  intro f hf
  have h : (millState.core 0).footprints = [] := by decide +kernel
  rw [h] at hf; simp at hf
theorem millState_good : MemGood millState.mem := good_of (by decide +kernel)
theorem witness_mill_work :
    millState.mem.scratchPoisoned 0 8192 = false ∧ millState.mem.accPoison = [] ∧ (millState.tctxs.get 0).isSome = true ∧
      ownPad millState 0 0 0x200 (256 * 2) = some 0x200 ∧ ownPad millState 0 0 0x200 96 = some 0x200 ∧
      ((List.range 512).all fun j => millState.mem.orderedFor ((headed (.acczero 5)).know.set (2 ^ 16 + 4 * 0 + 3) millState.free)
        ((0x200 + j) / 16)) = true ∧
      readTile millState (headed (.acczero 5)) 0 0 0 = some (tileOf 0, tileRead millState 0 0, false) ∧
      readTile millState (headed (.acczero 5)) 0 0x100 1 = some (tileOf 1, tileRead millState 0x100 1, false) ∧
      readWords millState (headed (.acczero 5)) 0 0x200 24 = (List.replicate 24 0, false) ∧
      readWords millState (headed (.acczero 5)) 0 0x300 24 = (List.replicate 24 0, false) := by decide +kernel
/-- A gathered row: the index vector names the tile's one row at rows 1 and 2. -/
theorem witness_gathered_work :
    let t : TeamCtx := { scratch := 0, joints := [], slots := [], tables := [], index := some [0xFFFFFFFF#32, 0#32, 0#32] }
    ((millState.setTctx 0 0 t).tctxs.get 0).bind TeamCtx.index = some [0xFFFFFFFF#32, 0#32, 0#32] := by decide +kernel
/-- Sampled products with a norm that is NaN, with a total of 0, and with 24 equal norms and a cap of 1. -/
def normsOf (x : Word) : List Word := List.replicate 24 x
theorem witness_sampled_nan (a b : Nat → Nat → FNum) : SampledProduct (tileOf 0) (tileOf 1) a b (normsOf 0x7FC00000#32) (normsOf 0#32) 1 0 0
    (fun _ _ => 0x7FC00000#32) { s := 0, mean := 0#32, m2 := 0#32, reason := 4 } 0 :=
  have h : ∃ k, k < (tileOf 0).klen ∧ (badNorm (w (normsOf 0x7FC00000#32) k) = true ∨ badNorm (w (normsOf 0#32) k) = true) :=
    ⟨0, by decide, .inl (by decide +kernel)⟩
  ⟨fun _ => ⟨rfl, rfl⟩, fun n => absurd h n, fun n => absurd h n⟩
theorem witness_sampled_zero (a b : Nat → Nat → FNum) : SampledProduct (tileOf 0) (tileOf 1) a b (normsOf 0#32) (normsOf 0#32) 1 0 0
    (fun _ _ => 0#32) { s := 0, mean := 0#32, m2 := 0#32, reason := 3 } 0 :=
  have n : ¬ ∃ k, k < (tileOf 0).klen ∧ (badNorm (w (normsOf 0#32) k) = true ∨ badNorm (w (normsOf 0#32) k) = true) :=
    fun ⟨k, hk, h⟩ => by
      have : ∀ k, k < 24 → ¬ (badNorm (w (normsOf 0#32) k) = true ∨ badNorm (w (normsOf 0#32) k) = true) := by decide +kernel
      exact this k hk h
  ⟨fun h => absurd h n, fun _ _ => ⟨rfl, rfl⟩, fun _ h => absurd (by decide +kernel) h⟩
theorem witness_sampled_once (a b : Nat → Nat → FNum) : ∃ tile v,
    SampledProduct (tileOf 0) (tileOf 1) a b (normsOf 0x3F800000#32) (normsOf 0x3F800000#32) 1 0 0 tile v 1 :=
  have n : ¬ ∃ k, k < (tileOf 0).klen ∧
      (badNorm (w (normsOf 0x3F800000#32) k) = true ∨ badNorm (w (normsOf 0x3F800000#32) k) = true) :=
    fun ⟨k, hk, h⟩ => by
      have : ∀ k, k < 24 →
        ¬ (badNorm (w (normsOf 0x3F800000#32) k) = true ∨ badNorm (w (normsOf 0x3F800000#32) k) = true) := by decide +kernel
      exact this k hk h
  ⟨_, _, fun h => absurd h n, fun _ h => absurd h (by decide +kernel), fun _ _ =>
    ⟨fun _ => 2 ^ 32, fun _ => 0, _, 2, .overs _ _ _ _ _ (.inl (by decide +kernel)) (fun _ _ => rfl),
      .cap _ _ rfl (fun h => absurd h.1 (show ¬ 6 ≤ 1 by decide)) rfl, rfl, rfl⟩⟩

/-- A table of two dimensions and one level in the cluster window of core 0, its gradients in scratchpad. -/
def level0 : HashLevel := { n := 4, logT := 4, gv := false, feat := 0x1000000, grad := 0x1000100 }
def table0 : HashTable := { dim3 := false, levels := [level0] }
def tableBytes : List Byte :=
  List.replicate 16 0 ++ natBytes 2 4 ++ [4, 0] ++ natBytes 4 0x1000000 ++ natBytes 8 0x1000100 ++ List.replicate 240 0
def trowelCrew : Crew := operands 0x10000 0 0
def bindings : TeamCtx := { scratch := 0, joints := [], slots := [], tables := [(1, table0)], index := none }
def trowelState : State :=
  (engState trowelCrew 0x10000 tableBytes).setTctx 0 0 bindings
def htab (n : BitVec 15) : F64 := plain64 0 4 0 0 n
/-- A description whose header is read, then the header with one entry; sound, and with a reserved byte set. -/
def describes (bs : List Byte) (bad : Bool) : Bool :=
  match threadLoad ((engState trowelCrew 0x10000 bs).setTctx 0 0 bindings) 0 0 0x10000 16 16 false with
  | (s0, .bytes head _ _) =>
    (match threadLoad s0 0 0 0x10000 (16 + 16 * ((head.getD 0 0).toNat % 16 + 1)) 16 false with
     | (s1, .bytes bs _ _) => hashBad bs == bad && (s1.tctxs.get 0).isSome && (bad || decide (HashTable.parse bs = table0))
     | _ => false)
  | _ => false
theorem witness_htab :
    Ready (.htab (htab 3)) trowelState lane0 trowelCrew ∧ describes tableBytes false = true ∧
      describes (tableBytes.set 4 1) true = true ∧ OneGroup lane0 trowelCrew ∧ CanEnter trowelState lane0 trowelCrew :=
  ⟨⟨rfl, rfl, by decide +kernel, List.isEmpty_iff.1 (by decide +kernel)⟩, by unfold OneGroup CanEnter; decide +kernel⟩
def henc (n : BitVec 15) : F64 := plain64 20 6 0 0 n
def hgrad (n : BitVec 15) : F64 := plain64 0 6 8 0 n
theorem witness_bound : Bound trowelState lane0 trowelCrew 1 table0 ∧ boundTable trowelState 0 0 0 = none ∧
    ReadyAs (.henc (henc 1)) (hencForm (henc 1) table0) trowelState lane0 trowelCrew ∧
    ReadyAs (.hgrad (hgrad 1)) (hgradForm (hgrad 1) table0) trowelState lane0 trowelCrew :=
  ⟨⟨bindings, by decide +kernel, by decide⟩, by decide +kernel, ⟨rfl, rfl, by decide +kernel, List.isEmpty_iff.1 (by decide +kernel)⟩,
    ⟨rfl, rfl, by decide +kernel, List.isEmpty_iff.1 (by decide +kernel)⟩⟩
theorem witness_unbound :
    ReadyAs (.henc (henc 0)) { (Instr.form (.henc (henc 0))) with a := .raw } trowelState lane0 trowelCrew ∧
    ReadyAs (.hgrad (hgrad 0)) { (Instr.form (.hgrad (hgrad 0))) with a := .raw, b := .raw } trowelState lane0 trowelCrew ∧
    OneGroup lane0 trowelCrew ∧ CanEnter trowelState lane0 trowelCrew :=
  ⟨⟨rfl, rfl, by decide +kernel, List.isEmpty_iff.1 (by decide +kernel)⟩, ⟨rfl, rfl, by decide +kernel, List.isEmpty_iff.1 (by decide +kernel)⟩,
    by unfold OneGroup CanEnter; decide +kernel⟩
theorem witness_unbound_slot : Unbound trowelState lane0 trowelCrew 0 := by
  intro x hx
  rw [show trowelState.tctxs.get (trowelCrew.team * 256 + coreOf lane0.crew) = some bindings by decide +kernel] at hx
  cases hx; rfl
theorem witness_encodes :
    (encodeLane trowelState 0 table0 [0#32, 0#32] matches .ok _) = true ∧ (trowelState.core 0).footprints = [] ∧
      ((cornersOf level0 2 [0#32, 0#32]).all fun e => match scratchAt trowelState 0 (level0.feat + 4 * e.1) 4 with
        | some a => !trowelState.mem.scratchPoisoned a 4 | none => false) = true ∧
      (match contribute trowelState 0 0 0 0 (level0, 0x1000100, 0x3F800000#32) with | .ok _ => true | .error _ => false) = true ∧
      (scatterInTurn 0 0 0 table0 (partsAs (hgradForm (hgrad 1) table0) (.hgrad (hgrad 1)) lane0 trowelCrew) trowelState).isSome = true ∧
      scratchAt trowelState 0 0x1000100 4 = some 0x100 ∧ trowelState.mem.scratchPoisoned 0x100 4 = false ∧
      goodMem trowelState.mem = true ∧ ((recordOf trowelState trowelCrew).map fun r => r.det) = some false := by decide +kernel
/-- A launch with DET = 1: a table whose gradients are plain memory, and one with GV in a lowest-crew turn. -/
def detState : State :=
  { trowelState with launches := trowelState.launches.map fun e => (e.1, { e.2 with record := { e.2.record with det := true } }) }
theorem witness_det :
    ((recordOf detState trowelCrew).map fun r => r.det) = some true ∧ table0.levels.all HashLevel.gv = false ∧
      hgradTurn detState 0 trowelCrew = true ∧
      ({ table0 with levels := [{ level0 with gv := true }] } : HashTable).levels.all HashLevel.gv = true ∧
      (OneGroup allLanes trowelCrew) ∧ trowelCrew.regrouped = false ∧ CanEnter detState lane0 trowelCrew := by
  unfold OneGroup CanEnter; decide +kernel

/-- A version block at 0x10000 with CUR 1: counts at rest, at their limit, and a reader of the other buffer. -/
def blockState (rd0 rd1 : Nat) : State :=
  engState (operands 0x10000 1 0) 0x10000 (natBytes 4 1 ++ natBytes 4 0 ++ natBytes 4 rd0 ++ natBytes 4 rd1)
def versionInstrs : List Instr := [.vpin (plain64 8 4 0 0 0), .vunpin (plain64 0 4 6 0 0), .vpub (plain64 0 4 0 0 0), .vdrain (plain64 0 4 0 0 0)]
theorem witness_versions : ∀ i ∈ versionInstrs, Ready i (blockState 0 1) lane0 (operands 0x10000 1 0) :=
  fun i h => ⟨rfl, rfl, (by decide +kernel : ∀ i ∈ versionInstrs, groupBar i i.form lane0 (operands 0x10000 1 0) = none) i h,
    List.isEmpty_iff.1 ((by decide +kernel : ∀ i ∈ versionInstrs, (readRaised i i.form lane0 (operands 0x10000 1 0)).isEmpty = true) i h)⟩
def atBlock (s : State) (g : List Byte → Option (List Byte)) (p : List Byte → Bool) : Bool :=
  match threadAtomic s 0 0 0x10000 16 g with | (_, .bytes old _ _) => p old | _ => false
theorem witness_blocks :
    atBlock (blockState 0 1) pinnedBlock (fun b => (pinnedBlock b).isSome) = true ∧
      atBlock (blockState 0 0xFFFFFFFF) pinnedBlock (fun b => (pinnedBlock b).isNone) = true ∧
      atBlock (releaseAt (blockState 0 1) 0 5) (unpinnedBlock 1) (fun b => (unpinnedBlock 1 b).isSome) = true ∧
      atBlock (releaseAt (blockState 0 1) 0 5) (fun b => some (flippedBlock b)) (fun _ => true) = true ∧
      atBlock (blockState 0 1) (fun _ => none) (fun b => w (byteWords b) (3 - curOf b) = 0#32) = true ∧
      atBlock (blockState 1 1) (fun _ => none) (fun b => w (byteWords b) (3 - curOf b) ≠ 0#32) = true := by decide +kernel
/-- A block of which the other buffer's count is 0, so that VDRAIN goes on, and not 0. -/
theorem witness_drained :
    (match threadAtomic (blockState 0 1) 0 0 0x10000 16 (fun _ => none) with
      | (s1, .bytes _ _ pa) => ((acquireAt s1 0 5 pa).crews.get 0).isSome | _ => false) = true := by decide +kernel
/-- FRAME, and METER of the team's own queue and of queue 1, which belongs to no context or to context 5. -/
def budgetInstrs : List Instr := [.frame (plain64 0 0 0 0 0), .meter (plain64 8 0 0 0 0), .meter (plain64 8 0 0 0 0x041)]
theorem witness_budget : ∀ i ∈ budgetInstrs, Ready i (met baseH crew0 lane0) lane0 crew0 :=
  fun i h => ready_of rfl ((by decide +kernel : ∀ i ∈ budgetInstrs, groupBar i i.form lane0 crew0 = none ∧
    (readRaised i i.form lane0 crew0).isEmpty = true) i h)
theorem witness_meter :
    let s := met baseH crew0 lane0
    (recordOf s crew0).map (fun r => r.jobq.toNat) = some 0 ∧ (s.queue 1).ctx.toNat = ctxOf s crew0 ∧
      ((s.setQueue 1 { s.queue 1 with ctx := 5 }).queue 1).ctx.toNat ≠ ctxOf s crew0 := by decide +kernel

/-! ### Teams, launches and contexts -/

/-- The placed launch, and one of two teams of which none is placed, at queue 0. -/
def placedLaunch : Launch := (base.launches.head?.map Prod.snd).getD
  { record := placedRecord, ctx := 0, bad := false, next := 0, retired := 0, killed := false, placed := false, faulted := false, halted := false, reset := false, done := false }
def waitingLaunch : Launch := { placedLaunch with record := { placedLaunch.record with teams := 1 }, next := 0, placed := false, done := false }
def queueState : State :=
  let s := { baseH with launches := [(50, waitingLaunch)], clock := 4096, serial := 60 }
  s.setQueue 0 { s.queue 0 with en := true, launches := [50] }
theorem witness_placement :
    nextLaunch queueState 0 = some (50, waitingLaunch) ∧ mayStart queueState 0 0 = true ∧ (teamReads queueState 50 waitingLaunch matches .ready _) = true ∧
      servedQueue queueState = some 0 ∧ waitingLaunch.record.det = false ∧ (fits queueState waitingLaunch.record [255]).isSome = true := by
  decide +kernel
/-- Room for a share of three crews under DET, as placed on a core with a crew of partition 0 in slot 0. -/
theorem witness_room : (roomOn baseH 0 0 true [(0, 64), (6, 64), (7, 64)]).map Prod.snd = some [(0, 1), (0, 2), (1, 0)] := by decide +kernel
/-- Cores whose charges are due: core 0 alone, with an MMA that its Millstone works on, and core 255 with one charge. -/
def chargedAt (k : Nat) (q : Map Nat) (xs : List Command) : State :=
  { (baseH.setCore k { baseH.core k with charges := q, commands := xs, lastReport := 4 }) with clock := 8196 }
def chargedMma : Command := { posted 3 none (.acczero 5) with till := 8190 }
theorem witness_charges :
    reportsDue (chargedAt 255 [(0, 5), (63, 9)] []) = [255] ∧ Map.sorted (chargedAt 255 [(0, 5), (63, 9)] []).cores = true ∧
      ((chargedAt 255 [(0, 5), (63, 9)] []).core 255).commands = [] ∧ Map.sorted [((0 : Nat), (5 : Nat)), (63, 9)] = true ∧
      reportsDue (chargedAt 0 [] [chargedMma]) = [0] ∧ headCommand (chargedAt 0 [] [chargedMma]) 0 3 = some chargedMma ∧
      ((chargedAt 0 [] [chargedMma]).launchOf 0).isSome = true := by decide +kernel
/-- A ring whose entry 0 lies at 0x10000, and one whose entry is at an address no page maps. -/
def ringed (b : Addr) : State :=
  launchState.setSubRing 15 { launchState.subRing 15 with base := b, head := 1, tail := 0, en := true, barred := false }
theorem witness_ring_entry :
    (ringed 0x10000).sys.ready = true ∧ ((ringed 0x10000).subRing 15).head ≠ ((ringed 0x10000).subRing 15).tail ∧
      (match engineRead (ringed 0x10000) 256 0 0x10000 128 with
        | .ok bs false => (takeRecord (ringed 0x10000) (.ring 15) 0 bs matches .taken _) | _ => false) = true ∧
      (engineRead (ringed (2 ^ 56)) 256 0 (canonical (2 ^ 56)) 128 matches .bad _) = true ∧
      ((ringed 0x10000).setSubRing 15 { (ringed 0x10000).subRing 15 with barred := true } |>.subRing 15).barred = true ∧
      ringLog ((ringed 0x10000).subRing 15).log.toNat = 4 := by decide +kernel
/-- A team none of whose threads lives. -/
def overState : State := { baseH with crews := [] }
theorem witness_retire :
    (overState.teams.get 0).isSome = true ∧ ((overState.teams.get 0).map Team.saving) = some false ∧ threadsOver overState 0 = true ∧
      commandsOver overState 0 = true ∧ Map.sorted overState.teams = true ∧ Map.sorted overState.tctxs = true ∧
      (markBitmap (written overState [0]) 0 0 0 placedLaunch.record.bitmap matches .set _) = true := by decide +kernel
/-- The word of the bitmap can be read and written. -/
theorem witness_bitmap :
    (match engineRead overState 256 0 (canonical (placedLaunch.record.bitmap + BitVec.ofNat 57 (8 * (0 / 64)))) 8 with
      | .ok bs false => (match engineWrite overState (.team 0) 256 0
          (canonical (placedLaunch.record.bitmap + BitVec.ofNat 57 (8 * (0 / 64))))
          (bytesOfWord 8 (wordOfBytes 8 bs ||| (1#64 <<< (0 % 64)))) with | (_, .bytes _ _ _) => true | _ => false)
      | _ => false) = true := by decide +kernel
/-- A crew that waits for the active set of partition 0, alone and beside one that has yielded. -/
def waiter : Crew := { crew0 with active := false, ready := some 3 }
def yielding : Crew := { crew0 with active := true, yielded := some 4090 }
def swapState : State := { baseH with crews := [(0, waiter)], clock := 4096 }
def exchangeState : State := { baseH with crews := [(0, yielding), (1, waiter)], clock := 4096 }
theorem witness_swap :
    swapOf (refreshWaits swapState) 0 0 = some (none, 0) ∧
      (((refreshWaits swapState).core 0).part 0).doneSwap ≤ swapState.clock ∧
      swapOf (refreshWaits exchangeState) 0 0 = some (some 0, 1) ∧
      swapOf (refreshWaits { exchangeState with clock := 63, crews := [(0, { yielding with yielded := none }), (1, waiter)] }) 0 0 = some (none, 1) ∧
      Map.sorted exchangeState.crews = true := by decide +kernel
/-- A full active set whose latest swap is 63 and 64 clocks past. -/
def fullAt (clock : Nat) : State :=
  { baseH with clock, crews := (List.range 8).map (fun k => (k, { crew0 with active := true, lastGrant := 90 - k })) ++ [(8, waiter)] }
theorem witness_exchange : swapOf (fullAt 63) 0 0 = none ∧ swapOf (fullAt 64) 0 0 = some (some 7, 8) ∧
    Map.sorted (fullAt 64).crews = true := by decide +kernel
/-- A crew formed on core 0 by its regroup table. -/
def payload0 : Payload :=
  { team := 0, lane := 3, key := 0, serial := 1, crewIndex := 0, pc := 0x200008#57, words := [], gregs := [], nregs := 64, tlbase := 0, know := [] }
def formedState : State := baseH.setCore 0 { baseH.core 0 with formed := [{ team := 0, rank := 1, payloads := [payload0] }] }
theorem witness_formed : (formedRoom formedState 0).map Prod.fst = some { team := 0, rank := 1, payloads := [payload0] } := by decide +kernel
/-- Contexts with a deadline, saving, stopped with a saved team, past the deadline. -/
def ctxAs (f : Context → Context) (s : State) : State := s.setContext 0 (f (s.context 0))
theorem witness_preempt :
    ((ctxAs (fun c => { c with dl := 1 }) baseH).context 0).dl ≠ 0#32 ∧ ((ctxAs (fun c => { c with dl := 1 }) baseH).context 15).dl = 0#32 ∧
      (∃ e ∈ baseH.teams, e.2.ctx = 0) ∧ (∀ e ∈ ({ baseH with teams := [] } : State).teams, e.2.ctx ≠ 0) := by decide +kernel
def savingState : State :=
  ctxAs (fun c => { c with preempt := true, save := 0x100000 }) { baseH with teams := baseH.teams.map fun e => (e.1, { e.2 with saving := true }) }
theorem witness_save :
    (match savingState.teams.get 0 with
      | some x => decide (savingTeam savingState x.ctx = some (0, x)) &&
          (engineMeet (written savingState x.cores) 256 x.ctx (canonical (BitVec.ofNat 57 (nextImage (savingState.context x.ctx))))
            (imageSize placedLaunch.record) matches .ok _)
      | none => false) = true ∧
      commandsOver savingState 0 = true ∧ (savingState.crews.all fun e => e.2.pend.isEmpty) = true ∧ savingState.near.retrain = [] := by
  decide +kernel
/-- A saved team of no crews whose image is its trailer. -/
def savedTeam : SavedTeam :=
  { number := 70, id := 7, team := (baseH.teams.head?.map Prod.snd).getD
      { launch := 0, index := 0, ctx := 0, cores := [0], age := 0, barGen := 0, barCount := 0, barFlags := [], barBad := false, killed := false, saving := false }
    addr := 0x10000, size := 8, crews := [], places := [], ranks := [{ tctx := bindings, mill := false, variance := { s := 0, mean := 0, m2 := 0, reason := 0 }, tiles := [], rings := [], payloads := [], formed := [], scratch := [], scratchPoison := [], accPoison := [] }]
    sleeps := [] }
def resumedState : State :=
  ctxAs (fun c => { c with resume := true, saved := [savedTeam] })
    { overState with teams := [], mem := writeSeq MemSys.putThrough baseH.mem 0x10000 (imageBytes 70 8 savedTeam.team.index) }
theorem witness_restore :
    (resumedState.context 0).resume = true ∧ (resumedState.context 0).preempt = false ∧ (resumedState.context 0).stopped = false ∧
      readsFine resumedState 0x10000 8 (fun bs => bs = imageBytes 70 8 savedTeam.team.index) = true ∧ coresOk [0] = true ∧
      (∀ e ∈ [0].zip savedTeam.ranks, rankFits resumedState placedLaunch.record.det e.1 e.2 = true) ∧ dieFree resumedState 0 = true ∧
      (roomForAll resumedState (1024 * placedLaunch.record.scratch.toNat) placedLaunch.record.det [(0, [])]).isSome = true := by decide +kernel
/-- The same team with a crew of rank 0, which comes back into a free slot of partition 0. -/
def resumedCrew : State := ctxAs (fun c => { c with saved := [{ savedTeam with crews := [crew0], places := [(0, 5)] }] }) resumedState
theorem witness_restored_crew :
    (roomForAll resumedCrew (1024 * placedLaunch.record.scratch.toNat) placedLaunch.record.det
      [(0, [(crew0.index % 1, crew0.nregs)])]).map (fun r => r.map Prod.snd) = some [[(0, 0)]] ∧
      (resumedCrew.context 0).waiting = [] ∧ savedTeam.sleeps = [] := by decide +kernel
theorem witness_deadline :
    let s := ctxAs (fun c => { c with preempt := true, deadline := some 5 }) { baseH with clock := 5 }
    (s.context 0).preempt = true ∧ (s.context 0).deadline = some 5 ∧ Map.sorted s.teams = true := by decide +kernel
/-- A physical core that serves two logical cores, its neighbours retired. -/
def sharedState : State :=
  { baseH with clock := 70000, sys := { baseH.sys with
      phys := [(0, { retired := true, retiring := false, running := 0, since := 0 }), (1, { retired := true, retiring := false, running := 1, since := 0 })] } }
theorem witness_switch : runningOn sharedState.sys 2 = some 1 ∧ serverOf sharedState.sys 2 = some 2 ∧ (sharedState.core 1).commands = [] ∧
    ((sharedState.sys.phys.get 2).map PhysCore.since).getD 0 + 65536 ≤ sharedState.clock := by decide +kernel
/-- Handler threads asleep on escalation 4, with and without their instruction; an escalation that waits for the ring. -/
def escalated (past : Bool) : State :=
  { met baseH (lane0As fun t => { t with handler := true, wait := .op 9 }) lane0 with
    sleepers := [(9, { crew := 0, lanes := 1#32, since := 0, seq := 0, next := 0x200008#57, what := .escalated 4 past })] }
theorem witness_escalations : ∀ past : Bool,
    (escalated past).sleepers.find? (fun e => sleeperCtx (escalated past) e.2 = some 0 && (match e.2.what with
      | .escalated n _ => decide (n = ((4#64).setWidth 32 : Word).toNat) | _ => false)) ≠ none ∧
      Map.sorted (escalated past).sleepers = true ∧ ((escalated past).crews.get 0).map Crew.lost = some false ∧ (4#64 : BitVec 64).getLsbD 32 = false ∧
      ((4#64 + (1#64 <<< 32) : BitVec 64).getLsbD 32 = true ∧ ((4#64 + (1#64 <<< 32)).setWidth 32 : Word) = (4#64).setWidth 32) ∧
      (escalated past).sys.ready = true ∧ inMask 1#32 0 = true ∧
      ((escalated past).crews.get 0).map (fun c => (c.thread 0).wait) = some (.op 9) := by
  decide +kernel
/-- An escalation of a saved team, whose resume is held. -/
theorem witness_held_resume :
    let sl : Sleeper := { crew := 0, lanes := 1#32, since := 0, seq := 0, next := 0, what := .escalated 4 false }
    let s := ctxAs (fun c => { c with savedSleepers := [(9, sl)] }) baseH
    s.sleepers = [] ∧ (s.context 0).savedSleepers = [(9, sl)] ∧ (s.context 0).held = [] := by decide +kernel
theorem witness_escalation_entry :
    let s := ctxAs (fun c => { c with waiting := [9] }) (escalated false)
    (s.context 0).waiting = [9] ∧ evFull (s.context 0) = false ∧ (s.sleepers.get 9).isSome = true ∧ lanesOf 1#32 = [0] ∧
      (s.teams.get 0).isSome = true ∧ (s.crews.get 0).map Crew.team = some 0 := by decide +kernel
theorem witness_retrain :
    (baseH.near.retrain = [] ∧ 15 < baseH.sys.stacks ∧ ({ baseH with teams := [] } : State).teams = []) ∧
      (baseH.setNear { baseH.near with retrain := [(15, 2)] }).near.retrain = [(15, 2)] := by decide +kernel

/-! ### Sleeps, migrations, flushes and registers -/

/-- A group of lane 0 asleep on an operation of crew 0. -/
def asleepOn (a : Awaits) : State :=
  { engState (lane0As fun t => { t with wait := .op 9 }) 0x10000 (natBytes 4 1 ++ natBytes 8 0) with
    sleepers := [(9, { crew := 0, lanes := 1#32, since := 0, seq := 0, next := 0x200008#57, what := a })], clock := 100 }
theorem witness_sleep_expires :
    let s := { met baseH (lane0As fun t => { t with wait := .sleep 100 }) lane0 with clock := 100 }
    ((s.crews.find? (fun e => (List.range 32).any fun l =>
      match (e.2.thread l).wait with | .sleep till => decide (till ≤ s.clock) | _ => false)).map Prod.fst) = some 0 ∧
      Map.sorted s.crews = true := by decide +kernel
def waitbit0 (till : Option Nat) : Awaits := .waitbit 0x10000 0 true till 8 0#64 0 2
theorem witness_waitbit_again :
    (asleepOn (waitbit0 (some 100))).sleepers.find? (fun e => match e.2.what with
      | .waitbit _ _ _ (some n) _ _ _ _ => decide (n ≤ 100) | _ => false) ≠ none ∧
      (match threadLoad (asleepOn (waitbit0 none)) 0 0 0x10000 8 8 false with
        | (_, .bytes bs _ _) => (wordOfBytes 8 bs : BitVec 64).getLsbD 0 | _ => false) = true ∧
      (match threadLoad (asleepOn (waitbit0 none)) 0 0 0x10008 8 8 false with
        | (_, .bytes bs _ _) => !(wordOfBytes 8 bs : BitVec 64).getLsbD 0 | _ => false) = true := by decide +kernel
theorem witness_vdrain_again :
    atBlock (asleepOn (.vdrain 0x10000 [] 0)) (fun _ => none) (fun b => w (byteWords b) (3 - curOf b) = 0#32) = true ∧
      atBlock { asleepOn (.vdrain 0x10000 [] 0) with mem := (blockState 1 1).mem } (fun _ => none) (fun b => w (byteWords b) (3 - curOf b) ≠ 0#32) = true := by
  decide +kernel
/-- Sluice entries full and 64 clocks old. -/
theorem witness_sluice :
    let e : SluiceEntry := { core := 0, line := 7, born := 0, sectors := 0xFF, stores := [] }
    let m := { baseH.mem with sluice := [e] }
    m.sluice.find? (fun e => e.core = 0 && e.line = 7) = some e ∧ ({ baseH with clock := 64 } : State).clock = e.born + 64 := by decide +kernel
/-- A migration of a page of the capacity tier to a frame, its PTE unchanged, and one that is done. -/
def migration (done : Option Nat) : Migration :=
  { pte := 0x10000, old := BitVec.ofNat 64 (2 ^ 60 + 2 ^ 28 * 2 ^ 10 + 0xCE), va := 0x5000, ctx := 0, asid := 0, big := false, frame := some 0x60000, agents := [], done }
def migrating0 (done : Option Nat) (waiting : Nat) : State :=
  let s := engState (lane0As fun t => { t with wait := .migration 0x10000 0x5000 }) 0x10000 (natBytes 8 (2 ^ 60 + 2 ^ 28 * 2 ^ 10 + 0xCE))
  let u := s.faultUnit 0
  s.setFaultUnit 0 { u with migrations := [migration done], rings := u.rings.set 2 { u.ring 2 with head := BitVec.ofNat 32 waiting } }
theorem witness_migration :
    (((migrating0 none 16).faultUnit 0).migrations.find? (fun m => m.pte = 0x10000 && m.done.isNone)) = some (migration none) ∧
      readable (migrating0 none 16) (migration none) = true ∧ Map.sorted (migrating0 none 16).crews = true ∧
      (let r := ((migrating0 none 16).faultUnit 0).ring 2; 2 ^ ringLog r.log.toNat ≤ (r.head - r.tail).toNat) ∧
      (wordOfBytes 8 ((migrating0 none 16).mem.homeBytes 0x10000 8)).toNat = (migration none).old.toNat ∧
      (migrating0 none 16).disp.queues = [] ∧
      (∀ x ∈ ((migrating0 none 16).faultUnit 0).migrations, x.pte = 0x10000 → x = migration none) ∧
      faultDie (migrating0 none 16) (coreOf 0) = 0 ∧ ((migrating0 none 16).context 0).hen = true ∧
      (((migrating0 none 16).crews.get 0).map fun c => (c.thread 0).handler) = some false := by decide +kernel
theorem get_of_all {α : Type} {m : Map α} {p : α → Prop} (h : ∀ e ∈ m, p e.2) {n : Nat} {x : α} (hx : m.get n = some x) : p x := by
  induction m with
  | nil => cases hx
  | cons e rest ih =>
    obtain ⟨k, v⟩ := e
    simp only [Map.get] at hx
    split at hx
    · cases hx; exact h _ (List.mem_cons_self ..)
    · exact ih (fun e he => h e (List.mem_cons_of_mem _ he)) hx
/-- No core of a state whose cores all have none holds a command. -/
theorem idle_of {s : State} (h : ∀ e ∈ s.cores, e.2.commands = []) (k : Nat) : (s.core k).commands = [] := by
  unfold State.core
  cases hg : s.cores.get k with
  | none => rfl
  | some x => exact get_of_all (p := fun x => x.commands = []) h hg
theorem witness_no_card : NoCardWaits (migrating0 none 16) := by
  intro k c hc
  rw [idle_of (by decide +kernel) k] at hc; cases hc
/-- A migration whose old PTE names no page of the capacity tier. -/
theorem witness_unreadable : readable (migrating0 none 16) { migration none with old := 0 } = false := by decide +kernel
theorem witness_migration_mem : MemGood (migrating0 none 16).mem :=
  good_of (by decide +kernel)
theorem witness_done_entry :
    (((migrating0 (some 0) 15).faultUnit 0).migrations.find? (fun m => m.done.isSome)) = some (migration (some 0)) ∧
      (let r := ((migrating0 (some 0) 15).faultUnit 0).ring 2; (r.head - r.tail).toNat < 2 ^ ringLog r.log.toNat) := by decide +kernel
/-- A fabric extent that a decoder maps. -/
def fabric0 : State := State.reset.setSys { State.reset.sys with extents := [{ base := 2 ^ 48, size := 65536 }], decoders := [{ port := 1, n := 7, base := 2 ^ 48, size := 65536, dynamic := true }] }
theorem witness_extent :
    (fabric0.sys.decoders.any fun d => d.base < 2 ^ 48 + 4096 && 2 ^ 48 < d.base + d.size) = true ∧ fabric0.teams = [] ∧
      fabric0.sys.target (2 ^ 48 + 4095) = .fabric := by decide +kernel
theorem witness_extent_mem : MemGood fabric0.mem :=
  good_of (by decide +kernel)
/-- What has left the decoders raises 0x048, and the rest of the extent answers (11 R160). -/
theorem test_extent_left :
    (match execExtentForcedRelease (2 ^ 48) 4096 fabric0 with
     | .next t => (absentCause t (2 ^ 48 + 4095), absentCause t (2 ^ 48 + 4096), absentCause t (2 ^ 48 + 65536))
     | _ => (none, none, none)) = (some 0x048, none, some 0x04A) := by decide +kernel
/-- A running flush; a register of the map and a value without its GO bit. -/
theorem witness_system_writes :
    (baseH.setSys { baseH.sys with flushGo := true }).sys.flushGo = true ∧ baseH.sys.flushGo = false ∧
      regSlot baseH.sys (0xF000000002028 / 8 * 8) = some (.context 0 0x28) ∧
      ownRow { v := 0, lo := true, hi := true } (.context 0 0x28) = false := by decide +kernel

/-! ### Pooling, stack engines and bank units -/

/-- A table at the first chip, two rows of 16 in FP32, one bag of both rows. -/
def pool0 : PoolDesc :=
  { addr := 0x10000, tbase := BitVec.ofNat 64 (2 ^ 40), nrows := 2, rowlen := 16, fmt := 8, presort := false, weighted := false, rstride := 64
    idx := 0x50000, offs := 0x50100, wts := 0, out := 0x50200, nbags := 1 }
def embg0 : Command := posted 1 none (.embg pool0)
def poolMem : State := engState crew0 0x50000 (natBytes 4 0 ++ natBytes 4 1 ++ List.replicate 248 0 ++ natBytes 4 0 ++ natBytes 4 2)
def planOf (s : State) : Option PoolPlan := match prepare s (.command 7) 0 0 pool0 with | .plan p => some p | _ => none
def plan0 : PoolPlan := (planOf (noteBatch poolMem 0 0 pool0)).getD { offs := [], idx := [], wts := [], places := [], used := [] }
def pooling (c : Command) : State := withCommand c poolMem
def row0 (n : Nat) : PoolRow := { bytes := List.replicate n 0, poison := false, forwarded := false }
/-- The command before its LIST, with its rows, and with its bag returned. -/
def listed : Command := { embg0 with plan := some plan0, started := true, listed := [0], rows := [(0, row0 64), (1, row0 64)] }
theorem witness_list : poolCommand (pooling embg0) 0 7 = some embg0 ∧ poolHeld (pooling embg0) 0 embg0 = false ∧
    planOf (noteBatch (pooling embg0) 0 0 pool0) = some plan0 ∧ 0 ∈ plan0.chips ∧ owesBefore (pooling embg0) 0 7 0 = false ∧ Map.sorted plan0.places = true ∧
    (let c := { listed with listed := [], rows := [] }
     poolCommand (pooling c) 0 7 = some c ∧ poolHeld (pooling c) 0 c = false ∧ c.plan = some plan0 ∧ 0 ∉ c.listed ∧
      owesBefore (pooling c) 0 7 0 = false) := by
  decide +kernel
theorem witness_vec : poolCommand (pooling listed) 0 7 = some listed ∧ plan0.home 0 = some 0 ∧ 0 ∉ listed.bags ∧
    (∀ row ∈ plan0.rowsOf 0, (listed.rows.get row).isSome = true ∧ plan0.chip row = 0) ∧
    (writeBag (pooling listed) (.command 7) 0 0 pool0 0 (foldBag pool0 plan0 listed.rows 0).1 (foldBag pool0 plan0 listed.rows 0).2 matches .ok _) = true := by
  decide +kernel
/-- Rows on two chips: the second is forwarded to the first. -/
def apartPlan : PoolPlan := { plan0 with places := [(0, [(2 ^ 40, 64)]), (1, [(2 ^ 40 + 2 ^ 39, 64)])] }
theorem witness_fwd :
    let c := { listed with plan := some apartPlan }
    poolCommand (pooling c) 0 7 = some c ∧ 1 ∈ apartPlan.rowsOf 0 ∧ apartPlan.home 0 ≠ some (apartPlan.chip 1) := by decide +kernel
theorem witness_stat :
    let c := { listed with bags := [0] }
    poolCommand (pooling c) 0 7 = some c ∧ 0 ∈ c.listed ∧ 0 ∉ c.answered ∧ (∀ b, b < pool0.nbags → b ∈ c.bags) := by decide +kernel
theorem witness_repl :
    let c := posted 1 none (.embw pool0 1 0x40)
    poolCommand (pooling c) 0 7 = some c ∧ poolHeld (pooling c) 0 c = false ∧
      (match rowPieces (pooling c) 0 0 (rowAddress pool0 1) (poolRowBytes pool0) .store with
        | .ok [(pa, n)] => decide (n = 64) && !owesBefore (pooling c) 0 7 (chipOf pa) | _ => false) = true ∧
      (match scratchAt (pooling c) 0 0x40 64 with | some k => !(pooling c).mem.scratchPoisoned k 64 | none => false) = true ∧
      c.started = false ∧ (1 : Nat) < pool0.nrows ∧ goodMem (pooling c).mem = true ∧
      ((pooling c).cores.all fun e => e.2.footprints.isEmpty) = true := by decide +kernel
theorem witness_link :
    let s := { pooling { listed with till := 5 } with clock := 5 }
    ∃ core ∈ s.cores.keys, ∃ c ∈ (s.core core).commands, c.queue = 1 ∧ c.result = none ∧ c.started = true ∧
      c.till ≤ s.clock ∧ c.plan = some plan0 ∧ ∃ chip ∈ plan0.chips, chip ∉ c.answered := by decide +kernel
def pbmAs (n : Nat) (pages : Nat) : State :=
  baseH.setSys { baseH.sys with pbmPhase := n, pbmChip := 7, pbmOff := 8192, pbmPages := BitVec.ofNat 27 pages, pbmDone := 0x50000 }
theorem witness_maintenance : (pbmRange (pbmAs 2 1).sys).isSome = true ∧ pbmRange (pbmAs 2 (2 ^ 27 - 1)).sys = none ∧
    (pbmAs 4 1).sys.target 0x50000 = .hbm ∧ (pbmAs 4 1).mem.isRevoked 0x50000 = false := by decide +kernel

/-- A card of a kind, its words 3 to 7 given, and engine 5 with it waiting, or running. -/
def card (kind : Nat) (args : List (BitVec 64)) : Job :=
  { card := [BitVec.ofNat 64 kind, 0, 0] ++ args, serial := 3, core := 0, ctx := 0, ended := none, begun := false, sequence := none, block := none }
def cardWaits (j : Job) : State :=
  baseH.setNear { baseH.near with engines := [(5, { baseH.engine 5 with queue := [j] })] }
def cardRuns (j : Job) : State :=
  { baseH.setNear { baseH.near with turn := some 5, engines := [(5, { baseH.engine 5 with
      running := some { j with begun := true }, hart := { (baseH.engine 5).hart with pc := 0x200000#64, machine := false } })] } with clock := 1000 }
theorem witness_cards : ∀ k, k < 4 → nextCard (cardWaits (card k [0, 0, 0, 0, 0])) 5 k = some (card k [0, 0, 0, 0, 0]) := by decide +kernel
theorem witness_ended :
    let j := { card 0 [0, 0, 0, 0, 1] with ended := some (0, 0, 0) }
    endedJob (cardRuns j) 5 = some ({ j with begun := true }, 0, 0, 0) ∧ (∀ k, k < 5 → endedJob (cardRuns j) k = none) ∧
      jobWordPage (cardRuns j) 5 { j with begun := true } = none := by decide +kernel
theorem witness_limit :
    let j := card 0 [0, 0, 0, 0, 1]
    runJob (cardRuns j) 5 = some { j with begun := true } ∧ (∀ k, k < 5 → runJob (cardRuns j) k = none) ∧
      ({ j with begun := true } : Job).arg 4 ≠ 0 ∧ ({ j with begun := true } : Job).arg 4 < (1000 - ((cardRuns j).engine 5).hart.cycle) * 4 / 5 := by
  decide +kernel
/-- A kernel at an ADDI and at an ECALL, and a descriptor of one row for BSQ.START. -/
def kernel (word : Nat) : State :=
  let s := cardRuns (card 0 [0, 0, 0, 0, 0])
  { s with mem := writeSeq MemSys.putThrough s.mem 0x200000 (natBytes 4 word) }
theorem witness_hart :
    (match hartFetch (kernel 0x00150513) 5 0 0x200000 with
      | .ok (s1, word, len) => decide (word = 0x00150513 ∧ len = 4) &&
          (match rvExec s1 5 0 ((kernel 0x00150513).engine 5).hart word len with | .ok _ => true | .error _ => false)
      | .error _ => false) = true ∧
      (match hartFetch (kernel 0x73) 5 0 0x200000 with | .ok (_, word, len) => decide (word = 0x73 ∧ len = 4) | .error _ => false) = true := by
  decide +kernel
def rowArgs : List Byte := natBytes 8 0x40400 ++ natBytes 8 0x1040400 ++ natBytes 8 0x3F800000 ++ natBytes 8 0x400 ++ natBytes 8 0x400
def bankKernel : State :=
  let s := { kernel 0x73 with mem := writeSeq MemSys.putThrough (kernel 0x73).mem 0x50000 rowArgs }
  s.setEngine 5 { s.engine 5 with hart := { (s.engine 5).hart with x := [(11, 0x50000#64)] } }
theorem witness_bsq :
    (match readDescriptor bankKernel 5 0 0x50000 with
      | .ok (s1, args) => decide (nth args 2 < 2 ^ 40) && (checkRows s1 (.job 3) 5 0 (nth args) matches .ok _ _)
      | .error _ => false) = true ∧ (bankKernel.engine 5).hart.getX 11 = 0x50000#64 ∧
      (List.range 4).find? (fun k => ((bankKernel.engine 5).hart.handles.get k).isNone) = some 0 := by decide +kernel
/-- A sequence that runs, and one that is over, with its handle. -/
def run0 : BankRun := { bank := 256, rows := [0], suspended := false, retrained := false, stopped := false }
def seq0 (banks : List BankRun) (finished : Bool) : BankSeq :=
  { number := 30, engine := 5, stack := 1, scalar := 0x3F800000, xs := [0x40400], ys := [0x1040400], banks, poisoned := false, finished, status := 0, spoiled := [], dropped := false, used := [] }
def seqState (q : BankSeq) : State :=
  let s := cardRuns { card 2 [0x40400, 0x1040400, 0x3F800000, 0x400, 0x400] with sequence := some 30 }
  s.setNear { s.near with sequences := [q] }
theorem witness_poll : ∀ f : Bool, sequenceOf (seqState (seq0 [] f)) 30 = some (seq0 [] f) := by decide +kernel
theorem witness_scaleadd :
    (checkRows (cardWaits (card 2 [0x40400, 0x1040400, 0x3F800000, 0x400, 0x400])) (.job 3) 5 0 (card 2 [0x40400, 0x1040400, 0x3F800000, 0x400, 0x400]).arg
      matches .ok _ _) = true ∧
      (checkRows (cardWaits (card 2 [1, 0x1040400, 0x3F800000, 0x400, 0x400])) (.job 3) 5 0 (card 2 [1, 0x1040400, 0x3F800000, 0x400, 0x400]).arg
      matches .bad _ _ _) = true := by decide +kernel
/-- A row whose granules hold no poison, one with a poisoned granule of x, and a stack that asks for retraining. -/
theorem witness_bank_row :
    (seq0 [run0] false).banks.find? (fun b => b.bank = 256 && !b.suspended && !b.retrained && !b.stopped) = some run0 ∧
      sequenceOf (seqState (seq0 [run0] false)) 30 = some (seq0 [run0] false) ∧ run0.rows = [0] ∧ 0 ∉ (seq0 [run0] false).spoiled ∧
      (∀ k, k < (seq0 [run0] false).xs.length → k = 0) ∧ goodMem (seqState (seq0 [run0] false)).mem = true ∧
      (∀ a, a < 64 → (seqState (seq0 [run0] false)).mem.poisonAt (0x40400 + 16 * a) = false) ∧
      ((seqState (seq0 [run0] false)).mem.poisonSet (0x40400 / 16)).poisonAt 0x40400 = true := by decide +kernel
theorem witness_bank_row_good : MemGood ((seqState (seq0 [run0] false)).mem.poisonSet (0x40400 / 16)) := good_of (by decide +kernel)
theorem witness_bank_resume :
    let q := seq0 [{ run0 with suspended := true }] false
    (∃ b ∈ q.banks, b.bank = 256 ∧ b.suspended = true) ∧ (seqState q).near.retrain.get q.stack = none := by decide +kernel
theorem witness_bank_done :
    let q := seq0 [{ run0 with rows := [] }] false
    (seqState q).near.sequences.find? (fun q => q.isOver && !q.finished) = some q ∧
      (((seqState q).engine 5).running.map Job.sequence) = some (some q.number) := by decide +kernel

/-! ### Outside agents, errors, stages and steps -/

/-- PCIe port 3, PASIDs 15 and 16, an address of HBM and one no page maps; a hart's access. -/
theorem witness_outside :
    (∃ p ∈ baseH.sys.record.ports, p.1 = 3) ∧ IsMemory baseH 0x50000 ∧ IsMemory baseH (0x50000 + 16 - 1) ∧
      baseH.mem.isRevoked 0x50000 = false ∧ baseH.mem.poisonIn 0x50000 16 = false ∧
      meet baseH (portCore 3) 0 0x50000 16 .load = .ok [(there 0x50000, 16)] ∧ piecesPoisoned baseH [(there 0x50000, 16)] = false ∧
      (meet baseH (portCore 3) 0 (2 ^ 56) 16 .load matches .bad _) = true ∧
      reach baseH (portCore 3) 0 0x50000 .load = .ok (there 0x50000) ∧ (reach baseH (portCore 3) 0 (2 ^ 56) .load matches .ok _) = false ∧
      15 ∈ baseH.sys.record.harts := by unfold IsMemory; decide +kernel
/-- What the errors and repairs need. -/
theorem witness_repair :
    baseH.sys.cecnt.length = 4 ∧ ((baseH.sys.phys.get 33).map PhysCore.retired).getD false = false ∧ 8 < aliveIn baseH.sys 1 ∧
      (∀ e ∈ baseH.teams, ∀ c ∈ e.2.cores, serverOf baseH.sys c ≠ some 33) ∧ slicesLeft baseH.sys 3 ≠ 0 ∧
      ({ baseH.sys with hbmSpares := [(15, 1)] } : SysDie).hbmSpares.get 15 = some 1 ∧
      ({ baseH with clock := 2 ^ 32 } : State).sys.window + 2 ^ 32 ≤ 2 ^ 32 := by decide +kernel
/-- Every stage; whether stage 1's image verifies is the delivery's (log 9), and the two clauses cover both. -/
def stageState (n : Nat) : State :=
  State.reset.setSys { State.reset.sys with started := true, ready := false, recovery := false, stage := BitVec.ofNat 4 n }
theorem witness_stages : ∀ n ∈ [1, 2, 3, 4, 5], (stageState n).sys.started = true ∧ (stageState n).sys.ready = false ∧
    (stageState n).sys.recovery = false ∧ (stageState n).sys.stage.toNat = n ∧
    (∀ c, c < 4 * (stageState n).sys.dies → 8 ≤ aliveIn (stageState n).sys c) ∧ State.reset.sys.started = false := by decide +kernel
/-- A turn that grants a group which decodes to an instruction, one whose unused field is not 0, and one whose PC no page maps. -/
def atPc (pc : Addr) (s : State) : State :=
  { s with crews := s.crews.map fun e => (e.1, { e.2 with threads := e.2.threads.map (fun t => (t.1, { t.2 with pc })), groups := [{ pc, handler := false, rep := 0 }] }) }
def granted (s : State) (p : Except Nat (List (Nat × Byte)) → Bool) : Bool :=
  match nextTurn s with | .grant key c K _ => p (fetchInstr s (coreOf key) (ctxOf s c) K.pc) | _ => false
theorem witness_grant :
    granted base (fun f => match f with
      | .ok bs => (match decode (bs.map Prod.snd) with | .ok _ => true | .error _ => false) | .error _ => false) = true ∧
    granted (State.reset.withFetchWord 32 0x00840A41) (fun f => match f with
      | .ok bs => (match decode (bs.map Prod.snd) with | .ok _ => false | .error _ => true) | .error _ => false) = true ∧
    granted (atPc (2 ^ 56) base) (fun f => match f with | .ok _ => false | .error c => c ≠ 0) = true := by decide +kernel
/-- Turns of a hart, of a result, of an agent, of the schedule and of the clock. -/
theorem witness_turns :
    (nextTurn (State.reset.withFetchWord 32 0x0005950B) matches .hart _) = true ∧
      (nextTurn { met base { crew0 with pend := [due0] } lane0 with cur := none } matches .result 0 1) = true ∧
      (nextTurn { base with schedule := [.hfence] } matches .scheduled .hfence []) = true ∧
      (nextTurn { base with crews := [], teams := [], launches := [], tctxs := [] } matches .clock) = true := by decide +kernel
theorem witness_agent_turn :
    (nextTurn { met base (lane0As fun t => { t with wait := .sleep 0 }) lane0 with cur := none } matches .agent _) = true := by decide +kernel

theorem witness_stage_ends : ∀ n ∈ [2, 3, 4, 5], (stageState n).schedule = [] ∧ (dueResult (stageState n)).isNone = true ∧
    (endStage (stageState n)).isSome = true := by decide +kernel

/-! ### Cards on their engines -/

/-- A read and a write of an engine, with none where it does not go as said; the atomics' reach. -/
def readAs (who : Agent) (e ctx ea n : Nat) (acquire : Bool) (bs : List Byte) (s : State) : Option State :=
  match (meet s (engineCore e) ctx ea n .load).of s who with
  | .ok ms =>
    if piecesPoisoned s ms = false ∧ readPieces (engineNote s e ctx ea n acquire) (engineCore e) ms = bs then
      some (engineNote s e ctx ea n acquire)
    else none
  | _ => none
def writeAs (who : Agent) (e ctx ea : Nat) (bs : List Byte) (release : Bool) (s : State) : Option State :=
  match engineWrite s who (engineCore e) ctx ea bs with
  | (s1, .bytes _ _ pa) => some (engineWrote s1 e pa release)
  | _ => none
def unbarred (s : State) : Meet → Bool
  | .ok ms => ms.all fun m => !atomicBarred s m.1
  | _ => true
theorem reads_of {who e ctx ea n acquire bs s t} (h : readAs who e ctx ea n acquire bs s = some t) :
    ReadsAs who e ctx ea n acquire bs s t := by
  unfold readAs at h
  split at h
  · next ms hm =>
    split at h
    · next hp => cases h; exact ⟨ms, hm, hp.1, rfl, hp.2⟩
    · cases h
  · cases h
theorem writes_of {who e ctx ea bs release s t} (h : writeAs who e ctx ea bs release s = some t) :
    WritesAs who e ctx ea bs release s t := by
  unfold writeAs at h
  split at h
  · next s1 ds ls pa hw => cases h; exact ⟨s1, ds, ls, pa, hw, rfl⟩
  · cases h
theorem reachable_of {s : State} {r : Meet} (h : unbarred s r = true) : Reachable s r := by
  rintro ms rfl m hm
  simpa using List.all_eq_true.1 h m hm
/-- The accesses of a work performed one after another, with none where one does not go as the list says. -/
def touched (who : Agent) (e ctx : Nat) : List Touch → State → Option State
  | [], s => some s
  | .read a n bs :: rest, s => (readAs who e ctx (va57 a) n false bs s).bind (touched who e ctx rest)
  | .take a n bs :: rest, s => (readAs who e ctx (va57 a) n true bs s).bind (touched who e ctx rest)
  | .write a bs release :: rest, s => (writeAs who e ctx (va57 a) bs release s).bind (touched who e ctx rest)
  | .gen a bs :: rest, s =>
    if unbarred s (meet s (engineCore e) ctx (va57 a) 8 .load) then
      (readAs who e ctx (va57 a) 8 false bs s).bind (touched who e ctx rest)
    else none
  | .setGen a v release :: rest, s =>
    if unbarred s (engineMeet s (engineCore e) ctx (va57 a) 8) then
      (writeAs who e ctx (va57 a) (bytesOfWord 8 (BitVec.ofNat 64 v)) release s).bind (touched who e ctx rest)
    else none
theorem performs_of {who : Agent} {e ctx : Nat} : ∀ {l : List Touch} {s t : State},
    touched who e ctx l s = some t → Performs who e ctx l s t
  | [], s, t, h => by cases h; rfl
  | .read .. :: _, s, t, h => by obtain ⟨u, hu, hr⟩ := Option.bind_eq_some_iff.1 h; exact ⟨u, reads_of hu, performs_of hr⟩
  | .take .. :: _, s, t, h => by obtain ⟨u, hu, hr⟩ := Option.bind_eq_some_iff.1 h; exact ⟨u, reads_of hu, performs_of hr⟩
  | .write .. :: _, s, t, h => by obtain ⟨u, hu, hr⟩ := Option.bind_eq_some_iff.1 h; exact ⟨u, writes_of hu, performs_of hr⟩
  | .gen .. :: _, s, t, h => by
    simp only [touched] at h
    split at h
    · next hb => obtain ⟨u, hu, hr⟩ := Option.bind_eq_some_iff.1 h; exact ⟨reachable_of hb, u, reads_of hu, performs_of hr⟩
    · cases h
  | .setGen .. :: _, s, t, h => by
    simp only [touched] at h
    split at h
    · next hb => obtain ⟨u, hu, hr⟩ := Option.bind_eq_some_iff.1 h; exact ⟨reachable_of hb, u, writes_of hu, performs_of hr⟩
    · cases h
theorem performs_some {who : Agent} {e ctx : Nat} {l : List Touch} {s : State} (h : (touched who e ctx l s).isSome = true) :
    ∃ t, Performs who e ctx l s t := by
  obtain ⟨t, ht⟩ := Option.isSome_iff_exists.1 h
  exact ⟨t, performs_of ht⟩
/-- A read or a write whose pages do not translate. -/
def failedAt (who : Agent) (e ctx : Nat) (s : State) : Touch → Option (Nat × Nat × Nat)
  | .read a n _ => match (meet s (engineCore e) ctx (va57 a) n .load).of s who with | .bad c => some (1, c, va57 a) | _ => none
  | .write a bs _ => match (engineMeet s (engineCore e) ctx (va57 a) bs.length).of s who with | .bad c => some (1, c, va57 a) | _ => none
  | _ => none
theorem fails_of {who : Agent} {e ctx : Nat} {s : State} {x : Touch} {st cause ea : Nat}
    (h : failedAt who e ctx s x = some (st, cause, ea)) : FailsAt who e ctx s st cause ea x := by
  unfold failedAt at h
  split at h
  · split at h
    · next hb => cases h; exact ⟨rfl, .inl ⟨hb, rfl⟩⟩
    · cases h
  · split at h
    · next hb => cases h; exact ⟨rfl, rfl, hb⟩
    · cases h
  · cases h

/-- A block of one element, its numbers those of the worked element below, with a flag word that is clear. -/
def updateBytes (master : Nat) (step : Nat) : List Byte :=
  ([master, 0x20100, 0x20200, 0x20300, 0x20400, 0x20500, 0x20600, 0x20700].flatMap (natBytes 8)) ++
    ([1, 1, step, 0x3F800000, 0x3F000000, 0x3F000000, 0x40000000, 0, 0x7F800000, 0x3F800000, 0x3F800000, 0, 0, 0, 0, 0].flatMap (natBytes 4))
/-- The memory of the block: master 0, moments 0 and 4, the gradient, the generation word 5, the flag. -/
def updateState (kind grad flag gen : Nat) (block : Option (List Byte × Nat)) : State :=
  let put (m : MemSys) (a n x : Nat) : MemSys := writeSeq MemSys.putThrough m a (natBytes n x)
  let j : Job := { card kind [0x10000, 0, 0, 0, 0] with block }
  let s := match block with | none => cardWaits j | some _ => cardRuns j
  let m := writeSeq MemSys.putThrough s.mem 0x10000 (updateBytes 0x20000 1)
  { s with mem := put (put (put (put m 0x20200 4 0x40800000) 0x20300 4 grad) 0x20700 8 flag) 0x20600 8 gen }
def updateBlk : UpdateBlock := UpdateBlock.parse (updateBytes 0x20000 1)
/-- The card waits and its block is read, sound, with a generation word at rest, busy and torn. -/
theorem witness_block_read : ∀ kind ∈ [1, 3],
    let s := updateState kind 0 0 5 none
    let j : Job := card kind [0x10000, 0, 0, 0, 0]
    runningCard s 5 kind = none ∧ nextCard s 5 kind = some j ∧ j.arg 0 % 64 = 0 ∧ va57 (j.arg 0) = j.arg 0 ∧
      updateBlk.bad (updateBytes 0x20000 1) = false ∧ (UpdateBlock.parse (updateBytes 0x20004 1)).bad (updateBytes 0x20004 1) = true ∧
      (touched (.job 3) 5 0 [.read 0x10000 128 (updateBytes 0x20000 1), .gen 0x20600 (natBytes 8 5)] s).isSome = true := by
  decide +kernel
def updateReads (g : Nat) : List Touch := [.take 0x20700 8 (List.replicate 8 0#8), .read 0x20300 4 (natBytes 4 g)]
def element0 : Element := updateElement updateBlk 0x3F800000#32 0x40000000 0 0 0x40800000
/-- An UPDATE that works on its element, one with a gradient that is NaN, one with its flag set, and one whose word changed. -/
theorem witness_update :
    (let s := updateState 1 0x40000000 0 5 (some (updateBytes 0x20000 1, 5))
     (runningCard s 5 1).map (fun x => x.2) = some (updateBytes 0x20000 1, 5) ∧
     clipFactor updateBlk (gradient updateBlk (natBytes 4 0x40000000)) = 0x3F800000#32 ∧
     (touched (.job 3) 5 0
       (updateReads 0x40000000 ++ [.gen 0x20600 (bytesOfWord 8 (BitVec.ofNat 64 5)), .setGen 0x20600 (5 + 2 ^ 62) false] ++
         elementTouches updateBlk 0x3F800000#32 (gradient updateBlk (natBytes 4 0x40000000)) (fun _ => 0#32) (fun _ => 0x40800000#32)
           (fun _ => 0#32) 0 ++ [counterTouch updateBlk 0x10000 1 0 0 0 0] ++
         copyTouches updateBlk (fun _ => 0xBE800000#32) (fun _ => [0x80, 0xBE]) ++ [.setGen 0x20600 6 true]) s).isSome = true) ∧
    (touched (.job 3) 5 0
      (updateReads 0x7FC00000 ++ [counterTouch updateBlk 0x10000 0 1 0 0 1, writeDword 0x20700 1 true])
      (updateState 1 0x7FC00000 0 5 (some (updateBytes 0x20000 1, 5)))).isSome = true ∧
    (touched (.job 3) 5 0 [.take 0x20700 8 (natBytes 8 1), counterTouch updateBlk 0x10000 0 0 0 0 1]
      (updateState 1 0x40000000 1 5 (some (updateBytes 0x20000 1, 5)))).isSome = true ∧
    (touched (.job 3) 5 0 (updateReads 0x40000000 ++ [.gen 0x20600 (natBytes 8 6)])
      (updateState 1 0x40000000 0 6 (some (updateBytes 0x20000 1, 5)))).isSome = true := by decide +kernel
/-- A PAIRFIX that writes both copies, and one whose master no page maps, which leaves TORN. -/
def badMaster : List Byte := updateBytes (2 ^ 56) 0
theorem witness_pairfix :
    (let s := updateState 3 0 0 5 (some (updateBytes 0x20000 1, 5))
     (runningCard s 5 3).map (fun x => x.2) = some (updateBytes 0x20000 1, 5) ∧ (5 : Nat).testBit 62 = false ∧
     (touched (.job 3) 5 0 ([.gen 0x20600 (bytesOfWord 8 (BitVec.ofNat 64 5)), .setGen 0x20600 (5 + 2 ^ 62) false] ++
       copyTouches updateBlk (fun _ => 0#32) (fun _ => [0, 0]) ++ [.setGen 0x20600 5 true]) s).isSome = true) ∧
    (match touched (.job 3) 5 0
        [.gen 0x20600 (bytesOfWord 8 (BitVec.ofNat 64 5)), .setGen 0x20600 (5 + 2 ^ 62) false]
        (updateState 3 0 0 5 (some (badMaster, 5))) with
     | some s1 => failedAt (.job 3) 5 0 s1 (.read (UpdateBlock.parse badMaster).master 4 (bytesOfWord 4 0#32)) == some (1, 0x042, va57 (2 ^ 56)) &&
        (touched (.job 3) 5 0 [.setGen 0x20600 (5 + 2 ^ 63) true] s1).isSome
     | none => false) = true := by decide +kernel
/-- An UPDATE that fails at its element, its first moment where no page maps it, and one that fails at its plain copy. -/
def badBlock (mom1 plain : Nat) : List Byte :=
  ([0x20000, mom1, 0x20200, 0x20300, plain, 0x20500, 0x20600, 0x20700].flatMap (natBytes 8)) ++ (updateBytes 0x20000 1).drop 64
def tornAfter (block : List Byte) (before : List Touch) (touch : Touch) (rest : List Touch) : Bool :=
  match touched (.job 3) 5 0 before (updateState 1 0x40000000 0 5 (some (block, 5))) with
  | some s1 => (failedAt (.job 3) 5 0 s1 touch).isSome && (touched (.job 3) 5 0 rest s1).isSome
  | none => false
def busyUpdate : List Touch :=
  updateReads 0x40000000 ++ [.gen 0x20600 (bytesOfWord 8 (BitVec.ofNat 64 5)), .setGen 0x20600 (5 + 2 ^ 62) false]
def element1 : List Touch := elementTouches updateBlk 0x3F800000#32 (gradient updateBlk (natBytes 4 0x40000000)) (fun _ => 0#32)
  (fun _ => 0x40800000#32) (fun _ => 0#32) 0
theorem witness_update_torn :
    tornAfter (badBlock (2 ^ 56) 0x20400) busyUpdate (.read (2 ^ 56) 4 (bytesOfWord 4 0#32))
      [counterTouch (UpdateBlock.parse (badBlock (2 ^ 56) 0x20400)) 0x10000 0 0 0 0 0, .setGen 0x20600 (5 + 2 ^ 63) true] = true ∧
    (let b := UpdateBlock.parse (badBlock 0x20100 (2 ^ 56))
     tornAfter (badBlock 0x20100 (2 ^ 56)) (busyUpdate ++ element1 ++
        [counterTouch b 0x10000 1 0 0 0 0, .read 0x20000 4 (bytesOfWord 4 0xBE800000#32)])
      (.write (2 ^ 56) (bytesOfWord 2 (upperHalf 0xBE800000#32)) false) [.setGen 0x20600 (5 + 2 ^ 63) true]) = true := by decide +kernel
/-- Elements whose denominator is 0, whose new moment is infinite and whose numbers are finite. -/
theorem witness_elements : finite 0#32 = true ∧ finite 0x40800000#32 = true ∧
    (updateElement { updateBlk with eps := 0 } 0x3F800000#32 0 0 0 0).zeroden = true ∧
    (updateElement updateBlk 0x3F800000#32 0x7F7FFFFF#32 0 0 0).nonfin = true := by decide +kernel

/-- 29 R335 by hand, with β1 = β2 = 1/2, α = 1, ε = 2, no decay and corrections of 1: g = 2, m = 0, v = 4 and w = 0 give
m' = 1, v' = 4 and w' = −1/(2 + 2). -/
theorem test_update_element : element0 =
    { new := some (0xBE800000#32, 0x3F800000#32, 0x40800000#32), nonfin := false, clamped := false, zeroden := false } := by decide +kernel

/-! ### Batches that fail, harts' instructions and accesses, resets, parked groups and refused bytes -/

/-- A batch whose offset table lies where no page maps it. -/
def pool1 : PoolDesc := { pool0 with offs := BitVec.ofNat 64 (2 ^ 56) }
theorem witness_batch_fails :
    let c := posted 1 none (.embg pool1)
    poolCommand (pooling c) 0 7 = some c ∧ poolHeld (pooling c) 0 c = false ∧ c.plan = none ∧
      (prepare (noteBatch (pooling c) 0 0 pool1) (.command 7) 0 0 pool1 matches .fail _ _ _) = true := by decide +kernel
theorem witness_repl_answers :
    let c := { posted 1 none (.embw pool0 1 0x40) with reply := some (0, 0, 0), listed := [0] }
    poolCommand (pooling c) 0 7 = some c ∧ 0 ∈ c.listed := by decide +kernel
theorem witness_late : ({ listed with asked := [(0, 5)] } : Command).late 5 = true ∧ ({ listed with asked := [(0, 5)] } : Command).late 4 = false ∧
    (∀ e ∈ (pbmAs 2 1).cores, ∀ c ∈ e.2.commands, c.late (pbmAs 2 1).clock = false) := by decide +kernel
/-- A hart's load and store of a dword that pages map, four handles held, and handles that name sequences. -/
theorem witness_hart_memory :
    let s := cardRuns (card 0 [0, 0, 0, 0, 0])
    (readAs (hartAgent s 5) 5 0 0x50008 8 false (List.replicate 8 0#8) s).isSome = true ∧
      (writeAs (hartAgent s 5) 5 0 0x50008 (bytesOfWord 8 5#64) false s).isSome = true ∧ (s.engine 5).hart.machine = false ∧
      s.near.turn = some 5 ∧ (runJob s 5).isSome = true := by decide +kernel
theorem witness_handles :
    let s := (cardRuns (card 0 [0, 0, 0, 0, 0])).setNear { (cardRuns (card 0 [0, 0, 0, 0, 0])).near with sequences := [seq0 [] true] }
    let e := { s.engine 5 with hart := { (s.engine 5).hart with handles := [(0, 30), (1, 31), (2, 32), (3, 33)] } }
    ((s.setEngine 5 e).engine 5).hart.handles.length = 4 ∧ (sequenceOf (s.setEngine 5 e) 30).map BankSeq.finished = some true ∧
      (runJob (s.setEngine 5 e) 5).isSome = true := by decide +kernel
/-- Page 0x10000 of context 0 walked over five levels to a PTE that names a page of the capacity tier. -/
def walkState : State :=
  let put (m : MemSys) (a x : Nat) : MemSys := writeSeq MemSys.putThrough m a (natBytes 8 x)
  baseH.setMem (put (put (put (put (put baseH.mem 0x100000 (0x101 * 2 ^ 10 + 1)) 0x101000 (0x102 * 2 ^ 10 + 1))
    0x102000 (0x103 * 2 ^ 10 + 1)) 0x103000 (0x104 * 2 ^ 10 + 1)) 0x104080 (2 ^ 60 + 2 ^ 28 * 2 ^ 10 + 0xCE))
/-- A request that meets it. -/
theorem witness_inbound_parks :
    let s := walkState
    (match meet s (portCore 3) 0 0x10000 8 .load with | .park _ a b => unreadFor s (.port 3) a b == false | _ => false) = true ∧
      s.sys.inbound = [] := by decide +kernel
/-- An inbound write that is performed, and an extent no line of which is in L2. -/
theorem witness_inbound_writes :
    (match engineWrite baseH (.port 3) (portCore 3) 0 0x50000 [1, 2] with | (_, .bytes _ _ _) => true | _ => false) = true ∧
      fabric0.mem.l2 = [] ∧ 0 ∈ fabric0.sys.record.hosts ∧ Map.sorted fabric0.sys.reservations = true ∧
      regSlot baseH.sys (0xF000000002028 / 8 * 8) ≠ none ∧ baseH.sys.target 0xF000000002028 = .system := by decide +kernel
/-- A core that serves a placed team, to be retired; a register whose lanes are all alive and alike. -/
theorem witness_strikes :
    serverOf baseH.sys 0 = some 0 ∧ baseH.sys.phys.get 0 = none ∧ (∃ e ∈ baseH.teams, ∃ c ∈ e.2.cores, c = 0) ∧
      (∀ l, l < 32 → (Crew.holding crew0 ((List.range 32).map fun l => (6, l, 9#32))).isLive 6 l = true) ∧
      (∀ l, l < 32 → (Crew.holding crew0 ((List.range 32).map fun l => (6, l, 9#32))).word 6 l = 9#32) := by decide +kernel
/-- A REP with a reserved bit, a group index beyond the group registers, and a PC whose page is in the capacity tier. -/
theorem witness_refused_bytes :
    granted (State.reset.withFetchWord 32 0x800A1F31) (fun f => match f with
      | .ok bs => (match decode (bs.map Prod.snd) with | .error (.reservedBits (.rep _)) => true | _ => false) | .error _ => false) = true ∧
    granted (State.reset.withFetchWord 32 52432945) (fun f => match f with
      | .ok bs => (match decode (bs.map Prod.snd) with | .error (.groupRange (.gmov _)) => true | _ => false) | .error _ => false) = true ∧
    granted (atPc 0x10000 walkState) (fun f => match f with | .ok _ => false | .error c => c = 0) = true := by decide +kernel
/-- Sleepers at a transfer slot at the end of a clock. -/
theorem witness_receivers :
    let sl : Sleeper := { crew := 0, lanes := 0xFFFFFFFF#32, since := 0, seq := 0, next := 0x200008#57, what := .xrecv 3 8 }
    let s := { (setSlot (met baseH { crew0 with threads := crew0.threads.map fun e => (e.1, { e.2 with wait := .op 9 }) } lane0) 0 0 3
      { state := .filled 1, vals := List.replicate 32 7#32, bad := false, carried := bare }) with sleepers := [(9, sl)], cur := none }
    (nextTurn s matches .receivers _) = true := by decide +kernel

/-- Displacements and indices, element formats, a record of one lane, and products whose operands are exact. -/
theorem witness_formats :
    (255 : Nat) < 256 ∧ ({ l := 0, a := [0x10000#32, 0#32], b := [1#32], c := [], d := [] } : Part1).b ≠ [] ∧
      (∀ fmt ∈ [0, 1, 2, 4, 5, 6, 7, 8, 9], fmt < 10 ∧ fmt ≠ 3 ∧ (List.replicate (formatBytes fmt) (0x80 : Byte)).length = formatBytes fmt) ∧
      (([(0, 0x3F800000#32), (31, 0xFF800000#32)] : List (Nat × Word)).map Prod.fst).Nodup ∧
      (∀ e ∈ ([(0, 0x3F800000#32), (31, 0xFF800000#32)] : List (Nat × Word)), e.1 < 32) ∧
      (tileOf 0).fmt ∈ [9, 10, 11] ∧ 0 < (tileOf 0).rows ∧ 23 < (tileOf 0).klen ∧
      (num32 0x40400000#32 = .fin false ⟨3, 1⟩ ∨ (num32 0x40400000#32).isFin = true) := by decide +kernel

/-! ### Starved crews, records that differ, completion words, tables and tiles -/

/-- Lane 0 is about to wait at convergence register 0 for lane 1, and every other lane waits at register 1 for lane 0. -/
def crossed : Crew :=
  { crew0 with
    threads := crew0.threads.map fun e => (e.1, { e.2 with wait := if e.1 = 0 then .awake else .conv 1 })
    conv := [(0, { members := 3#32, arrived := 0#32 }), (1, { members := 0xFFFFFFFF#32, arrived := 0xFFFFFFFE#32 })] }
theorem witness_starved :
    Ready (.cvwait { s := 0, c := 0 }) (met baseH crossed lane0) lane0 crossed ∧ lane0.handler = false ∧ lane0.lanes = 1#32 ∧
      ((met baseH crossed lane0).context (ctxOf (met baseH crossed lane0) crossed)).hen = true ∧ Map.sorted crossed.conv = true ∧
      (∀ l ∈ crossed.liveLanes, (crossed.thread l).handler = false ∧ (crossed.thread l).live = true) ∧ 1 ∈ crossed.liveLanes ∧
      (crossed.thread 0).wait = .awake ∧ crossed.conv.get 0 = some { members := 3#32, arrived := 0#32 } ∧
      (∀ l ∈ crossed.liveLanes, inMask 1#32 l = false → (crossed.thread l).wait = .conv 1) :=
  ⟨ready_of rfl (by decide +kernel), by decide +kernel⟩
/-- Two lanes whose record addresses differ, one of them odd. -/
def oddApart : Crew := Crew.holding addressed [(4, 1, 0x10101#32), (5, 1, 0#32), (6, 1, 0#32)]
theorem witness_records_own_cause :
    let is := issueOf 3#32
    Ready (st 0x00A) (met baseH oddApart is) is oddApart ∧ OneGroup is oddApart ∧
      (∃ p ∈ parts (st 0x00A) is oddApart, eaOf (st 0x00A).fields false 2 p % 2 ≠ 0) ∧
      (∃ p ∈ parts (st 0x00A) is oddApart, eaOf (st 0x00A).fields false 2 p % 2 = 0) :=
  ⟨ready_of rfl (by decide +kernel), by unfold OneGroup; decide +kernel⟩
/-- The multiples of one half: 3/2 and 5/2, 2 and 3. -/
theorem witness_halves : ∀ x ∈ [(0x3FC00000#32, 3, 2), (0x40200000#32, 5, 2), (0x40000000#32, 2, 1), (0x40400000#32, 3, 1)],
    num32 x.1 = .fin false (Q.of x.2.1 x.2.2) ∧ 2 * (Q.of x.2.1 x.2.2).num % (Q.of x.2.1 x.2.2).den = 0 ∧
      ((Q.of x.2.1 x.2.2).num % (Q.of x.2.1 x.2.2).den = 0 ↔ x.2.2 = 1) := by decide +kernel
/-- R121: 0 at 3/2, and by hand sin(3π/2) = −1 and sin(5π/2) = 1. -/
theorem test_halves : fcospi 0x3FC00000#32 = (0#32, 0) ∧ fsinpi 0x3FC00000#32 = (0xBF800000#32, 0) ∧
    fsinpi 0x40200000#32 = (0x3F800000#32, 0) ∧ fcospi 0x40400000#32 = (0xBF800000#32, 0) := by decide +kernel
/-- R102: the halfword 0x0000 is MOV v0, v0, which raises 0x011 when v0 is dead and STALLCHK.EN is 1. -/
theorem test_zero_halfword :
    (decode [0, 0] matches .ok (.mov16 { vd := 0, vb := 0 }, [])) = true ∧
      (let c := { crew0 with regs := [], stallchk := true }
       match exec (.mov16 { vd := 0, vb := 0 }) (met baseH c lane0) with
       | .next t => (t.crews.get 0).map fun d => ((d.thread 0).handler, w (d.thread 0).h 0)
       | _ => none) = some (true, 0x011#32) := by decide +kernel

/-- A command whose completion word lies in memory, and one whose word no page maps. -/
def worded (token : Option Nat) (a : BitVec 64) : Command := { posted 0 token (.bcopy (.virt 0x10000) (.virt 0x20000) 16) with word := some { addr := a, seq := 0xFFFFFFFFFFFF } }
theorem witness_completion_word : LiesAt memState 0 0 (0x10FF8#64 : BitVec 64).toNat 8 .store (there 0x10FF8) ∧
    windowAt memState 0 ((0x10FF8#64 : BitVec 64).toNat % 2 ^ 57) = none ∧
    meet memState (coreOf 0) 0 (2 ^ 56) 8 .store = .bad 0x042 ∧ (worded (some 3) 0x10FF8).word.isSome = true ∧
    evFull (memState.context 0) = false ∧ (met baseH (tokenCrew .pending) lane0).crews.get 0 = some (tokenCrew .pending) :=
  ⟨lies_of (by decide +kernel), by decide +kernel⟩
/-- R242 by hand: STATUS 0 and the sequence of the top 48 bits. -/
theorem test_completion_word :
    ((publish memState 0 (worded none 0x10FF8) 0x10 0 0 0 false).mem.homeBytes 0x10FF8 8) =
      [0xFF, 0xFF, 0xFF, 0xFF, 0xFF, 0xFF, 0x00, 0x10] := by decide +kernel

/-- A description of a sound level, and one whose level has a resolution of 0. -/
theorem witness_tables : 16 + 16 * (byteAt tableBytes 0 % 16 + 1) ≤ tableBytes.length ∧ hashBad tableBytes = false ∧
    hashBad ((tableBytes.set 16 0).set 17 0) = true ∧ 1 ≤ level0.n ∧ level0.n ≤ 65535 := by decide +kernel
/-- R297 and R298 by hand: at (5/8, 1/2) of a dense level of 4, the cell (2, 2) with rests 1/2 and 0. -/
theorem test_corners : cornersOf { level0 with logT := 5 } 2 [0x3F200000#32, 0x3F000000#32] =
    [(12, 0x3F000000#32), (13, 0x3F000000#32), (17, 0#32), (18, 0#32)] := by decide +kernel
/-- Another crew of the core has issued fewer HGRADs; an HGRAD whose point lies beyond the allocation. -/
def gradTable : HashTable := { table0 with levels := [{ level0 with gv := true }] }
def gradBound : TeamCtx := { bindings with tables := [(1, gradTable)] }
def gradCrew : Crew := { trowelCrew with hgrads := 1 }
def gradState : State :=
  { detState.setTctx 0 0 gradBound with cur := some allLanes, crews := [(0, gradCrew), (1, { trowelCrew with index := 1, hgrads := 0 })] }
theorem witness_gradients_wait :
    Bound gradState allLanes gradCrew 1 gradTable ∧ hgradTurn gradState 0 gradCrew = false ∧
      ReadyAs (.hgrad (hgrad 1)) (hgradForm (hgrad 1) gradTable) gradState allLanes gradCrew ∧
      allLanes.lanes = maskOf gradCrew.liveLanes ∧ gradCrew.regrouped = false ∧ (∀ l ∈ gradTable.levels, l.gv = true) ∧
      ((recordOf gradState gradCrew).map fun r => r.det) = some true :=
  ⟨⟨gradBound, by decide +kernel, by decide⟩, by decide +kernel,
    ⟨rfl, rfl, by decide +kernel, List.isEmpty_iff.1 (by decide +kernel)⟩, by decide +kernel⟩
/-- A point whose registers lie beyond the allocation. -/
theorem witness_gradients_barred :
    let f : F64 := plain64 0 63 8 0 1
    groupBar (.hgrad f) (hgradForm f gradTable) lane0 gradCrew = some 0x004 ∧ OneGroup lane0 gradCrew ∧
      CanEnter { gradState with cur := some lane0 } lane0 gradCrew := by unfold OneGroup CanEnter; decide +kernel
theorem witness_turn : (gradState.teams.get gradCrew.team).isSome = true ∧ (∀ e ∈ gradState.disp.contexts, e.2.saved = []) ∧
    (gradState.core (coreOf 0)).formed = [] ∧ gradCrew.team = 0 := by decide +kernel
/-- One request for tiles that the core can grant, and one it can not. -/
def asking (n : Nat) : State :=
  { millState with
    crews := [(0, { millCrew with threads := millCrew.threads.map fun e => (e.1, if e.1 = 0 then { e.2 with wait := .op 9 } else e.2) })]
    sleepers := [(9, { crew := 0, lanes := 1#32, since := 0, seq := 0, next := 0x200008#57, what := .alloc n 8 })] }
def grantable (n : Nat) : Bool :=
  match recordOf (asking n) millCrew with
  | some r =>
    let core := (asking n).core 0
    decide (n + (core.tiles.filter fun e => e.2 = millCrew.team).length ≤ r.acc.toNat ∧
      n ≤ ((List.range 64).filter fun t => (core.tiles.get t).isNone).length)
  | none => false
theorem witness_asking : (((asking 1).crews.get 0).map fun c => (c.thread 0).wait) = some (.op 9) ∧ inMask 1#32 0 = true ∧
    (recordOf (asking 1) millCrew).isSome = true ∧ grantable 1 = true ∧ grantable 63 = false := by decide +kernel
/-- VUNPIN of a version that is pinned, and VPUB's block before its release. -/
theorem witness_unpinned :
    (∃ p ∈ parts (.vunpin (plain64 0 4 6 0 0)) lane0 (operands 0x10000 1 0), (w p.b 0).toNat % 2 = 1) ∧
      atBlock (blockState 0 1) (unpinnedBlock 1) (fun b => (unpinnedBlock 1 b).isSome) = true ∧
      atBlock (blockState 0 1) (fun b => some (flippedBlock b)) (fun _ => true) = true := by decide +kernel

/-! ### Contexts, escalations, migrations and fences -/

/-- A context with CTXDL = 0; one with no team whose queue has a launch that ends with RESET, its event ring full. -/
def resetLaunch : Launch := { placedLaunch with record := { placedLaunch.record with done := 0x10000, teams := 0 }, done := false }
def resetState : State :=
  let s := ctxAs (fun c => { c with dl := 0, evhead := 16, evtail := 0, evlog := 4 }) { baseH with teams := [], crews := [], launches := [(50, resetLaunch)] }
  s.setQueue 0 { s.queue 0 with en := true, launches := [50] }
theorem witness_reset_at_once :
    baseH.sys.ready = true ∧ (baseH.context 0).dl = 0#32 ∧ (∃ e ∈ baseH.teams, e.2.ctx = 0) ∧ Map.sorted baseH.teams = true ∧
      (∃ q, q < 64 ∧ (baseH.queue q).ctx.toNat = 0) := by
  refine ⟨by decide +kernel, by decide +kernel, by decide +kernel, by decide +kernel, 0, by decide, by decide +kernel⟩
theorem witness_reset_word :
    resetState.sys.ready = true ∧ (resetState.context 0).dl = 0#32 ∧ resetState.teams = [] ∧ resetState.near.engines = [] ∧
      evFull (resetState.context 0) = true ∧ (resetState.queue 0).ctx.toNat = 0 ∧ (resetState.queue 0).launches = [50] ∧
      resetState.launches.get 50 = some resetLaunch ∧ resetLaunch.ctx = 0 ∧ resetLaunch.record.done.toNat % 8 = 0 ∧
      engineMeet resetState 256 0 (canonical resetLaunch.record.done) 8 = .ok [(there 0x10000, 8)] ∧
      resetState.sys.target 0x10000 = .hbm ∧ goodMem resetState.mem = true ∧ Map.sorted resetState.disp.queues = true ∧
      (resetState.disp.queues.all fun e => e.1 == 0 || e.2.launches.isEmpty) = true := by decide +kernel
/-- No escalation of index 4, and 64 resumes held for a saved team's. -/
theorem witness_ignored_resume :
    let held : HeldResume := { index := 5, kill := false, val := 0 }
    let s := ctxAs (fun c => { c with held := List.replicate 64 held, savedSleepers := [(9, { crew := 0, lanes := 1#32, since := 0, seq := 0, next := 0, what := .escalated 4 false })] }) baseH
    s.sleepers = [] ∧ (s.context 0).held.length = 64 ∧ s.sys.ready = true ∧ (baseH.context 0).savedSleepers = [] ∧ baseH.sleepers = [] := by decide +kernel
/-- The ring of the escalation's entry lies in HBM; a stack that retrains, with a sequence of its own and of another. -/
theorem witness_entry_place :
    let cx := ((ctxAs (fun c => { c with waiting := [9] }) (escalated false)).context 0)
    (escalated false).sys.target (cx.evbase.toNat / 4096 * 4096 + 32 * (cx.evhead.toNat % 2 ^ 4)) ≠ .fabric := by decide +kernel
def retrainState : State :=
  baseH.setNear { baseH.near with
    retrain := [(1, 2)]
    sequences := [seq0 [{ run0 with retrained := true }] false, { seq0 [{ run0 with retrained := true }] false with number := 31, stack := 2 }] }
theorem witness_retrain_done : retrainState.near.retrain = [(1, 2)] ∧ (retrainState.near.sequences.map BankSeq.stack) = [1, 2] ∧
    (retrainState.near.sequences.all fun q => q.banks.all BankRun.retrained) = true := by decide +kernel

/-- A lane whose HRET waits for the page; a page whose contents are poisoned; a PTE that has changed. -/
def resumingState : State :=
  { migrating0 none 15 with
    crews := [(0, lane0As fun t => { t with handler := true, wait := .resuming 0x10000 0x5000, h := List.replicate 16 0x00050042#32 })] }
def poisonedPage : State := (migrating0 none 15).setMem ((migrating0 none 15).mem.poisonSet (2 ^ 40 / 16 + 3))
def changedPte : State := (migrating0 none 15).setMem (writeSeq MemSys.putThrough (migrating0 none 15).mem 0x10000 (natBytes 8 0))
/-- A 64 KiB group and its frame. -/
def bigMigration : Migration :=
  { migration none with pte := 0x10000, old := BitVec.ofNat 64 (2 ^ 63 + 2 ^ 60 + (2 ^ 28 + 8) * 2 ^ 10 + 0xCE), big := true, frame := some 0x70000 }
def bigState (waiting : Nat) : State :=
  let s := migrating0 none waiting
  let s := s.setMem (writeSeq MemSys.putThrough s.mem 0x10000 ((List.range 16).flatMap fun _ => bytesOfWord 8 bigMigration.old))
  s.setFaultUnit 0 { s.faultUnit 0 with migrations := [bigMigration] }
theorem witness_resuming :
    ((resumingState.faultUnit 0).migrations.take 1024).find? (fun m => m.pte = 0x10000 && m.done.isNone) = some (migration none) ∧
      (resumingState.crews.get 0).map (fun c => ((c.thread 0).wait, (c.thread 0).handler, c.held)) =
        some (.resuming 0x10000 0x5000, true, []) ∧ faultDie resumingState (coreOf 0) = 0 ∧ Map.sorted resumingState.crews = true ∧
      resumingState.disp.queues = [] ∧ ((resumingState.crews.get 0).map fun c => decide (0 ∈ c.liveLanes)) = some true := by decide +kernel
theorem witness_done_room : DoneRoom (migrating0 none 15) 0 ∧ ¬ DoneRoom (migrating0 none 16) 0 ∧ DoneRoom (migrating0 (some 0) 15) 0 := by
  unfold DoneRoom; decide +kernel
theorem witness_framed : OthersFramed (migrating0 none 15) 0 ∧ OthersFramed (migrating0 (some 0) 15) 0 ∧ OthersFramed (bigState 16) 0 := by
  unfold OthersFramed; decide +kernel
theorem witness_done_statuses :
    (wordOfBytes 8 ((migrating0 none 15).mem.homeBytes 0x10000 8)).toNat = (migration none).old.toNat ∧
      (migrating0 none 15).mem.poison = [] ∧ (wordOfBytes 8 (poisonedPage.mem.homeBytes 0x10000 8)).toNat = (migration none).old.toNat ∧
      (∃ g ∈ poisonedPage.mem.poison.keys, oldFrame (migration none) ≤ 16 * g ∧ 16 * g < oldFrame (migration none) + frameSize (migration none)) ∧
      (wordOfBytes 8 (changedPte.mem.homeBytes 0x10000 8)).toNat ≠ (migration none).old.toNat ∧ goodMem poisonedPage.mem = true ∧
      goodMem changedPte.mem = true := by decide +kernel
theorem witness_big_group :
    readable (bigState 16) bigMigration = true ∧ goodMem (bigState 16).mem = true ∧
      (∀ a ∈ ptesOf bigMigration, (bigState 16).sys.spoiled.get a = none) ∧
      (∀ x ∈ ((bigState 16).faultUnit 0).migrations, x.pte = 0x10000 → x = bigMigration) ∧
      (wordOfBytes 8 ((bigState 16).mem.homeBytes 0x10000 8)).toNat = bigMigration.old.toNat ∧ (0x70000 : Nat) < 2 ^ 52 ∧
      (∀ p ∈ ptesOf bigMigration, p + 8 ≤ 0x70000) := by decide +kernel
theorem witness_done_units : (∀ x ∈ ((migrating0 (some 0) 15).faultUnit 0).migrations, x.pte = (migration (some 0)).pte → x = migration (some 0)) ∧
    goodMem (migrating0 (some 0) 15).mem = true := by decide +kernel
def notedPlan : PoolPlan := (notePlan poolMem 0 0 pool0 plan0).2
def noted : Command := { listed with plan := some notedPlan }
/-- No access waits: nothing runs, or the rows have been fetched. -/
theorem witness_no_use : NoUseWaits baseH (fun _ => True) ∧ NoUseWaits (pooling noted) (fun _ => True)  ∧ notedPlan.used.isEmpty = false := by
  have h0 : baseH.near.sequences = [] ∧ (pooling noted).near.sequences = [] := by decide +kernel
  refine ⟨⟨?_, fun q hq => by rw [h0.1] at hq; cases hq⟩, ⟨?_, fun q hq => by rw [h0.2] at hq; cases hq⟩, by decide +kernel⟩
  · intro e he c hc _ q hq u hu _
    have h : (baseH.cores.all fun e => e.2.commands.isEmpty) = true := by decide +kernel
    have := List.all_eq_true.1 h e he
    rw [List.isEmpty_iff.1 this] at hc; cases hc
  · intro e he c hc _ q hq u hu _
    have h : ((pooling noted).cores.all fun e => e.2.commands.all fun c =>
        match c.plan with | some q => q.used.all fun u => c.listed.contains (q.chip u.1) | none => true) = true := by decide +kernel
    have := List.all_eq_true.1 (List.all_eq_true.1 h e he) c hc
    rw [hq] at this
    simpa using List.all_eq_true.1 this u hu

/-! ### Bags, ports, harts, storage and health -/

/-- Weighted bags of rows in FP32, BF16 and M8. -/
def bagRows (n : Nat) : Map PoolRow := [(0, row0 n), (1, { row0 n with poison := true })]
def bagDesc (fmt : Nat) : PoolDesc := { pool0 with fmt, rowlen := 32, weighted := true }
def bagPlan : PoolPlan := { plan0 with idx := [1, 0, 1], offs := [0, 3], wts := [0x3F800000#32, 0x40000000#32, 0x3F800000#32] }
theorem witness_bags : ∀ fmt ∈ [8, 9, 10],
    (bagDesc fmt).fmt = fmt ∧ nth bagPlan.offs (0 + 1) ≤ 65536 ∧ bagPlan.positions 0 = [1, 0, 2] ∧
      (∀ q ∈ bagPlan.positions 0, ((bagRows 128).get (nth bagPlan.idx q)).isSome = true) ∧
      (foldBag (bagDesc fmt) bagPlan (bagRows 128) 0).2 = true := by decide +kernel
/-- Where the first bag of the table's result goes. -/
theorem witness_bag_place : LiesAt poolMem 0 0 (canonicalOf (pool0.out.toNat + 4 * pool0.rowlen * 0)) (4 * pool0.rowlen) .store (there 0x50200) ∧
    windowAt poolMem 0 (canonicalOf (pool0.out.toNat + 4 * pool0.rowlen * 0) % 2 ^ 57) = none ∧ goodMem poolMem.mem = true :=
  ⟨by rw [show canonicalOf (pool0.out.toNat + 4 * pool0.rowlen * 0) = 0x50200 by decide +kernel]; exact lies_of (by decide +kernel), by decide +kernel⟩

/-- A port whose controls are set; port 3 of the partition, and the windows of port 3 and of another port of it. -/
def portsState (dpc : Nat) (contained : Bool) (redirect egress forward : Bool) : State :=
  let rec3 := { baseH.sys.record with ports := [(2, 0), (3, 0)], harts := [7] }
  baseH.setSys { baseH.sys with
    record := rec3
    rootPorts := [(3, { controls := { validate := true, redirect, completions := false, forward, egress, barred := [2], dpc }, contained })] }
def request (addr : Nat) (translated valid : Bool) : InboundRequest :=
  { valid, port := 3, pasid := some 0, translated, addr, write := none, count := 16 }
theorem witness_arrives : Arrives (portsState 0 false true false true) (request 0x50000 true true) :=
  ⟨by decide +kernel, by decide +kernel, by decide +kernel, rfl⟩
theorem witness_passes : PassesTo (portsState 0 false true false true) 3 [(there 0x50000, 16)] := by
  intro m hm p hp
  simp only [List.mem_singleton] at hm
  rw [hm, show (portsState 0 false true false true).sys.target (there 0x50000).pa = .hbm by decide +kernel] at hp; cases hp
/-- A contained port, one whose request fails validation, with DPC for every error and for none, an MSI to file 8, and peer
requests to window 2, barred and not, and to the port's own. -/
theorem witness_ports :
    portCtx (portsState 2 true false false false) 3 (some 0) = some 0 ∧ (portsState 2 true false false false).sys.contained 3 = true ∧
      (portsState 2 false false false false).sys.contained 3 = false ∧ ((portsState 2 false false false false).sys.rootPort 3).controls.validate = true ∧
      (request 0x50000 true false).valid = false ∧ 7 ∈ (portsState 2 false false false false).sys.record.harts ∧
      (portsState 0 false false true false).sys.target (0xF100000000000 + 2 * 2 ^ 44) = .window 2 ∧
      (portsState 0 false false true false).sys.target (0xF100000000000 + 3 * 2 ^ 44) = .window 3 ∧
      ((portsState 0 false false true false).sys.rootPort 3).controls.barred = [2] ∧
      (portsState 0 false true true false).sys.contained 2 = false := by decide +kernel
/-- A hart's accesses: controls and release of a port, configuration space of the partition's port and of another, all bytes
of an aligned dword of HBM. -/
theorem witness_hart_reach :
    let s := portsState 0 true false false false
    s.sys.ready = true ∧ (∃ p ∈ s.sys.record.ports, p.1 = 3) ∧ s.sys.target (0xF000010000000 + 3 * 2 ^ 28) = .system ∧
      regSlot s.sys ((0xF000010000000 + 3 * 2 ^ 28) / 8 * 8) = none ∧ s.sys.target (0xF000010000000 + 2 ^ 28) = .system ∧
      regSlot s.sys ((0xF000010000000 + 2 ^ 28) / 8 * 8) = none ∧ (∀ p ∈ s.sys.record.ports, p.1 ≠ 1) ∧
      (∀ k, k < 8 → s.sys.target (0x50000 + k) = .hbm ∧ s.mem.isRevoked (0x50000 + k) = false) ∧
      s.mem.poisonIn 0x50000 8 = false ∧ goodMem s.mem = true := by decide +kernel

/-- What errors of storage strike. -/
def strickenState : State :=
  (baseH.setMem { baseH.mem with l1 := [(0x50000, 5)] }).setTctx 0 0 bindings
theorem witness_storage :
    (baseH.crews.get 0).isSome = true ∧ (baseH.context 0).hen = true ∧
      (∀ l ∈ crew0.liveLanes, (crew0.thread l).handler = false ∧ (crew0.thread l).wait = .awake) ∧ baseH.crews.get 0 = some crew0 ∧
      (strickenState.tctxs.get (tctxKey 0 0)).isSome = true ∧ (baseH.teams.get 0).isSome = true ∧
      (strickenState.mem.l1.get (2 ^ 52 * 0 + 0x50000)).isSome = true ∧ goodMem strickenState.mem = true ∧ baseH.mem.l1 = [] ∧
      goodMem baseH.mem = true := by decide +kernel
def oneReturn : Crew := lane0As fun t => { t with stack := [{ addr := 0x200004#57, poison := false }] }
theorem witness_stacked : (met baseH oneReturn lane0).crews.get 0 = some oneReturn ∧
    ((oneReturn.threads.get 0).map fun th => th.stack.length) = some 1 := by decide +kernel
theorem witness_health : baseH.sys.cecnt.length = 4 ∧ slicesLeft baseH.sys 3 ≠ 0 ∧ 15 < baseH.sys.stacks ∧
    ((baseH.sys.hbmSpares.get 15).getD 1 ≠ 0) ∧ ((baseH.sys.phys.get 33).map PhysCore.retired).getD false = false ∧
    8 < aliveIn baseH.sys 1 := by decide +kernel

/-- A root leaf that a hart may read and write, an access through it and through a guest stage whose root holds the same leaf
for users, and one that no table maps; an IMSIC file with three identities pending, two of them enabled. -/
def hartTables : State :=
  let s := portsState 0 true false false false
  s.setMem { s.mem with ram := [(0x50000, 0xC7#8), (0x54000, 0xD7#8)] }
def sv57 (guest : Option Nat) : HartWalk := { levels := 5, first := some 0x50, guest, sum := false, mxr := false, guestMxr := false }
def hartTo (op : HartOp) : HartAccess := { hart := 7, supervisor := true, op, pa := 0x1238, width := 8 }
theorem test_hart_walk :
    hartPlace hartTables (sv57 none) true true true 0x1238 = some 0x1238 ∧
      hartPlace hartTables (sv57 none) false true false 0x1238 = none ∧
      hartPlace hartTables (sv57 (some 0x54)) true true false 0x1238 = some 0x1238 ∧
      hartPlace hartTables (sv57 none) true true false (2 ^ 48) = none ∧
      hartPlace hartTables (sv57 none) true true false (2 ^ 56) = none := by decide +kernel
theorem witness_hart_walk :
    hartTables.sys.ready = true ∧ 7 ∈ hartTables.sys.record.harts ∧ hartAccesses .lr = true ∧ (hartTo .lr).pa / 4096 = (0x1238 + 8 - 1) / 4096 ∧
      hartTables.sys.target 0x50000 = .hbm ∧ hartTables.mem.isRevoked 0x50000 = false ∧ hartTables.mem.poisonIn 0x50000 8 = false ∧
      (let pte : BitVec 64 := BitVec.ofNat 64 (bytesNat (hartTables.mem.homeBytes 0x50000 8))
       pteBit pte 0 = true ∧ pteBit pte 1 = true ∧ pteBit pte 2 = true ∧ pteBit pte 6 = true ∧ pteBit pte 7 = true ∧
         pteBit pte 61 = false ∧ pteBit pte 63 = false ∧ ptePpn pte % 2 ^ 36 = 0) ∧
      hartTables.sys.target 0x50008 = .hbm ∧ pteBit (BitVec.ofNat 64 (bytesNat (hartTables.mem.homeBytes 0x50008 8))) 0 = false := by decide +kernel
def imsicState : State :=
  let s := portsState 0 true false false false
  s.setSys { s.sys with imsic := [(16 * 7 + 1, { pending := [(3, ()), (5, ()), (9, ())], enabled := [(5, ()), (9, ())], threshold := 6, deliver := true })] }
theorem witness_imsic :
    let x := imsicState.imsicFile 7 1
    imsicState.sys.ready = true ∧ 7 ∈ imsicState.sys.record.harts ∧ Map.sorted x.pending = true ∧ Map.sorted x.enabled = true ∧
      (x.pending.get 5).isSome = true ∧ (x.enabled.get 5).isSome = true ∧ 5 < x.threshold ∧
      (∀ j, j < 5 → ¬ ((x.pending.get j).isSome = true ∧ (x.enabled.get j).isSome = true)) ∧ x.top = 5 ∧
      (imsicState.imsicFile 7 2).pending = [] ∧ (x.setReg 0xC0 0x28).reg 0xC0 = some 0x28 := by decide +kernel

end Sys2Proof.Slice0Tests
end

namespace Sys2Proof.Machine

/-! ## Tables: entries kept, mapped and set one after another -/

section
variable {α β : Type}

theorem Map.mem_of_get {m : Map α} {n : Nat} {a : α} (h : m.get n = some a) : (n, a) ∈ m := by
  induction m with
  | nil => cases h
  | cons e rest ih =>
    obtain ⟨k, v⟩ := e
    by_cases hk : k = n
    · simp only [Map.get, hk, if_true, Option.some.injEq] at h
      simp [hk, h]
    · simp only [Map.get, hk, if_false] at h
      exact List.mem_cons_of_mem _ (ih h)

/-- In a canonical table every entry is the one its key reads. -/
theorem Map.get_of_mem {m : Map α} (hs : m.sorted = true) {n : Nat} {a : α} (h : (n, a) ∈ m) : m.get n = some a := by
  induction m with
  | nil => cases h
  | cons e rest ih =>
    obtain ⟨k, v⟩ := e
    rcases List.mem_cons.1 h with h | h
    · cases h; simp [Map.get]
    · have hlt := Map.head_lt hs _ h
      simp [Map.get, Nat.ne_of_lt hlt, ih (Map.sorted_tail hs) h]

/-- Keeping the entries of some keys. -/
theorem Map.get_filter_key (m : Map α) (p : Nat → Bool) (n : Nat) :
    Map.get (m.filter fun e => p e.1) n = if p n then m.get n else none := by
  induction m with
  | nil => simp [Map.get]
  | cons e rest ih =>
    obtain ⟨k, v⟩ := e
    by_cases hp : p k <;> by_cases hk : k = n <;> simp_all [Map.get]

/-- Changing every entry, its key kept. -/
theorem Map.get_map (m : Map α) (f : Nat → α → β) (n : Nat) :
    Map.get (m.map fun e => (e.1, f e.1 e.2)) n = (m.get n).map (f n) := by
  induction m with
  | nil => rfl
  | cons e rest ih =>
    obtain ⟨k, v⟩ := e
    by_cases hk : k = n
    · simp [Map.get, hk]
    · simpa [Map.get, hk] using ih

/-- Setting entries leaves a key alone that is none of theirs. -/
theorem Map.get_foldl_set_ne (es : List β) (key : β → Nat) (val : β → α) (m : Map α) {n : Nat} (h : ∀ e ∈ es, key e ≠ n) :
    Map.get (es.foldl (fun (m : Map α) e => m.set (key e) (val e)) m) n = m.get n := by
  induction es generalizing m with
  | nil => rfl
  | cons e rest ih =>
    rw [List.foldl_cons, ih _ fun x hx => h x (List.mem_cons_of_mem _ hx), Map.get_set_ne _ _ (h e (by simp)).symm]

/-- A key that some entry sets, and that no entry sets to another value, reads that value. -/
theorem Map.get_foldl_set (es : List β) (key : β → Nat) (val : β → α) (m : Map α) {n : Nat} {a : α}
    (h : ∃ e ∈ es, key e = n) (ha : ∀ e ∈ es, key e = n → val e = a) :
    Map.get (es.foldl (fun (m : Map α) e => m.set (key e) (val e)) m) n = some a := by
  induction es generalizing m with
  | nil => obtain ⟨e, he, _⟩ := h; cases he
  | cons x rest ih =>
    rw [List.foldl_cons]
    by_cases hr : ∃ e ∈ rest, key e = n
    · exact ih _ hr fun e he => ha e (List.mem_cons_of_mem _ he)
    · have hx : key x = n := by
        obtain ⟨e, he, hk⟩ := h
        rcases List.mem_cons.1 he with rfl | he
        · exact hk
        · exact absurd ⟨e, he, hk⟩ hr
      rw [Map.get_foldl_set_ne _ _ _ _ fun e he hk => hr ⟨e, he, hk⟩, ← hx, Map.get_set_self, ha x (by simp) hx]

theorem mem_dedup [DecidableEq α] (seen xs : List α) (x : α) : x ∈ dedup seen xs ↔ x ∈ xs ∧ x ∉ seen := by
  induction xs generalizing seen with
  | nil => simp [dedup]
  | cons y rest ih =>
    unfold dedup
    split
    · next hy => rw [ih]; constructor
                 · exact fun h => ⟨List.mem_cons_of_mem _ h.1, h.2⟩
                 · rintro ⟨h, hs⟩
                   rcases List.mem_cons.1 h with rfl | h
                   · exact absurd hy hs
                   · exact ⟨h, hs⟩
    · next hy =>
      rw [List.mem_cons, ih, List.mem_cons, List.mem_cons]
      by_cases hx : x = y
      · subst hx; simp [hy]
      · simp [hx]

/-- A step that keeps a value keeps it however often it is taken. -/
theorem foldl_keeps {σ ι τ : Type} (g : σ → τ) {f : σ → ι → σ} (h : ∀ s i, g (f s i) = g s) (is : List ι) (s : σ) :
    g (is.foldl f s) = g s := by
  induction is generalizing s with
  | nil => rfl
  | cons i rest ih => rw [List.foldl_cons, ih, h]

end

/-! ## Bytes written one after another -/

theorem Memory.read_foldl_write_ne {β : Type} (es : List β) (key : β → Nat) (val : β → Byte) (m : Memory) {a : Nat}
    (h : ∀ e ∈ es, key e ≠ a) : Memory.read (es.foldl (fun r e => Memory.write r (key e) (val e)) m) a = m.read a := by
  induction es generalizing m with
  | nil => rfl
  | cons e rest ih =>
    rw [List.foldl_cons, ih _ fun x hx => h x (List.mem_cons_of_mem _ hx), Memory.read_write_ne _ _ (h e (by simp)).symm]

/-- An address that some write names, and that no write gives another byte, reads that byte. -/
theorem Memory.read_foldl_write {β : Type} (es : List β) (key : β → Nat) (val : β → Byte) (m : Memory) (hm : m.wf = true)
    {a : Nat} {b : Byte} (h : ∃ e ∈ es, key e = a) (hb : ∀ e ∈ es, key e = a → val e = b) :
    Memory.read (es.foldl (fun r e => Memory.write r (key e) (val e)) m) a = b := by
  induction es generalizing m with
  | nil => obtain ⟨e, he, _⟩ := h; cases he
  | cons x rest ih =>
    rw [List.foldl_cons]
    by_cases hr : ∃ e ∈ rest, key e = a
    · exact ih _ (Memory.wf_write _ _ _ hm) hr fun e he => hb e (List.mem_cons_of_mem _ he)
    · have hx : key x = a := by
        obtain ⟨e, he, hk⟩ := h
        rcases List.mem_cons.1 he with rfl | he
        · exact hk
        · exact absurd ⟨e, he, hk⟩ hr
      rw [Memory.read_foldl_write_ne _ _ _ _ fun e he hk => hr ⟨e, he, hk⟩, ← hx, Memory.read_write_self _ _ _ hm,
        hb x (by simp) hx]

end Sys2Proof.Machine

namespace Sys2Proof.Machine

/-! ## Threads that wake -/

section
variable (c c' : Crew)

@[simp] theorem retable_thread (l : Nat) : (retable c c').thread l = c'.thread l := rfl

end

theorem mem_liveLanes (c : Crew) (l : Nat) : l ∈ c.liveLanes ↔ l < 32 ∧ (c.thread l).live = true := by
  simp [Crew.liveLanes]

theorem liveLanes_nodup (c : Crew) : c.liveLanes.Nodup := List.nodup_range.filter _

/-- The count of a thread's SLEEP has run out (17 R215). -/
def sleepOver (s : State) (t : Thread) : Bool :=
  match t.wait with
  | .sleep till => till ≤ s.clock
  | _ => false

theorem live_of_sleepOver {s : State} {t : Thread} (h : sleepOver s t = true) : t.live = true := by
  unfold Thread.live
  cases hw : t.wait <;> simp_all [sleepOver]

/-- SLEEP_EXPIRE is about the first crew with a SLEEP that is over, and wakes every such thread of it. -/
theorem execSleepExpire_of_find {s : State} {k : Nat} {c : Crew}
    (h : s.crews.find? (fun e => e.2.liveLanes.any fun l => sleepOver s (e.2.thread l)) = some (k, c)) :
    execSleepExpire s =
      .next (wakeLanes s k (c.liveLanes.filter fun l => sleepOver s (c.thread l)) fun _ t => t.pc + 4) := by
  have e : execSleepExpire s =
      match s.crews.find? (fun e => e.2.liveLanes.any fun l => sleepOver s (e.2.thread l)) with
      | some (k, c) => .next (wakeLanes s k (c.liveLanes.filter fun l => sleepOver s (c.thread l)) fun _ t => t.pc + 4)
      | none => .refused (.notEnabled "SLEEP_EXPIRE") := rfl
  rw [e, h]

/-- What SLEEP_EXPIRE leaves: the threads whose SLEEP is over stand awake past it, and nothing else moves. -/
theorem sleepExpire_wakes {s : State} {k : Nat} {c : Crew}
    (h : s.crews.find? (fun e => e.2.liveLanes.any fun l => sleepOver s (e.2.thread l)) = some (k, c))
    (hs : Map.sorted s.crews = true) :
    ∃ t d, execSleepExpire s = .next t ∧ t.crews.get k = some d ∧ t.mem = s.mem ∧ Claim.OthersKept k s t ∧
      ∀ l, l < 32 → d.thread l =
        if sleepOver s (c.thread l) then { c.thread l with wait := .awake, pc := (c.thread l).pc + 4#57 } else c.thread l := by
  have hk : s.crews.get k = some c := Map.get_of_mem hs (List.mem_of_find?_eq_some h)
  refine ⟨_, _, execSleepExpire_of_find h, by simp only [wakeLanes, hk]; exact Map.get_set_self .., by simp [wakeLanes, hk],
    fun j hj => by simp only [wakeLanes, hk]; exact Map.get_set_ne _ _ hj, fun l hl => ?_⟩
  rw [retable_thread, Crew.thread_mapThreads _ _ ((liveLanes_nodup c).filter _)]
  simp only [List.mem_filter, mem_liveLanes]
  by_cases ho : sleepOver s (c.thread l) = true
  · simp [ho, hl, live_of_sleepOver ho]
  · simp [ho]

/-! ## Sleepers that wake, and the words they post -/

/-- A sleeper is over: it is gone, its threads of the crew stand awake past its instruction, the other threads of the crew, and
what the crew has acquired, are as they were. -/
structure Woken (s t : State) (id : Nat) (sl : Sleeper) (c d : Crew) : Prop where
  crew : t.crews.get sl.crew = some d
  gone : t.sleepers.get id = none
  mem : t.mem = s.mem
  acquired : d.acquired = c.acquired
  know : d.know = c.know
  threads : ∀ l, l < 32 → d.thread l =
    if inMask sl.lanes l ∧ (c.thread l).wait = .op id then { c.thread l with wait := .awake, pc := sl.next, rep := 0 }
    else c.thread l

theorem mem_sleeperLanes {s : State} {id : Nat} {sl : Sleeper} {c : Crew} (hc : s.crews.get sl.crew = some c) (l : Nat) :
    l ∈ sleeperLanes s id sl ↔ l < 32 ∧ inMask sl.lanes l = true ∧ (c.thread l).wait = .op id := by
  simp [sleeperLanes, hc, mem_lanesOf, and_assoc]

theorem sleeperLanes_nodup (s : State) (id : Nat) (sl : Sleeper) : (sleeperLanes s id sl).Nodup := by
  unfold sleeperLanes
  split
  · exact (lanesOf_nodup _).filter _
  · exact List.nodup_nil

theorem wakeSleeper_wakes {s : State} {id : Nat} {sl : Sleeper} {c : Crew} (hsl : s.sleepers.get id = some sl)
    (hc : s.crews.get sl.crew = some c) (hs : Map.sorted s.sleepers = true) :
    ∃ d, Woken s (wakeSleeper s id) id sl c d ∧ d.pend = c.pend := by
  obtain ⟨hrest, -, hpend, -, -⟩ := Crew.mapThreads_rest (sleeperLanes s id sl)
    (fun _ t => { t with wait := .awake, pc := sl.next, rep := 0 }) c
  have he : wakeSleeper s id = (s.setSleepers (s.sleepers.erase id)).setCrew sl.crew
      (retable c (c.mapThreads (sleeperLanes s id sl) fun _ t => { t with wait := .awake, pc := sl.next, rep := 0 })) := by
    simp [wakeSleeper, hsl, hc]
  refine ⟨retable c (c.mapThreads (sleeperLanes s id sl) fun _ t => { t with wait := .awake, pc := sl.next, rep := 0 }),
    ⟨?_, ?_, ?_, hrest.acquired.symm, hrest.know.symm, fun l hl => ?_⟩, hpend⟩
  · rw [he]; exact Map.get_set_self ..
  · rw [he]; exact Map.get_erase_self _ _ hs
  · rw [he]; rfl
  · rw [retable_thread, Crew.thread_mapThreads _ _ (sleeperLanes_nodup ..)]
    simp only [mem_sleeperLanes hc, hl, true_and]

/-- The words of a posted result, by 32 × register + lane. -/
def boardWrites (dst : Nat) (ws : List (Nat × List Word)) : Map Word :=
  ws.foldl (fun m (l, vs) => (List.range vs.length).foldl (fun m k => m.set (32 * (dst + k) + l) (vs.getD k 0#32)) m) []

theorem postBoard_eq (s : State) (key seq dst run : Nat) (ws : List (Nat × List Word)) (memory : Bool) :
    postBoard s key seq dst run ws memory = s.setCrews (s.crews.modify key fun c =>
      { c with pend := c.pend ++ [{ seq, due := none, board := true, memory, lines := [], dst, run
                                    lanes := maskOf (ws.map Prod.fst), writes := boardWrites dst ws, greg := none, flags := 0 }] }) :=
  rfl

/-- Each lane's words stand in consecutive registers from the destination. -/
theorem boardWrites_get (dst : Nat) (ls : List Nat) (f : Nat → List Word) (hls : ∀ l ∈ ls, l < 32) {l k : Nat} (hl : l ∈ ls)
    (hk : k < (f l).length) :
    (boardWrites dst (ls.map fun l => (l, f l))).get (32 * (dst + k) + l) = some ((f l).getD k 0#32) := by
  have he : boardWrites dst (ls.map fun l => (l, f l)) =
      (ls.flatMap fun l => (List.range (f l).length).map fun k => (32 * (dst + k) + l, (f l).getD k 0#32)).foldl
        (fun (m : Map Word) e => m.set e.1 e.2) [] := by
    simp only [boardWrites, List.foldl_map, List.foldl_flatMap]
  rw [he]
  refine Map.get_foldl_set _ _ _ _ ⟨(32 * (dst + k) + l, (f l).getD k 0#32), ?_, rfl⟩ fun e hmem hkey => ?_
  · simp only [List.mem_flatMap, List.mem_map, List.mem_range]
    exact ⟨l, hl, k, hk, rfl⟩
  · simp only [List.mem_flatMap, List.mem_map, List.mem_range] at hmem
    obtain ⟨j, hj, i, hi, rfl⟩ := hmem
    have h1 := hls j hj
    have h2 := hls l hl
    obtain ⟨rfl, rfl⟩ : j = l ∧ i = k := by simp only at hkey; omega
    rfl

/-- A sleeper that completes with words posts them for its threads, under its own issue number, and wakes them. -/
theorem finishSleeper_wakes {s : State} {id : Nat} {sl : Sleeper} {c : Crew} (hsl : s.sleepers.get id = some sl)
    (hc : s.crews.get sl.crew = some c) (hs : Map.sorted s.sleepers = true) (dst : Nat) (ws : Nat → List Word) (run : Nat) :
    ∃ d r, Woken s (finishSleeper s id dst ws run) id sl c d ∧ d.pend = c.pend ++ [r] ∧ r.seq = sl.seq ∧
      ∀ l k, l < 32 → inMask sl.lanes l = true → (c.thread l).wait = .op id → k < (ws l).length →
        r.writes.get (32 * (dst + k) + l) = some ((ws l).getD k 0#32) := by
  have he : finishSleeper s id dst ws run =
      wakeSleeper (postBoard s sl.crew sl.seq dst run ((sleeperLanes s id sl).map fun l => (l, ws l))) id := by
    simp [finishSleeper, hsl]
  obtain ⟨d, hw, hp⟩ := wakeSleeper_wakes
    (s := postBoard s sl.crew sl.seq dst run ((sleeperLanes s id sl).map fun l => (l, ws l)))
    (id := id) (sl := sl) hsl (by rw [postBoard_eq, State.setCrews_crews, Map.get_modify, if_pos rfl, hc]; rfl) hs
  refine ⟨d, _, ?_, hp, rfl, fun l k hl hm hw hk => ?_⟩
  · rw [he]; exact ⟨hw.crew, hw.gone, hw.mem, hw.acquired, hw.know, hw.threads⟩
  · exact boardWrites_get _ _ _ (fun j hj => ((mem_sleeperLanes hc j).1 hj).1) ((mem_sleeperLanes hc l).2 ⟨hl, hm, hw⟩) hk

end Sys2Proof.Machine

namespace Sys2Proof.Machine

/-! ## Little-endian bytes -/

theorem bytesNat_append (as bs : List Byte) : bytesNat (as ++ bs) = bytesNat as + 256 ^ as.length * bytesNat bs := by
  induction as with
  | nil => simp [bytesNat]
  | cons a as ih => 
    simp only [List.cons_append, bytesNat, ih, List.length_cons, Nat.pow_succ]
    rw [Nat.mul_add, Nat.mul_left_comm, Nat.mul_assoc, Nat.add_assoc]

theorem bytesNat_lt (bs : List Byte) : bytesNat bs < 256 ^ bs.length := by
  induction bs with
  | nil => simp [bytesNat]
  | cons b bs ih =>
    have := b.isLt
    simp only [bytesNat, List.length_cons, Nat.pow_succ]
    omega

theorem bytesNat_testBit (bs : List Byte) (i : Nat) : (bytesNat bs).testBit i = (bs.getD (i / 8) 0).getLsbD (i % 8) := by
  induction bs generalizing i with
  | nil => simp [bytesNat]
  | cons b bs ih =>
    have he : bytesNat (b :: bs) = 2 ^ 8 * bytesNat bs + b.toNat := by simp only [bytesNat]; omega
    rw [he, Nat.testBit_two_pow_mul_add _ b.isLt]
    split
    · next h => rw [Nat.div_eq_of_lt h, Nat.mod_eq_of_lt h]; rfl
    · next h =>
      obtain ⟨j, rfl⟩ : ∃ j, i = j + 8 := ⟨i - 8, by omega⟩
      rw [Nat.add_sub_cancel, ih, Nat.add_div_right _ (by decide), Nat.add_mod_right]
      rfl

/-- The two ways of reading bytes as a word agree. -/
theorem wordOfBytes_eq (bs : List Byte) : Claim.wordOfBytes bs.length bs = BitVec.ofNat (8 * bs.length) (bytesNat bs) := by
  have hbits : ∀ m, m ≤ bs.length → ∀ i, i < 8 * bs.length →
      ((List.range m).foldl (fun (v : BitVec (8 * bs.length)) j =>
        v ||| ((bs.getD j 0).setWidth (8 * bs.length) <<< (8 * j))) 0).getLsbD i =
        (decide (i < 8 * m) && (bs.getD (i / 8) 0).getLsbD (i % 8)) := by
    intro m hm i hi
    induction m with
    | zero => simp
    | succ m ih =>
      rw [List.range_succ, List.foldl_append, List.foldl_cons, List.foldl_nil, BitVec.getLsbD_or, ih (by omega)]
      simp only [BitVec.getLsbD_shiftLeft, BitVec.getLsbD_setWidth, hi, decide_true, Bool.true_and]
      by_cases h1 : i < 8 * m
      · simp [h1, show i < 8 * (m + 1) by omega]
      · by_cases h2 : i < 8 * (m + 1)
        · obtain rfl : i / 8 = m := by omega
          simp [h1, h2, show i - 8 * (i / 8) = i % 8 by omega, show i % 8 < 8 * bs.length by omega]
        · rw [BitVec.getLsbD_of_ge (bs.getD m 0) _ (by omega)]
          simp [h1, h2]
  refine BitVec.eq_of_getLsbD_eq fun i hi => ?_
  rw [BitVec.getLsbD_ofNat, bytesNat_testBit, Claim.wordOfBytes, hbits _ (Nat.le_refl _) i hi]

/-- Word k of bytes. -/
theorem byteWords_word (bs : List Byte) (k : Nat) (h : 4 * k + 4 ≤ bs.length) :
    w (byteWords bs) k = BitVec.ofNat 32 (recAt bs (4 * k) 4) := by
  simp only [w, byteWords, recAt, List.getD_eq_getElem?_getD, List.getElem?_map]
  rw [List.getElem?_range (by omega)]
  rfl

theorem byteWords_length (bs : List Byte) : (byteWords bs).length = bs.length / 4 := by simp [byteWords]

/-- The bytes of 64 bits are those of its low half and then those of its high half. -/
theorem byteWords_pair (bs : List Byte) (h : bs.length = 8) :
    w (byteWords bs) 0 = (BitVec.ofNat 64 (bytesNat bs)).setWidth 32 ∧
      w (byteWords bs) 1 = Claim.highHalf (BitVec.ofNat 64 (bytesNat bs)) := by
  have hsplit : bytesNat bs = bytesNat (bs.take 4) + 2 ^ 32 * bytesNat (bs.drop 4) := by
    conv => lhs; rw [← List.take_append_drop 4 bs, bytesNat_append]
    simp [h]
  have hlo : bytesNat (bs.take 4) < 2 ^ 32 := by simpa [h] using bytesNat_lt (bs.take 4)
  have hhi : bytesNat (bs.drop 4) < 2 ^ 32 := by simpa [h] using bytesNat_lt (bs.drop 4)
  rw [byteWords_word _ _ (by omega), byteWords_word _ _ (by omega)]
  refine ⟨BitVec.eq_of_toNat_eq ?_, BitVec.eq_of_toNat_eq ?_⟩
  · simp only [recAt, Nat.mul_zero, List.drop_zero, BitVec.toNat_ofNat, BitVec.toNat_setWidth]
    omega
  · have ht : (bs.drop 4).take 4 = bs.drop 4 := List.take_of_length_le (by simp [h])
    simp only [recAt, Nat.mul_one, ht, Claim.highHalf, BitVec.toNat_ofNat, BitVec.extractLsb'_toNat, Nat.shiftRight_eq_div_pow]
    omega

theorem bitIs_iff (v bit : Nat) (sense : Bool) (h : bit < 64) :
    bitIs v bit sense = true ↔ (BitVec.ofNat 64 v).getLsbD bit = sense := by
  rw [BitVec.getLsbD_ofNat, Nat.testBit_eq_decide_div_mod_eq]
  simp [bitIs, h]

/-- The reader count that a VDRAIN looks at, as a word of its block (25 R300, R302). -/
theorem drained_iff (bs : List Byte) (h : bs.length = 16) :
    drained bs = true ↔ w (byteWords bs) (3 - Claim.curOf bs) = 0#32 := by
  have h0 := byteWords_word bs 0 (by omega)
  have hcur : Claim.curOf bs = (VersionBlock.parse bs).cur := by simp [Claim.curOf, h0, VersionBlock.cur, VersionBlock.parse]
  have hlt : (VersionBlock.parse bs).cur < 2 := Nat.mod_lt _ (by decide)
  have hd : drained bs = decide (w [BitVec.ofNat 32 (recAt bs 8 4), BitVec.ofNat 32 (recAt bs 12 4)]
      (1 - (VersionBlock.parse bs).cur) = 0#32) := rfl
  obtain hc | hc : (VersionBlock.parse bs).cur = 0 ∨ (VersionBlock.parse bs).cur = 1 := by omega
  · rw [hd, hcur, hc, byteWords_word bs 3 (by omega), decide_eq_true_iff]; rfl
  · rw [hd, hcur, hc, byteWords_word bs 2 (by omega), decide_eq_true_iff]; rfl

end Sys2Proof.Machine

namespace Sys2Proof.Machine

/-! ## What the reads of a crew leave -/

/-- A read of a crew leaves sleepers and the clock alone, and of the crew itself only what its reads carried may differ. -/
structure OnlyReads (key : Nat) (s t : State) : Prop where
  sleepers : t.sleepers = s.sleepers
  clock : t.clock = s.clock
  crew : ∀ c, s.crews.get key = some c → ∃ x, t.crews.get key = some { c with reads := x }

theorem OnlyReads.of_setMem (key : Nat) (s : State) (m : MemSys) : OnlyReads key s (s.setMem m) :=
  ⟨rfl, rfl, fun c hc => ⟨c.reads, hc⟩⟩

theorem OnlyReads.refl (key : Nat) (s : State) : OnlyReads key s s := OnlyReads.of_setMem key s s.mem

theorem OnlyReads.trans {key : Nat} {s t u : State} (h : OnlyReads key s t) (k : OnlyReads key t u) : OnlyReads key s u :=
  ⟨k.sleepers.trans h.sleepers, k.clock.trans h.clock, fun c hc => by
    obtain ⟨x, hx⟩ := h.crew c hc
    obtain ⟨y, hy⟩ := k.crew _ hx
    exact ⟨y, hy⟩⟩

theorem OnlyReads.foldl {ι : Type} {key : Nat} {f : State → ι → State} (h : ∀ s i, OnlyReads key s (f s i)) (is : List ι)
    (s : State) : OnlyReads key s (is.foldl f s) := by
  induction is generalizing s with
  | nil => exact OnlyReads.refl key s
  | cons i rest ih => exact (h s i).trans (ih _)

theorem noteRead_onlyReads (s : State) (key pa : Nat) : OnlyReads key s (noteRead s key pa) :=
  ⟨rfl, rfl, fun c hc => ⟨_, by rw [noteRead, State.setCrews_crews, Map.get_modify, if_pos rfl, hc]; rfl⟩⟩

/-- Noting an access touches memory and the TLBs alone. -/
theorem noteAccess_eq (s : State) (core ctx va : Nat) (store : Bool) : ∃ m, noteAccess s core ctx va store = s.setMem m := by
  unfold noteAccess
  split
  · exact ⟨_, rfl⟩
  · exact ⟨s.mem, rfl⟩

theorem noteAccess_onlyReads (s : State) (key core ctx va : Nat) (store : Bool) :
    OnlyReads key s (noteAccess s core ctx va store) := by
  obtain ⟨m, h⟩ := noteAccess_eq s core ctx va store
  rw [h]; exact OnlyReads.of_setMem ..

theorem noteRange_onlyReads (s : State) (key core ctx ea n : Nat) (store : Bool) :
    OnlyReads key s (noteRange s core ctx ea n store) :=
  OnlyReads.foldl (fun s _ => noteAccess_onlyReads s key core ctx _ store) _ s

/-- A read gives as many bytes as it asks for. (The kernel must not meet the definition's match on a target beside its name: it
would evaluate the target's bounds in unary.) -/
@[simp] theorem readMapped_length (s : State) (core : Nat) (m : Mapped) (n : Nat) : (readMapped s core m n).length = n := by
  have h : ∀ f, f = @readMapped → (f s core m n).length = n := by
    delta readMapped
    rintro _ rfl
    dsimp -zeta only
    generalize s.sys.target m.pa = x
    cases x <;> simp [deviceBytes, MemSys.seenBytes]
  exact h _ rfl

/-- An aligned word lies in one page. -/
theorem splitPages_word (ea : Nat) (h : ea % 8 = 0) : splitPages (8 / 4096 + 2) ea 8 = [(ea, 8)] := by
  have hk : min 8 (4096 - ea % 4096) = 8 := by omega
  rw [splitPages.eq_def]
  simp only [hk]
  rfl

/-- Where an aligned word is met, it is met in one piece. -/
theorem meet_word {s : State} {core ctx ea : Nat} {k : Access} {ms : List (Mapped × Nat)} (ha : ea % 8 = 0)
    (h : meet s core ctx ea 8 k = .ok ms) : ∃ m, ms = [(m, 8)] := by
  simp only [meet, splitPages_word ea ha, List.map_cons, List.map_nil] at h
  cases hr : reach s core ctx (ea % 2 ^ 64) k with
  | ok m => rw [hr] at h; cases h; exact ⟨m, rfl⟩
  | capacity p a b => rw [hr] at h; cases h
  | bad c => rw [hr] at h; cases h

/-- A load of a word gives its 8 bytes. -/
theorem threadLoad_word {s s1 : State} {key ctx ea pa : Nat} {bs : List Byte} {ls : List Nat}
    (h : threadLoad s key ctx ea 8 8 false = (s1, .bytes bs ls pa)) : bs.length = 8 ∧ OnlyReads key s s1 := by
  unfold threadLoad at h
  by_cases ha : ea % 8 = 0
  · simp only [ha, ne_eq, not_true_eq_false, if_false, Bool.false_eq_true] at h
    split at h
    · cases h
    · cases h
    · next ms hm =>
      obtain ⟨m, rfl⟩ := meet_word ha hm
      split at h
      · cases h
      · simp only [Prod.mk.injEq, Got.bytes.injEq] at h
        obtain ⟨rfl, rfl, -, -⟩ := h
        exact ⟨by simp [readPieces], (noteRange_onlyReads ..).trans
          (OnlyReads.foldl (fun s l => noteRead_onlyReads s key (l * 128)) _ _)⟩
  · simp [ha] at h

/-- An atomic that writes nothing gives the 16 bytes of a block. -/
theorem threadAtomic_read {s s1 : State} {key ctx ea pa : Nat} {bs : List Byte} {ls : List Nat}
    (h : threadAtomic s key ctx ea 16 (fun _ => none) = (s1, .bytes bs ls pa)) : bs.length = 16 ∧ OnlyReads key s s1 := by
  unfold threadAtomic at h
  by_cases ha : ea % 16 = 0
  · simp only [ha, ne_eq, not_true_eq_false, if_false] at h
    split at h
    · cases h
    · split at h <;> cases h
    · split at h
      · cases h
      · split at h
        · cases h
        · split at h
          · cases h
          · simp only [Prod.mk.injEq, Got.bytes.injEq] at h
            obtain ⟨rfl, rfl, -, -⟩ := h
            exact ⟨by simp [MemSys.seenBytes], ((noteAccess_onlyReads s key ..).trans (OnlyReads.of_setMem ..)).trans
              (noteRead_onlyReads ..)⟩
  · simp [ha] at h

/-! ## The acquire of a read -/

section
variable (s : State) (key scope pa : Nat)

theorem acquireAt_crew {c : Crew} (h : s.crews.get key = some c) :
    (acquireAt s key scope pa).crews.get key = some (if 1 ≤ scope then c.acquire (carriedAt s pa) else c) := by
  unfold acquireAt
  split
  · rw [acquireSig, State.setCrews_crews, Map.get_modify, if_pos rfl, h]; rfl
  · exact h

@[simp] theorem acquireAt_mem : (acquireAt s key scope pa).mem = s.mem := by unfold acquireAt; split <;> rfl
@[simp] theorem acquireAt_sleepers : (acquireAt s key scope pa).sleepers = s.sleepers := by unfold acquireAt; split <;> rfl
@[simp] theorem acquireAt_clock : (acquireAt s key scope pa).clock = s.clock := by unfold acquireAt; split <;> rfl

end

/-- An acquire changes what a crew has acquired and knows, and nothing else of it. -/
theorem Crew.acquire_kept (c : Crew) (x : Carried) (p : Prop) [Decidable p] :
    (if p then c.acquire x else c).threads = c.threads ∧ (if p then c.acquire x else c).pend = c.pend := by
  split <;> exact ⟨rfl, rfl⟩

/-! ## Re-reads and limits (17 R215; 19 R232; 25 R302) -/

/-- What a re-read leaves a sleeper's crew with: what the crew of the read had, and what its acquire takes. -/
theorem reread_crew {s s1 : State} {key scope pa : Nat} {c : Crew} (hr : OnlyReads key s s1) (hc : s.crews.get key = some c) :
    ∃ c1 c2, s1.crews.get key = some c1 ∧ (acquireAt s1 key scope pa).crews.get key = some c2 ∧
      c2 = (if 1 ≤ scope then c1.acquire (carriedAt s1 pa) else c1) ∧ c2.threads = c.threads ∧ c2.pend = c.pend := by
  obtain ⟨x, hx⟩ := hr.crew c hc
  have hk := Crew.acquire_kept { c with reads := x } (carriedAt s1 pa) (1 ≤ scope)
  exact ⟨_, _, hx, acquireAt_crew s1 key scope pa hx, rfl, hk.1, hk.2⟩

/-- WAITBIT_REREAD of a word that can be read: its crew acquires at the scope, and the lane wakes with the word where the bit
stands, and keeps it, with the clock of the read, where it does not. -/
theorem waitbitReread_next {s : State} {id : Nat} {sl : Sleeper} {c : Crew} {addr bit : Nat} {sense : Bool} {till : Option Nat}
    {dst : Nat} {last : BitVec 64} {read sc : Nat} {s1 : State} {bs : List Byte} {ls : List Nat} {pa : Nat}
    (hsl : s.sleepers.get id = some sl) (hw : sl.what = .waitbit addr bit sense till dst last read sc)
    (hc : s.crews.get sl.crew = some c)
    (hl : threadLoad s sl.crew (ctxOf s c) addr 8 8 false = (s1, .bytes bs ls pa)) :
    execWaitbitReread id s = .next (if bitIs (bytesNat bs) bit sense then
        finishSleeper (acquireAt s1 sl.crew sc pa) id dst (fun _ => byteWords bs) 2
      else (acquireAt s1 sl.crew sc pa).setSleepers ((acquireAt s1 sl.crew sc pa).sleepers.set id
        { sl with what := .waitbit addr bit sense till dst (BitVec.ofNat 64 (bytesNat bs)) (acquireAt s1 sl.crew sc pa).clock sc })) := by
  simp only [execWaitbitReread, hsl, hw, hc, hl]
  split <;> rfl

theorem waitbitReread_acts {s : State} {id : Nat} {sl : Sleeper} {c : Crew} {addr bit : Nat} {sense : Bool} {till : Option Nat}
    {dst : Nat} {last : BitVec 64} {read sc : Nat} {s1 : State} {bs : List Byte} {ls : List Nat} {pa : Nat}
    (hsl : s.sleepers.get id = some sl) (hw : sl.what = .waitbit addr bit sense till dst last read sc)
    (hc : s.crews.get sl.crew = some c) (hs : Map.sorted s.sleepers = true)
    (hl : threadLoad s sl.crew (ctxOf s c) addr 8 8 false = (s1, .bytes bs ls pa)) (hbit : bit < 64) :
    let got : BitVec 64 := Claim.wordOfBytes 8 bs
    ∃ t d, execWaitbitReread id s = .next t ∧ t.crews.get sl.crew = some d ∧ t.mem = s1.mem ∧
      (∀ c1, s1.crews.get sl.crew = some c1 → d.acquired = (if 1 ≤ sc then c1.acquire (carriedAt s1 pa) else c1).acquired ∧
        d.know = (if 1 ≤ sc then c1.acquire (carriedAt s1 pa) else c1).know) ∧
      (got.getLsbD bit = sense → t.sleepers.get id = none ∧
        (∀ l, l < 32 → d.thread l = if inMask sl.lanes l ∧ (c.thread l).wait = .op id then
            { c.thread l with wait := .awake, pc := sl.next, rep := 0 } else c.thread l) ∧
        ∃ r, d.pend = c.pend ++ [r] ∧ r.seq = sl.seq ∧ ∀ l, l < 32 → inMask sl.lanes l = true → (c.thread l).wait = .op id →
          r.writes.get (32 * dst + l) = some (got.setWidth 32) ∧
            r.writes.get (32 * (dst + 1) + l) = some (Claim.highHalf got)) ∧
      (got.getLsbD bit ≠ sense → d.threads = c.threads ∧ d.pend = c.pend ∧
        t.sleepers.get id = some { sl with what := .waitbit addr bit sense till dst got s.clock sc }) := by
  intro got
  obtain ⟨hlen, hr⟩ := threadLoad_word hl
  have hgot : got = BitVec.ofNat 64 (bytesNat bs) := by
    have := wordOfBytes_eq bs
    rw [hlen] at this; exact this
  obtain ⟨c1, c2, hc1, hc2, rfl, hthr, hpend⟩ := reread_crew (scope := sc) (pa := pa) hr hc
  have hsl' : (acquireAt s1 sl.crew sc pa).sleepers.get id = some sl := by rw [acquireAt_sleepers, hr.sleepers, hsl]
  have hs' : Map.sorted (acquireAt s1 sl.crew sc pa).sleepers = true := by rw [acquireAt_sleepers, hr.sleepers, hs]
  have hthread : ∀ l, (if 1 ≤ sc then c1.acquire (carriedAt s1 pa) else c1).thread l = c.thread l := fun l => by
    rw [Crew.thread, hthr]; rfl
  rw [waitbitReread_next hsl hw hc hl]
  by_cases hb : bitIs (bytesNat bs) bit sense = true
  · have hg : got.getLsbD bit = sense := by rw [hgot]; exact (bitIs_iff _ _ _ hbit).1 hb
    obtain ⟨d, r, hwoke, hp, hseq, hwr⟩ := finishSleeper_wakes hsl' hc2 hs' dst (fun _ => byteWords bs) 2
    rw [if_pos hb]
    refine ⟨_, d, rfl, hwoke.crew, hwoke.mem.trans (acquireAt_mem ..), fun x hx => ?_, fun _ => ⟨hwoke.gone, ?_, r, ?_⟩,
      fun hn => absurd hg hn⟩
    · rw [hc1, Option.some.injEq] at hx; subst hx; exact ⟨hwoke.acquired, hwoke.know⟩
    · simpa only [hthread] using hwoke.threads
    · refine ⟨hp.trans (by rw [hpend]), hseq, fun l hl hm hop => ?_⟩
      obtain ⟨hlo, hhi⟩ := byteWords_pair bs hlen
      have hop' := (congrArg Thread.wait (hthread l)).trans hop
      have h0 := hwr l 0 hl hm hop' (by rw [byteWords_length, hlen]; decide)
      have h1 := hwr l 1 hl hm hop' (by rw [byteWords_length, hlen]; decide)
      rw [hgot, ← hlo, ← hhi]
      exact ⟨h0, h1⟩
  · have hg : got.getLsbD bit ≠ sense := by rw [hgot]; exact fun h => hb ((bitIs_iff _ _ _ hbit).2 h)
    rw [if_neg hb]
    refine ⟨_, _, rfl, hc2, acquireAt_mem .., fun x hx => ?_, fun h => absurd h hg, fun _ => ⟨hthr, hpend, ?_⟩⟩
    · rw [hc1, Option.some.injEq] at hx; subst hx; exact ⟨rfl, rfl⟩
    · rw [State.setSleepers_sleepers, Map.get_set_self, acquireAt_clock, hr.clock, hgot]

/-- WAITBIT_LIMIT is about the first sleeper whose limit has passed, which wakes with the word it last read. -/
theorem waitbitLimit_acts {s : State} {id : Nat} {sl : Sleeper} {c : Crew} {dst : Nat} {last : BitVec 64}
    (hlim : execWaitbitLimit s = .next (finishSleeper s id dst (fun _ => split64 last) 2)) (hsl : s.sleepers.get id = some sl)
    (hs : Map.sorted s.sleepers = true) (hc : s.crews.get sl.crew = some c) :
    ∃ t d r, execWaitbitLimit s = .next t ∧ t.crews.get sl.crew = some d ∧ t.sleepers.get id = none ∧ d.pend = c.pend ++ [r] ∧
      (∀ l, l < 32 → d.thread l = if inMask sl.lanes l ∧ (c.thread l).wait = .op id then
          { c.thread l with wait := .awake, pc := sl.next, rep := 0 } else c.thread l) ∧
      ∀ l, l < 32 → inMask sl.lanes l = true → (c.thread l).wait = .op id →
        r.writes.get (32 * dst + l) = some (last.setWidth 32) ∧
          r.writes.get (32 * (dst + 1) + l) = some (Claim.highHalf last) := by
  obtain ⟨d, r, hwoke, hp, -, hwr⟩ := finishSleeper_wakes hsl hc hs dst (fun _ => split64 last) 2
  refine ⟨_, d, r, hlim, hwoke.crew, hwoke.gone, hp, hwoke.threads, fun l hl hm hop => ?_⟩
  have h0 := hwr l 0 hl hm hop (by simp [split64])
  have h1 := hwr l 1 hl hm hop (by simp [split64])
  rw [BitVec.setWidth_eq_extractLsb' (by decide)]
  exact ⟨h0, h1⟩

/-- VDRAIN_REREAD of a block that can be read: its crew acquires at device scope, and its lanes wake where the block shows no
reader of the other buffer, and else keep it with the clock of the read. -/
theorem vdrainReread_acts {s : State} {id : Nat} {sl : Sleeper} {c : Crew} {addr : Nat} {last : List Byte} {read : Nat} {s1 : State}
    {bs : List Byte} {ls : List Nat} {pa : Nat} (hsl : s.sleepers.get id = some sl) (hw : sl.what = .vdrain addr last read)
    (hc : s.crews.get sl.crew = some c) (hs : Map.sorted s.sleepers = true)
    (hl : threadAtomic s sl.crew (ctxOf s c) addr 16 (fun _ => none) = (s1, .bytes bs ls pa)) :
    ∃ t d, execVdrainReread id s = .next t ∧ t.crews.get sl.crew = some d ∧ d.pend = c.pend ∧
      (∀ c1, s1.crews.get sl.crew = some c1 → d.acquired = (c1.acquire (carriedAt s1 pa)).acquired ∧
        d.know = (c1.acquire (carriedAt s1 pa)).know) ∧
      (w (byteWords bs) (3 - Claim.curOf bs) = 0#32 → t.sleepers.get id = none ∧
        ∀ l, l < 32 → d.thread l = if inMask sl.lanes l ∧ (c.thread l).wait = .op id then
            { c.thread l with wait := .awake, pc := sl.next, rep := 0 } else c.thread l) ∧
      (w (byteWords bs) (3 - Claim.curOf bs) ≠ 0#32 → d.threads = c.threads ∧
        t.sleepers.get id = some { sl with what := .vdrain addr bs s.clock }) := by
  obtain ⟨hlen, hr⟩ := threadAtomic_read hl
  obtain ⟨c1, c2, hc1, hc2, rfl, hthr, hpend⟩ := reread_crew (scope := 5) (pa := pa) hr hc
  rw [if_pos (by decide)] at hc2 hthr hpend
  have hsl' : (acquireAt s1 sl.crew 5 pa).sleepers.get id = some sl := by rw [acquireAt_sleepers, hr.sleepers, hsl]
  have hs' : Map.sorted (acquireAt s1 sl.crew 5 pa).sleepers = true := by rw [acquireAt_sleepers, hr.sleepers, hs]
  have he : execVdrainReread id s = .next (if drained bs then wakeSleeper (acquireAt s1 sl.crew 5 pa) id
      else (acquireAt s1 sl.crew 5 pa).setSleepers ((acquireAt s1 sl.crew 5 pa).sleepers.set id
        { sl with what := .vdrain addr bs (acquireAt s1 sl.crew 5 pa).clock })) := by
    simp only [execVdrainReread, hsl, hw, hc, hl]
  rw [he]
  by_cases hd : drained bs = true
  · obtain ⟨d, hwoke, hp⟩ := wakeSleeper_wakes hsl' hc2 hs'
    rw [if_pos hd]
    refine ⟨_, d, rfl, hwoke.crew, hp.trans hpend, fun x hx => ?_, fun _ => ⟨hwoke.gone, ?_⟩,
      fun hn => absurd ((drained_iff bs hlen).1 hd) hn⟩
    · rw [hc1, Option.some.injEq] at hx; subst hx; exact ⟨hwoke.acquired, hwoke.know⟩
    · have hthread : ∀ l, (c1.acquire (carriedAt s1 pa)).thread l = c.thread l := fun l => by rw [Crew.thread, hthr]; rfl
      simpa only [hthread] using hwoke.threads
  · rw [if_neg hd]
    refine ⟨_, _, rfl, hc2, hpend, fun x hx => ?_, fun h => absurd ((drained_iff bs hlen).2 h) hd, fun _ => ⟨hthr, ?_⟩⟩
    · rw [hc1, Option.some.injEq] at hx; subst hx; exact ⟨rfl, rfl⟩
    · rw [State.setSleepers_sleepers, Map.get_set_self, acquireAt_clock, hr.clock]

end Sys2Proof.Machine

/-- 17 R215, 19 R232 and 25 R302. -/
theorem Sys2Proof.Machine.sleepsEndAsTheirInstructionsSay : Sys2Proof.Claim.SleepsEndAsTheirInstructionsSay := by
  refine ⟨fun s k c h hs => ?_, fun s id sl c addr bit sense till dst last read sc s1 bs ls pa hsl hw hc hs hl hbit =>
    waitbitReread_acts hsl hw hc hs hl hbit, fun s id sl c addr bit sense till dst last read sc hf hs hw hc => ?_,
    fun s id sl c addr last read s1 bs ls pa hsl hw hc hs hl => vdrainReread_acts hsl hw hc hs hl⟩
  · obtain ⟨t, d, hn, hd, hm, ho, hthr⟩ := sleepExpire_wakes h hs
    refine ⟨t, d, hn, hd, hm, ho, fun l hl => ?_⟩
    rw [hthr l hl]
    cases hw : (c.thread l).wait with
    | sleep till =>
      have hlive : l ∈ c.liveLanes := (mem_liveLanes c l).2 ⟨hl, by simp [Thread.live, hw]⟩
      simp [sleepOver, hw, hlive]
    | _ => simp [sleepOver, hw]
  · refine waitbitLimit_acts ?_ (Map.get_of_mem hs (List.mem_of_find?_eq_some hf)) hs hc
    have he : execWaitbitLimit s = match some (id, sl) with
        | some (id, sl) =>
          match sl.what with
          | .waitbit _ _ _ _ dst last _ _ => .next (finishSleeper s id dst (fun _ => split64 last) 2)
          | _ => .refused (.notEnabled "WAITBIT_LIMIT")
        | none => .refused (.notEnabled "WAITBIT_LIMIT") := by rw [← hf]; rfl
    rw [he]
    simp only [hw]

namespace Sys2Proof.Machine

/-! ## Writing dirty lines home (11 R153; 19 R229; 31 R353) -/

theorem l1Key_core (core pa : Nat) (h : pa < 2 ^ 52) : l1Key core pa / 2 ^ 52 = core := by unfold l1Key; omega

theorem l1Key_pa (core pa : Nat) (h : pa < 2 ^ 52) : l1Key core pa % 2 ^ 52 = pa := by unfold l1Key; omega

theorem eq_l1Key (k : Nat) : k = l1Key (k / 2 ^ 52) (k % 2 ^ 52) := by unfold l1Key; omega

/-- Bytes written at their homes one by one enter L2 and nothing else. -/
theorem foldl_putHome {β : Type} (es : List β) (key : β → Nat) (val : β → Byte) (m : MemSys) :
    es.foldl (fun m e => m.putHome (key e) (val e)) m =
      { m with l2 := es.foldl (fun (x : Map Byte) e => x.set (key e) (val e)) m.l2 } := by
  induction es generalizing m with
  | nil => rfl
  | cons e rest ih => rw [List.foldl_cons, ih]; rfl

section
variable (m : MemSys) (core : Nat) (p : Nat → Bool)

/-- A flush of an L1 drops the lines it writes, and sets their bytes in L2. -/
theorem flushL1_eq : m.flushL1 core p =
    { m with
      l1 := m.l1.filter fun e => !(e.1 / 2 ^ 52 = core && p (e.1 % 2 ^ 52))
      l2 := (m.l1.filter fun e => e.1 / 2 ^ 52 = core && p (e.1 % 2 ^ 52)).foldl
        (fun (x : Map Byte) e => x.set (e.1 % 2 ^ 52) e.2) m.l2 } := by
  rw [MemSys.flushL1, foldl_putHome]

@[simp] theorem flushL1_ram : (m.flushL1 core p).ram = m.ram := by rw [flushL1_eq]
@[simp] theorem flushL1_tlb : (m.flushL1 core p).tlb = m.tlb := by rw [flushL1_eq]
@[simp] theorem flushL1_sluice : (m.flushL1 core p).sluice = m.sluice := by rw [flushL1_eq]

theorem flushL1_l1_get (k : Nat) : (m.flushL1 core p).l1.get k =
    if k / 2 ^ 52 = core ∧ p (k % 2 ^ 52) = true then none else m.l1.get k := by
  rw [flushL1_eq, Map.get_filter_key m.l1 fun k => !(k / 2 ^ 52 = core && p (k % 2 ^ 52))]
  by_cases h : k / 2 ^ 52 = core ∧ p (k % 2 ^ 52) = true
  · simp only [h, and_self, if_true, decide_true, Bool.true_and, Bool.not_true, Bool.false_eq_true, if_false]
  · rw [if_neg h, if_pos]
    rw [Bool.not_eq_true', Bool.and_eq_false_iff, decide_eq_false_iff_not, ← Bool.not_eq_true]
    exact Decidable.not_and_iff_or_not.1 h

/-- A byte that the L1 does not hold dirty, or that is not flushed, keeps its home value. -/
theorem flushL1_home_kept {pa : Nat} (hs : m.l1.sorted = true) (h : m.l1.get (l1Key core pa) = none ∨ p pa = false) :
    (m.flushL1 core p).home pa = m.home pa := by
  have hl2 : (m.flushL1 core p).l2.get pa = m.l2.get pa := by
    rw [flushL1_eq]
    refine Map.get_foldl_set_ne _ _ _ _ fun e he hk => ?_
    obtain ⟨hmem, hp⟩ := List.mem_filter.1 he
    simp only [Bool.and_eq_true, decide_eq_true_eq] at hp
    obtain ⟨hcore, hp⟩ := hp
    rcases h with h | h
    · have he1 : e.1 = l1Key core pa := by rw [← hcore, ← hk]; exact eq_l1Key _
      rw [Map.get_of_mem hs (a := e.2) (by rw [← he1]; exact hmem)] at h
      cases h
    · rw [hk, h] at hp; cases hp
  simp only [MemSys.home, hl2, flushL1_ram]

/-- A flushed byte reaches its home. -/
theorem flushL1_home_written {pa : Nat} {b : Byte} (hpa : pa < 2 ^ 52) (hs : m.l1.sorted = true) (hp : p pa = true)
    (h : m.l1.get (l1Key core pa) = some b) : (m.flushL1 core p).home pa = b := by
  have hl2 : (m.flushL1 core p).l2.get pa = some b := by
    rw [flushL1_eq]
    refine Map.get_foldl_set _ _ _ _ ⟨(l1Key core pa, b), ?_, l1Key_pa core pa hpa⟩ fun e he hk => ?_
    · exact List.mem_filter.2 ⟨Map.mem_of_get h, by rw [l1Key_core core pa hpa, l1Key_pa core pa hpa, hp]; simp⟩
    · obtain ⟨hmem, hp⟩ := List.mem_filter.1 he
      simp only [Bool.and_eq_true, decide_eq_true_eq] at hp
      have he1 : e.1 = l1Key core pa := by rw [← hp.1, ← hk]; exact eq_l1Key _
      have := Map.get_of_mem hs (n := e.1) (a := e.2) hmem
      rw [he1, h] at this
      exact (Option.some.inj this).symm
  simp only [MemSys.home, hl2]

end

/-! ### Several L1s at once -/

/-- The L1s of cores write the dirty bytes that satisfy a test to their homes, core after core. -/
def flushAll (m : MemSys) (cores : List Nat) (p : Nat → Bool) : MemSys := cores.foldl (fun m c => m.flushL1 c p) m

section
variable (m : MemSys) (cores : List Nat) (p : Nat → Bool)

@[simp] theorem flushAll_ram : (flushAll m cores p).ram = m.ram := foldl_keeps MemSys.ram (fun m c => flushL1_ram m c p) ..
@[simp] theorem flushAll_tlb : (flushAll m cores p).tlb = m.tlb := foldl_keeps MemSys.tlb (fun m c => flushL1_tlb m c p) ..
@[simp] theorem flushAll_sluice : (flushAll m cores p).sluice = m.sluice :=
  foldl_keeps MemSys.sluice (fun m c => flushL1_sluice m c p) ..

theorem flushAll_l1_get (k : Nat) : (flushAll m cores p).l1.get k =
    if k / 2 ^ 52 ∈ cores ∧ p (k % 2 ^ 52) = true then none else m.l1.get k := by
  induction cores generalizing m with
  | nil => simp [flushAll]
  | cons c rest ih =>
    rw [flushAll, List.foldl_cons, ← flushAll, ih, flushL1_l1_get]
    grind

/-- A byte that no L1 holds dirty, or that is not flushed, keeps its home value. -/
theorem flushAll_home_kept {pa : Nat} (hs : m.l1.sorted = true)
    (h : (∀ c, m.l1.get (l1Key c pa) = none) ∨ p pa = false) : (flushAll m cores p).home pa = m.home pa := by
  induction cores generalizing m with
  | nil => rfl
  | cons c rest ih =>
    rw [flushAll, List.foldl_cons, ← flushAll, ih _ (by rw [flushL1_eq]; exact Map.sorted_filter _ _ hs),
      flushL1_home_kept _ _ _ hs (h.imp_left fun h => h c)]
    exact h.imp_left fun h c' => by rw [flushL1_l1_get, h]; split <;> rfl

/-- The byte that one L1 alone holds dirty reaches its home. -/
theorem flushAll_home_written {core pa : Nat} {b : Byte} (hpa : pa < 2 ^ 52) (hs : m.l1.sorted = true) (hp : p pa = true)
    (hc : core ∈ cores) (h : m.l1.get (l1Key core pa) = some b)
    (hothers : ∀ other, other ≠ core → m.l1.get (l1Key other pa) = none) : (flushAll m cores p).home pa = b := by
  induction cores generalizing m with
  | nil => cases hc
  | cons c rest ih =>
    have hs' : (m.flushL1 c p).l1.sorted = true := by rw [flushL1_eq]; exact Map.sorted_filter _ _ hs
    rw [flushAll, List.foldl_cons, ← flushAll]
    by_cases hcc : core = c
    · subst hcc
      rw [flushAll_home_kept _ _ _ hs', flushL1_home_written _ _ _ hpa hs hp h]
      refine .inl fun c' => ?_
      rw [flushL1_l1_get, l1Key_core _ _ hpa, l1Key_pa _ _ hpa]
      by_cases hc' : c' = core
      · simp [hc', hp]
      · rw [hothers c' hc', ite_self]
    · refine ih _ hs' (List.mem_of_ne_of_mem hcc hc) ?_ fun other ho => ?_
      · rw [flushL1_l1_get, l1Key_core _ _ hpa, if_neg fun hh => hcc hh.1, h]
      · rw [flushL1_l1_get, hothers other ho, ite_self]

end

end Sys2Proof.Machine

namespace Sys2Proof.Machine

/-! ## Sending the entries of Sluice (11 R142) -/

/-- The Sluices of cores send the entries that satisfy a test, core after core. -/
def sendAll (s : State) (cores : List Nat) (p : SluiceEntry → Bool) : State := cores.foldl (fun s c => sendEntries s c p) s

section
variable (s : State) (core : Nat) (cores : List Nat) (p : SluiceEntry → Bool)

@[simp] theorem sendEntries_mem :
    (sendEntries s core p).mem = { s.mem with sluice := s.mem.sluice.filter fun e => !(e.core = core && p e) } := rfl

/-- What a table of entries sent leaves of the memory: Sluice alone changes. -/
theorem sendAll_mem : (sendAll s cores p).mem =
    { s.mem with sluice := s.mem.sluice.filter fun e => !(cores.contains e.core && p e) } := by
  induction cores generalizing s with
  | nil =>
    have hall : s.mem.sluice.filter (fun _ => true) = s.mem.sluice := List.filter_eq_self.2 fun _ _ => rfl
    simp only [sendAll, List.foldl_nil, List.contains_nil, Bool.false_and, Bool.not_false, hall]
  | cons c rest ih =>
    rw [sendAll, List.foldl_cons, ← sendAll, ih, sendEntries_mem]
    simp only [List.filter_filter, MemSys.mk.injEq, true_and, and_true]
    refine List.filter_congr fun e _ => ?_
    rw [List.contains_cons]
    cases hc : p e
    · simp
    · by_cases h : e.core = c <;> simp [h]

theorem sendEntries_crew {k : Nat} {c : Crew} (h : s.crews.get k = some c) :
    ∃ d, (sendEntries s core p).crews.get k = some d ∧ d.threads = c.threads ∧ d.regs = c.regs := by
  let f (lines : List Nat) (k : Nat) (c : Crew) : Crew :=
    if coreOf k = core then
      { c with pend := c.pend.map fun p => { p with lines := p.lines.filter fun l => !lines.contains l } }
    else c
  have he : ∃ lines, (sendEntries s core p).crews = s.crews.map fun e => (e.1, f lines e.1 e.2) := by
    refine ⟨(s.mem.sluice.filter fun e => e.core = core && p e).map SluiceEntry.line, ?_⟩
    simp only [sendEntries, releaseLines, State.setCrews_crews, State.setMem_crews]
    refine List.map_congr_left fun e _ => ?_
    simp only [f]
    split <;> rfl
  obtain ⟨lines, he⟩ := he
  refine ⟨f lines k c, by rw [he, Map.get_map, h]; rfl, ?_⟩
  simp only [f]
  split <;> exact ⟨rfl, rfl⟩

theorem sendAll_crew {k : Nat} {c : Crew} (h : s.crews.get k = some c) :
    ∃ d, (sendAll s cores p).crews.get k = some d ∧ d.threads = c.threads ∧ d.regs = c.regs := by
  induction cores generalizing s c with
  | nil => exact ⟨c, h, rfl, rfl⟩
  | cons x rest ih =>
    obtain ⟨d, hd, ht, hr⟩ := sendEntries_crew s x p h
    obtain ⟨d', hd', ht', hr'⟩ := ih (sendEntries s x p) hd
    exact ⟨d', hd', ht'.trans ht, hr'.trans hr⟩

end

/-! ## Invalidation of TLBs (11 R137; 31 R345) -/

/-- A physical address lies in a page that some entry of a list maps. -/
def hitBy (es : List TlbEntry) (pa : Nat) : Bool :=
  es.any fun e => leafPa e.pte e.log e.base ≤ pa && pa < leafPa e.pte e.log e.base + 2 ^ e.log

/-- The cores whose L1 holds a dirty byte, and those whose Sluice holds an entry. -/
def dirtyCores (m : MemSys) : List Nat := dedup [] (m.l1.map fun e => e.1 / 2 ^ 52)
def sluiceCores (m : MemSys) : List Nat := dedup [] (m.sluice.map SluiceEntry.core)

theorem performThrough_eq (s : State) (es : List TlbEntry) : performThrough s es =
    (sendAll s (sluiceCores s.mem) fun e => hitBy es (128 * e.line)).setMem
      (flushAll (sendAll s (sluiceCores s.mem) fun e => hitBy es (128 * e.line)).mem (dirtyCores s.mem) (hitBy es)) := rfl

/-- The stores made through entries have left the Sluices and the L1s. -/
theorem performThrough_mem (s : State) (es : List TlbEntry) : (performThrough s es).mem =
    flushAll { s.mem with sluice := s.mem.sluice.filter fun e => !hitBy es (128 * e.line) } (dirtyCores s.mem) (hitBy es) := by
  rw [performThrough_eq, State.setMem_mem, sendAll_mem]
  have hf : s.mem.sluice.filter (fun e => !((sluiceCores s.mem).contains e.core && hitBy es (128 * e.line))) =
      s.mem.sluice.filter fun e => !hitBy es (128 * e.line) := List.filter_congr fun e he => by
    have hc : e.core ∈ sluiceCores s.mem := (mem_dedup [] _ _).2 ⟨List.mem_map_of_mem he, by simp⟩
    rw [List.contains_iff_mem.2 hc, Bool.true_and]
  rw [hf]

theorem mem_dirtyCores {m : MemSys} {core pa : Nat} {b : Byte} (hpa : pa < 2 ^ 52) (h : m.l1.get (l1Key core pa) = some b) :
    core ∈ dirtyCores m :=
  (mem_dedup [] _ _).2 ⟨List.mem_map.2 ⟨_, Map.mem_of_get h, l1Key_core core pa hpa⟩, by simp⟩

/-- What an invalidation does to TLBs, memory and crews. -/
theorem invalidate_invalidates {s : State} (hm : MemGood s.mem) {test : TlbEntry → Bool} {named : TlbEntry → Prop}
    (hn : ∀ e, test e = true ↔ named e) : Claim.Invalidates s (invalidate s test) named := by
  have hhit : ∀ pa, hitBy (s.mem.tlb.filter test) pa = true ↔ ∃ e ∈ s.mem.tlb, named e ∧ Claim.Through e pa := fun pa => by
    simp [hitBy, Claim.Through, hn]
  have hmiss : ∀ pa, hitBy (s.mem.tlb.filter test) pa = false ↔ ¬ ∃ e ∈ s.mem.tlb, named e ∧ Claim.Through e pa := fun pa => by
    rw [← hhit, Bool.not_eq_true]
  have hmem := performThrough_mem s (s.mem.tlb.filter test)
  generalize hes : s.mem.tlb.filter test = es at *
  let m0 : MemSys := { s.mem with sluice := s.mem.sluice.filter fun e => !hitBy es (128 * e.line) }
  have hinv : invalidate s test =
      (performThrough s es).setMem { (performThrough s es).mem with tlb := s.mem.tlb.filter fun e => !test e } := by
    rw [invalidate, hes, hmem, flushAll_tlb]
  have hl1 : ∀ k, (invalidate s test).mem.l1.get k = (flushAll m0 (dirtyCores s.mem) (hitBy es)).l1.get k := fun k => by
    rw [hinv, State.setMem_mem, hmem]
  have hhome : ∀ pa, (invalidate s test).mem.home pa = (flushAll m0 (dirtyCores s.mem) (hitBy es)).home pa := fun pa => by
    rw [hinv, State.setMem_mem, hmem]; rfl
  refine ⟨fun e => ?_, ?_, fun core pa hpa h => ?_, fun core pa b hpa h hb ho => ?_, fun core pa hpa h => ⟨?_, ?_⟩, fun x => ?_,
    fun k c hc => ?_⟩
  · rw [hinv, State.setMem_mem, List.mem_filter, Bool.not_eq_true', ← hn e, Bool.not_eq_true]
  · rw [hinv, State.setMem_mem, hmem, flushAll_ram]
  · rw [hl1, flushAll_l1_get, l1Key_core core pa hpa, l1Key_pa core pa hpa]
    by_cases hc : core ∈ dirtyCores s.mem
    · rw [if_pos ⟨hc, (hhit pa).2 h⟩]
    · rw [if_neg fun hh => hc hh.1]
      cases hg : s.mem.l1.get (l1Key core pa) with
      | none => rfl
      | some b => exact absurd (mem_dirtyCores hpa hg) hc
  · rw [hhome]
    exact flushAll_home_written m0 _ _ hpa hm.l1 ((hhit pa).2 h) (mem_dirtyCores hpa hb) hb ho
  · rw [hhome, flushAll_home_kept m0 _ _ hm.l1 (.inr ((hmiss pa).2 h))]; rfl
  · rw [hl1, flushAll_l1_get, l1Key_core core pa hpa, l1Key_pa core pa hpa, (hmiss pa).2 h, if_neg (by simp)]
  · rw [hinv, State.setMem_mem, hmem, flushAll_sluice, List.mem_filter, Bool.not_eq_true', hmiss]
  · rw [hinv]
    exact sendAll_crew s _ _ hc

/-- A fence that names entries no access still waits for completes. -/
theorem fenceBy_next {s : State} (name : String) (hr : s.sys.ready = true) {test : TlbEntry → Bool} {named : TlbEntry → Prop}
    (hn : ∀ e, test e = true ↔ named e) (hw : Claim.NoUseWaits s named) :
    fenceBy name s test = .next (invalidate s test) := by
  have hu : usesPending s test = false := by
    rw [usesPending, Bool.or_eq_false_iff]
    constructor
    · rw [List.any_eq_false]
      intro e he
      rw [Bool.not_eq_true, List.any_eq_false]
      intro c hc
      cases hres : c.result with
      | some x => simp
      | none =>
        cases hp : c.plan with
        | none => simp
        | some q =>
          simp only [Option.isNone_none, Bool.true_and, List.any_eq_true, Bool.and_eq_true, Bool.not_eq_true',
            List.contains_eq_mem, decide_eq_false_iff_not, not_exists, not_and, Classical.not_not]
          exact fun u hu ht => hw.1 e he c hc hres q hp u hu ((hn u.2).1 ht)
    · rw [List.any_eq_false]
      intro q hq
      rw [Bool.and_eq_true, Bool.not_eq_true', List.any_eq_true]
      rintro ⟨hf, u, hu, ht⟩
      exact hw.2 q hq hf u hu ((hn u).1 ht)
  simp only [fenceBy, byHart, hr, hu, if_true, Bool.false_eq_true, if_false]

theorem sfenceVma_invalidates {s : State} (va asid : Option Nat) (hr : s.sys.ready = true) (hm : MemGood s.mem)
    (hw : Claim.NoUseWaits s fun e => (∀ v, va = some v → e.base ≤ v % 2 ^ 57 ∧ v % 2 ^ 57 < e.base + 2 ^ e.log) ∧
      (∀ a, asid = some a → e.asid = a ∧ e.pte.getLsbD 5 = false)) :
    ∃ t, execSfenceVma va asid s = .next t ∧ Claim.Invalidates s t fun e =>
      (∀ v, va = some v → e.base ≤ v % 2 ^ 57 ∧ v % 2 ^ 57 < e.base + 2 ^ e.log) ∧
        (∀ a, asid = some a → e.asid = a ∧ e.pte.getLsbD 5 = false) := by
  have hn : ∃ test, execSfenceVma va asid s = fenceBy "SFENCE_VMA" s test ∧ ∀ e : TlbEntry, test e = true ↔
      (∀ v, va = some v → e.base ≤ v % 2 ^ 57 ∧ v % 2 ^ 57 < e.base + 2 ^ e.log) ∧
        (∀ a, asid = some a → e.asid = a ∧ e.pte.getLsbD 5 = false) := by
    refine ⟨_, rfl, fun e => ?_⟩
    cases va <;> cases asid <;> simp [pteBit]
  obtain ⟨test, he, hn⟩ := hn
  exact ⟨_, he.trans (fenceBy_next _ hr hn hw), invalidate_invalidates hm hn⟩

theorem hfence_invalidates {s : State} (hr : s.sys.ready = true) (hm : MemGood s.mem)
    (hw : Claim.NoUseWaits s fun _ => True) :
    ∃ t, execHfence s = .next t ∧ Claim.Invalidates s t fun _ => True :=
  have hn : ∀ e : TlbEntry, (fun _ => true) e = true ↔ (fun _ : TlbEntry => True) e := fun _ => by simp
  ⟨_, fenceBy_next "HFENCE" hr hn hw, invalidate_invalidates hm hn⟩

end Sys2Proof.Machine

namespace Sys2Proof.Machine

/-! ## The L2 flush and revoked ranges (31 R353) -/

section
variable (m : MemSys) (p : Nat → Bool)

/-- A flush of L2 writes to memory the bytes it drops. -/
theorem flushL2_eq : m.flushL2 p =
    { m with
      l2 := m.l2.filter fun e => !p e.1
      ram := (m.l2.filter fun e => p e.1).foldl (fun r e => Memory.write r e.1 e.2) m.ram } := by
  have h : ∀ (es : List (Nat × Byte)) (m : MemSys),
      es.foldl (fun (m : MemSys) e => { m with ram := m.ram.write e.1 e.2 }) m =
        { m with ram := es.foldl (fun r e => Memory.write r e.1 e.2) m.ram } := fun es => by
    induction es with
    | nil => exact fun _ => rfl
    | cons e rest ih => exact fun m => by rw [List.foldl_cons, ih]; rfl
  rw [MemSys.flushL2, h]

theorem flushL2_l2_get (a : Nat) : (m.flushL2 p).l2.get a = if p a then none else m.l2.get a := by
  rw [flushL2_eq, Map.get_filter_key m.l2 fun a => !p a]
  cases p a <;> rfl

/-- A flush of L2 leaves what every home holds. -/
theorem flushL2_home (hm : MemGood m) (a : Nat) : (m.flushL2 p).home a = m.home a := by
  rw [MemSys.home, flushL2_l2_get, flushL2_eq, MemSys.home]
  have hkept (h : ∀ b, m.l2.get a = some b → p a = false) :
      Memory.read ((m.l2.filter fun e => p e.1).foldl (fun r e => Memory.write r e.1 e.2) m.ram) a = m.ram.read a :=
    Memory.read_foldl_write_ne _ _ _ _ fun e he hk => by
      obtain ⟨hmem, hp⟩ := List.mem_filter.1 he
      rw [hk, h e.2 (Map.get_of_mem hm.l2 (by rw [← hk]; exact hmem))] at hp
      cases hp
  cases hg : m.l2.get a with
  | none => rw [ite_self]; exact hkept fun b h => by rw [hg] at h; cases h
  | some b =>
    cases hp : p a with
    | false => rfl
    | true =>
      refine Memory.read_foldl_write _ _ _ _ hm.ram ⟨(a, b), List.mem_filter.2 ⟨Map.mem_of_get hg, hp⟩, rfl⟩ fun e he hk => ?_
      have := Map.get_of_mem hm.l2 (n := a) (a := e.2) (by rw [← hk]; exact (List.mem_filter.1 he).1)
      exact Option.some.inj (this.symm.trans hg)

end

/-- A message signalled to a hart changes of the die its interrupt files alone. -/
theorem sendMsi_files (s : State) (hart id : Nat) :
    ∃ files out, sendMsi s hart id = (s.setSys { s.sys with imsic := files }).setOut out := by
  unfold sendMsi deliverMsi
  split
  · split
    · exact ⟨_, _, rfl⟩
    · exact ⟨s.sys.imsic, _, rfl⟩
  · exact ⟨s.sys.imsic, s.out, rfl⟩

theorem l2Flush_starts {s : State} {v : Word} (hr : s.sys.ready = true) (hg : s.sys.flushGo = false) :
    ∃ t, execL2Flush v s = .next t ∧ Claim.WorkKept s t ∧
      t.sys = { s.sys with flushGo := v.getLsbD 0, flushDone := s.sys.flushDone && !v.getLsbD 1 } :=
  ⟨s.setSys { s.sys with flushGo := v.getLsbD 0, flushDone := s.sys.flushDone && !v.getLsbD 1 },
    by rw [execL2Flush, byHart, if_pos hr, hg, if_neg Bool.false_ne_true], ⟨rfl, rfl, rfl, rfl⟩, rfl⟩

theorem l2FlushDone_flushes {s : State} (hg : s.sys.flushGo = true) (hm : MemGood s.mem) :
    ∃ t, execL2FlushDone s = .next t ∧ t.sys.flushGo = false ∧ t.sys.flushDone = true ∧ t.crews = s.crews ∧
      (∀ a, t.mem.home a = s.mem.home a) ∧
      ∀ a, s.sys.flushBase.toNat / 4096 * 4096 ≤ a →
        a < s.sys.flushBase.toNat / 4096 * 4096 + s.sys.flushPages.toNat * 4096 → t.mem.l2.get a = none := by
  let lo := s.sys.flushBase.toNat / 4096 * 4096
  let inRange (x : Nat) : Bool := decide (lo / 128 ≤ x / 128) && decide (x < lo + s.sys.flushPages.toNat * 4096)
  let s1 := (s.setMem (s.mem.flushL2 inRange)).setSys { s.sys with flushGo := false, flushDone := true }
  obtain ⟨files, out, ht⟩ := sendMsi_files s1 s.sys.hlthHart.toNat s.sys.hlthId.toNat
  refine ⟨sendMsi s1 s.sys.hlthHart.toNat s.sys.hlthId.toNat, by rw [execL2FlushDone, hg]; rfl, ?_⟩
  rw [ht]
  refine ⟨rfl, rfl, rfl, fun a => flushL2_home _ _ hm a, fun a h1 h2 => (flushL2_l2_get ..).trans (if_pos ?_)⟩
  simp only [inRange, Bool.and_eq_true, decide_eq_true_eq]
  exact ⟨Nat.div_le_div_right h1, h2⟩

theorem revclr_clears {s : State} {v : Word} (hr : s.sys.ready = true) (hv : v.getLsbD 0 = true) :
    ∃ t, execRevclr v s = .next t ∧ t.mem = { s.mem with revoked := [] } ∧ t.crews = s.crews :=
  ⟨s.setMem { s.mem with revoked := [] }, by rw [execRevclr, byHart, if_pos hr, if_pos hv], rfl, rfl⟩

/-! ## A forced release (11 R159, R160) -/

/-- A fabric address lies in a range that a decoder maps. -/
theorem target_fabric {d : SysDie} {a : Nat} (h : d.target a = .fabric) :
    ∃ x ∈ d.decoders, x.base ≤ a ∧ a < x.base + x.size := by
  unfold SysDie.target at h
  split at h; · cases h
  split at h; · cases h
  split at h
  · split at h
    · next hm =>
      rw [Bool.and_eq_true] at hm
      obtain ⟨x, hx, hx'⟩ := List.any_eq_true.1 hm.1
      simp only [Bool.and_eq_true, decide_eq_true_eq] at hx'
      obtain ⟨⟨⟨-, hlo⟩, hhi⟩, -⟩ := hx'
      exact ⟨x, hx, hlo, hhi⟩
    · cases h
  · dsimp only at h
    split at h
    · split at h <;> cases h
    · split at h <;> cases h

/-- A fabric address that has since left the decoders has no target. -/
theorem target_departed {d d' : SysDie} {a : Nat} (hr : d'.record = d.record) (h : d.target a = .fabric)
    (hd : (d'.departed.any fun e => e.has a) = true) : d'.target a = .none := by
  have hst : d'.stacks = d.stacks := by unfold SysDie.stacks; rw [hr]
  unfold SysDie.target at h ⊢
  rw [hst, hr]
  split at h; · cases h
  split at h; · cases h
  next h1 h2 =>
  rw [if_neg h1, if_neg h2]
  split at h
  · next h3 => rw [if_pos h3, hd]; simp
  · dsimp only at h
    split at h
    · split at h <;> cases h
    · split at h <;> cases h

/-- An address that has left the decoders raises 0x048, revoked or not. -/
theorem absentCause_departed {s : State} {a : Nat} (h : s.sys.target a = .none)
    (hd : (s.sys.departed.any fun e => e.has a) = true) : absentCause s a = some 0x048 := by
  have hf : ∀ f, f = @absentCause → f s a = some 0x048 := by
    delta absentCause
    rintro _ rfl
    dsimp -zeta only
    rw [h, hd]
    exact ite_self _
  exact hf _ rfl

theorem mappedParts_has {ds : List Decoder} {x : Decoder} (hx : x ∈ ds) {base size a : Nat} (h1 : x.base ≤ a)
    (h2 : a < x.base + x.size) (h3 : base ≤ a) (h4 : a < base + size) :
    ((mappedParts ds base size).any fun e => e.has a) = true := by
  refine List.any_eq_true.2 ⟨{ base := max x.base base, size := min (x.base + x.size) (base + size) - max x.base base }, ?_, ?_⟩
  · refine List.mem_filterMap.2 ⟨x, hx, ?_⟩
    dsimp only
    rw [if_pos (by omega)]
  · simp only [Extent.has, Bool.and_eq_true, decide_eq_true_eq]
    omega

/-- What a forced release does where no team runs, so that no context has an event to enter. -/
theorem releaseExtent_eq {s : State} (base size : Nat) (ht : s.teams = []) :
    ∃ revoked extents files out, releaseExtent s base size true =
      ((s.setMem { s.mem with l2 := s.mem.l2.filter fun e => !(decide (base ≤ e.1) && decide (e.1 < base + size)), revoked }).setSys
        { s.sys with extents, imsic := files
                     departed := cutExtents s.sys.departed base size ++ mappedParts s.sys.decoders base size }).setOut out := by
  unfold releaseExtent
  extract_lets inside pages mem dropped sys cut hit told
  have hnone : hit = [] := List.filter_eq_nil_iff.2 fun c _ => by
    rw [show cut.teams = [] from ht]; exact Bool.false_ne_true
  have htold : told = cut := by simp only [told, hnone, List.foldl_nil]
  obtain ⟨files, out, hm⟩ := sendMsi_files cut cut.sys.hlthHart.toNat cut.sys.hlthId.toNat
  rw [Bool.not_true, Bool.false_and, if_neg Bool.false_ne_true, htold, hm]
  exact ⟨_, _, _, _, rfl⟩

theorem forcedRelease_releases {s : State} {base size : Nat}
    (hd : ∃ d ∈ s.sys.decoders, d.base < base + size ∧ base < d.base + d.size) (ht : s.teams = []) :
    ∃ t, execExtentForcedRelease base size s = .next t ∧ t.crews = s.crews ∧
      (∀ a, t.mem.home a = if base ≤ a ∧ a < base + size then s.mem.ram.read a else s.mem.home a) ∧
      ∀ a, s.sys.target a = .fabric → base ≤ a → a < base + size → absentCause t a = some 0x048 := by
  have hmap : s.sys.mapsPart base size = true := by
    obtain ⟨d, hd, h1, h2⟩ := hd
    exact List.any_eq_true.2 ⟨d, hd, by simp [h1, h2]⟩
  refine ⟨releaseExtent s base size true, by rw [execExtentForcedRelease, hmap]; rfl, ?_⟩
  obtain ⟨revoked, extents, files, out, he⟩ := releaseExtent_eq base size ht
  rw [he]
  refine ⟨rfl, fun a => ?_, fun a hf h1 h2 => ?_⟩
  · simp only [State.setOut_mem, State.setSys_mem, State.setMem_mem, MemSys.home]
    rw [Map.get_filter_key s.mem.l2 fun a => !(decide (base ≤ a) && decide (a < base + size))]
    by_cases h : base ≤ a ∧ a < base + size
    · simp [h]
    · rw [if_neg h, if_pos (by
        rw [Bool.not_eq_true', Bool.and_eq_false_iff, decide_eq_false_iff_not, decide_eq_false_iff_not]; omega)]
  · obtain ⟨x, hx, h3, h4⟩ := target_fabric hf
    have hdep : ((cutExtents s.sys.departed base size ++ mappedParts s.sys.decoders base size).any fun e => e.has a) = true := by
      rw [List.any_append, mappedParts_has hx h3 h4 h1 h2, Bool.or_true]
    exact absentCause_departed (target_departed (d := s.sys) rfl hf hdep) hdep

end Sys2Proof.Machine

namespace Sys2Proof.Machine

/-! ## The fields of a register after a write (00 R5; 31 R346) -/

/-- Bits summed at their places are the bits of the sum. -/
theorem testBit_sumBits (b : Nat → Bool) (n k : Nat) :
    ((List.range n).foldl (fun a k => a + (b k).toNat * 2 ^ k) 0).testBit k = (decide (k < n) && b k) := by
  have hlt : ∀ n, (List.range n).foldl (fun a k => a + (b k).toNat * 2 ^ k) 0 < 2 ^ n := fun n => by
    induction n with
    | zero => simp
    | succ n ih =>
      rw [List.range_succ, List.foldl_append, List.foldl_cons, List.foldl_nil, Nat.pow_succ]
      cases b n <;> simp <;> omega
  induction n with
  | zero => simp
  | succ n ih =>
    rw [List.range_succ, List.foldl_append, List.foldl_cons, List.foldl_nil, Nat.add_comm, Nat.mul_comm,
      Nat.testBit_two_pow_mul_add _ (hlt n), ih]
    rcases Nat.lt_trichotomy k n with h | rfl | h
    · simp [h, Nat.lt_succ_of_lt h]
    · cases b k <;> simp
    · have h1 : k - n ≠ 0 := by omega
      rw [if_neg (by omega), decide_eq_false (by omega : ¬ k < n + 1), Bool.false_and]
      exact Nat.testBit_lt_two_pow (Nat.lt_of_le_of_lt (Bool.toNat_le _) (Nat.one_lt_two_pow h1))

section
variable (x : RegWrite) (hi lo old : Nat)

/-- A field keeps the bits of a half that is not written. -/
theorem RegWrite.field_testBit (k : Nat) : (x.field hi lo old).testBit k =
    (decide (k < hi + 1 - lo) && if (if lo + k < 32 then x.lo else x.hi) then x.v.testBit (lo + k) else old.testBit k) := by
  rw [← testBit_sumBits fun k => if (if lo + k < 32 then x.lo else x.hi) then x.v.testBit (lo + k) else old.testBit k]
  simp only [RegWrite.field]
  congr 2
  funext a k
  rw [apply_ite Bool.toNat, Nat.toNat_testBit, Nat.toNat_testBit]

/-- A field whose half is written takes the bits of the value. -/
theorem RegWrite.field_written (h : ∀ k, k < hi + 1 - lo → (if lo + k < 32 then x.lo else x.hi) = true) :
    x.field hi lo old = x.v / 2 ^ lo % 2 ^ (hi + 1 - lo) := by
  refine Nat.eq_of_testBit_eq fun k => ?_
  rw [RegWrite.field_testBit, Nat.testBit_mod_two_pow, Nat.testBit_div_two_pow, Nat.add_comm k lo]
  by_cases hk : k < hi + 1 - lo
  · rw [h k hk, if_pos rfl]
  · rw [decide_eq_false hk, Bool.false_and, Bool.false_and]

end

section
variable {x : RegWrite} (bit : Nat) (old : Bool)

/-- A bit whose half is written is the value's. -/
theorem RegWrite.flag_written (h : (if bit < 32 then x.lo else x.hi) = true) : x.flag bit old = x.v.testBit bit := by
  rw [RegWrite.flag, RegWrite.field_written, Nat.testBit_eq_decide_div_mod_eq]
  · rw [Nat.add_sub_cancel_left, Nat.pow_one]
  · intro k hk
    obtain rfl : k = 0 := by omega
    exact h

theorem RegWrite.clear_written (h : (if bit < 32 then x.lo else x.hi) = true) :
    x.clear bit old = (old && !x.v.testBit bit) := by
  rw [RegWrite.clear, h, Bool.true_and, Nat.testBit_eq_decide_div_mod_eq]

end

/-- A write of all 64 bits of a register. -/
structure RegWrite.Whole (x : RegWrite) : Prop where
  lo : x.lo = true
  hi : x.hi = true
  lt : x.v < 2 ^ 64

section
variable {x : RegWrite} (hx : x.Whole)
include hx

theorem RegWrite.Whole.half (n : Nat) : (if n < 32 then x.lo else x.hi) = true := by rw [hx.lo, hx.hi, ite_self]

theorem RegWrite.Whole.field (hi lo old : Nat) : x.field hi lo old = x.v / 2 ^ lo % 2 ^ (hi + 1 - lo) :=
  RegWrite.field_written _ _ _ _ fun _ _ => hx.half _

theorem RegWrite.Whole.flag (bit : Nat) (old : Bool) : x.flag bit old = x.v.testBit bit := RegWrite.flag_written _ _ (hx.half _)

theorem RegWrite.Whole.clear (bit : Nat) (old : Bool) : x.clear bit old = (old && !x.v.testBit bit) :=
  RegWrite.clear_written _ _ (hx.half _)

end

theorem bitNat_testBit (v bit : Nat) : bitNat (v.testBit bit) = v / 2 ^ bit % 2 := by
  rw [← Nat.toNat_testBit]; cases v.testBit bit <;> rfl

/-! ### Register blocks, read after a write -/

section
variable (s : State) (n : Nat)

@[simp] theorem State.subRing_setSubRing (r : SubRing) : (s.setSubRing n r).subRing n = r := by
  simp [State.subRing]
@[simp] theorem State.queue_setQueue (q : JobQueue) : (s.setQueue n q).queue n = q := by
  simp [State.queue]
@[simp] theorem State.context_setContext (c : Context) : (s.setContext n c).context n = c := by
  simp [State.context]
@[simp] theorem State.faultUnit_setFaultUnit (u : FaultUnit) : (s.setFaultUnit n u).faultUnit n = u := by
  simp [State.faultUnit]
@[simp] theorem FaultUnit.ring_set (u : FaultUnit) (r : FaultRing) : FaultUnit.ring { u with rings := u.rings.set n r } n = r := by
  simp [FaultUnit.ring]
@[simp] theorem Context.window_set (c : Context) (y : Window) : Context.window { c with windows := c.windows.set n y } n = y := by
  simp [Context.window]

end

section
variable (s : State) {x : RegWrite} (hx : x.Whole) (n : Nat)
include hx

theorem ring_readsBack :
    let r := s.subRing n
    readSlot (writeSlot s x (.ring n 0)) (.ring n 0) = x.v % 2 ^ 57 / 4096 * 4096 ∧
      readSlot (writeSlot s x (.ring n 8)) (.ring n 8) = x.v % 16 ∧ writeSlot s x (.ring n 0x10) = s ∧
      readSlot (writeSlot s x (.ring n 0x18)) (.ring n 0x18) = x.v % 2 + 2 * bitNat (r.overrun && !x.v.testBit 1) +
        4 * bitNat (r.rdfault && !x.v.testBit 2) + 16 * (x.v / 16 % 16) := by
  refine ⟨?_, ?_, rfl, ?_⟩
  · simp [readSlot, writeSlot, writeRing, RegWrite.addr, hx.field]
    omega
  · simp [readSlot, writeSlot, writeRing, hx.field]
  · simp [readSlot, writeSlot, writeRing, hx.field, hx.flag, hx.clear, bitNat_testBit, -Nat.testBit_zero]

theorem queue_readsBack :
    readSlot (writeSlot s x (.queue n 0)) (.queue n 0) =
        x.v % 128 + 128 * bitNat ((s.queue n).fault && !x.v.testBit 7) + 256 * (x.v / 256 % 2) ∧
      writeSlot s x (.queue n 0x10) = s := by
  refine ⟨?_, rfl⟩
  simp [readSlot, writeSlot, writeQueue, hx.field, hx.flag, hx.clear, bitNat_testBit]
  omega

theorem queue_fields :
    let q := (writeSlot s x (.queue n 0)).queue n
    q.ctx.toNat = x.v % 16 ∧ q.cls.toNat = x.v / 16 % 4 ∧ q.en = x.v.testBit 6 ∧ q.budget = x.v.testBit 8 ∧
      q.fault = ((s.queue n).fault && !x.v.testBit 7) ∧ q.brem = (s.queue n).brem := by
  simp [writeSlot, writeQueue, hx.field, hx.flag, hx.clear]

theorem context_readsBack :
    readSlot (writeSlot s x (.context n 8)) (.context n 8) = x.v % 2 ^ 32 ∧
      readSlot (writeSlot s x (.context n 0x10)) (.context n 0x10) = x.v % 2 ^ 57 / 64 * 64 ∧
      readSlot (writeSlot s x (.context n 0x18)) (.context n 0x18) = x.v % 2 ^ 57 / 64 * 64 ∧
      readSlot (writeSlot s x (.context n 0x20)) (.context n 0x20) = x.v % 2 ^ 24 := by
  refine ⟨?_, ?_, ?_, ?_⟩ <;> simp [readSlot, writeSlot, writeContext, RegWrite.addr, hx.field] <;> omega

/-- The translation register keeps a mode it does not know (11 R133). -/
theorem context_translation :
    let c := s.context n
    let t := writeSlot s x (.context n 0x28)
    (t.context n).ppn.toNat = x.v % 2 ^ 44 ∧ (t.context n).asid.toNat = x.v / 2 ^ 44 % 2 ^ 16 ∧
      (t.context n).mode = (if x.v / 2 ^ 60 = 10 then 10#4 else c.mode) ∧
      readSlot t (.context n 0x28) = x.v % 2 ^ 60 + (t.context n).mode.toNat * 2 ^ 60 := by
  have hmode : x.v / 2 ^ 60 % 2 ^ (63 + 1 - 60) = x.v / 2 ^ 60 := Nat.mod_eq_of_lt (by have := hx.lt; omega)
  refine ⟨?_, ?_, ?_, ?_⟩
  · simp [writeSlot, writeContext, hx.field]
  · simp [writeSlot, writeContext, hx.field]
  · simp only [writeSlot, writeContext, hx.field, hmode]
    simp
  · simp [readSlot, writeSlot, writeContext, hx.field]
    omega

theorem window_readsBack (k : Nat) :
    readSlot (writeSlot s x (.window n k 0)) (.window n k 0) = x.v % 2 ^ 57 / 4096 * 4096 ∧
      readSlot (writeSlot s x (.window n k 8)) (.window n k 8) =
        x.v % 32 + x.v / 256 % 4 * 256 + x.v / 2 ^ 15 % 2 * 2 ^ 15 := by
  constructor
  · simp [readSlot, writeSlot, writeWindow, RegWrite.addr, hx.field]
    omega
  · simp [readSlot, writeSlot, writeWindow, hx.field, hx.flag, bitNat_testBit]

theorem event_readsBack :
    let c := s.context n
    readSlot (writeSlot s x (.event n 0)) (.event n 0) = x.v % 2 ^ 57 ∧
      readSlot (writeSlot s x (.event n 8)) (.event n 8) = x.v % 2 ^ 52 / 4096 * 4096 ∧
      readSlot (writeSlot s x (.event n 0x10)) (.event n 0x10) = x.v % 16 + 2 ^ 16 * bitNat (c.evlost && !x.v.testBit 16) ∧
      readSlot (writeSlot s x (.event n 0x18)) (.event n 0x18) = c.evhead.toNat + x.v / 2 ^ 32 * 2 ^ 32 ∧
      readSlot (writeSlot s x (.event n 0x20)) (.event n 0x20) = x.v % 2 ^ 32 := by
  have hv := hx.lt
  refine ⟨?_, ?_, ?_, ?_, ?_⟩ <;>
    simp [readSlot, writeSlot, writeEventReg, RegWrite.addr, hx.field, hx.flag, hx.clear, bitNat_testBit, -Nat.testBit_zero] <;>
    omega

theorem fault_readsBack :
    let u := s.faultUnit n
    (∀ k, k < 3 →
      readSlot (writeSlot s x (.fault n (0x20 * k))) (.fault n (0x20 * k)) = x.v % 2 ^ 52 / 4096 * 4096 ∧
        readSlot (writeSlot s x (.fault n (0x20 * k + 8))) (.fault n (0x20 * k + 8)) = x.v % 16) ∧
      readSlot (writeSlot s x (.fault n 0x50)) (.fault n 0x50) = (u.ring 2).head.toNat + x.v / 2 ^ 32 * 2 ^ 32 ∧
      readSlot (writeSlot s x (.fault n 0x60)) (.fault n 0x60) = min 1024 u.migrations.length +
        2 ^ 16 * bitNat (u.starved && !x.v.testBit 16) + 2 ^ 17 * bitNat (u.donefull && !x.v.testBit 17) ∧
      readSlot (writeSlot s x (.fault n 0x68)) (.fault n 0x68) = x.v % 2 ^ 24 := by
  have hv := hx.lt
  refine ⟨fun k hk => ?_, ?_, ?_, ?_⟩
  · have h1 : 0x20 * k < 0x60 := by omega
    have h2 : 0x20 * k + 8 < 0x60 := by omega
    have h3 : (0x20 * k + 8) / 0x20 = k := by omega
    have h4 : (0x20 * k + 8) % 0x20 = 8 := by omega
    constructor
    · simp [readSlot, writeSlot, writeFault, RegWrite.addr, hx.field, h1]
      omega
    · simp [readSlot, writeSlot, writeFault, hx.field, h2, h3, h4]
  · simp [readSlot, writeSlot, writeFault, hx.field]
    omega
  · simp [readSlot, writeSlot, writeFault, hx.clear]
    omega
  · simp [readSlot, writeSlot, writeFault, hx.field]
    omega

omit n in
theorem flush_readsBack :
    readSlot (writeSlot s x (.flush 0)) (.flush 0) = x.v % 2 ^ 52 / 4096 * 4096 ∧
      readSlot (writeSlot s x (.flush 8)) (.flush 8) = x.v % 2 ^ 32 ∧ writeSlot s x (.flush 0x18) = s := by
  refine ⟨?_, ?_, rfl⟩ <;> simp [readSlot, writeSlot, writeFlush, RegWrite.addr, hx.field]
  omega

omit n in
theorem health_readsBack :
    writeSlot s x (.health 0) = s ∧ writeSlot s x (.health 8) = s ∧
      readSlot (writeSlot s x (.health 0x10)) (.health 0x10) = x.v % 2 ^ 24 := by
  refine ⟨rfl, rfl, ?_⟩
  simp [readSlot, writeSlot, writeHealth, hx.field]
  omega

omit n in
theorem pooling_readsBack :
    readSlot (writeSlot s x (.pooling 0)) (.pooling 0) = x.v % 2 ^ 39 / 4096 * 4096 ∧
      readSlot (writeSlot s x (.pooling 8)) (.pooling 8) = x.v % 2 ^ 27 ∧
      (s.sys.pbmGo = true → writeSlot s x (.pooling 0x10) = s) ∧
      (s.sys.pbmGo = false → readSlot (writeSlot s x (.pooling 0x10)) (.pooling 0x10) =
        x.v % 8 + x.v / 16 % 4 * 16 + 256 * bitNat (x.v.testBit 8 && decide (x.v / 16 % 4 < 2))) ∧
      readSlot (writeSlot s x (.pooling 0x18)) (.pooling 0x18) = x.v % 2 ^ 52 / 8 * 8 ∧
      readSlot (writeSlot s x (.pooling 0x20)) (.pooling 0x20) = x.v % 2 ^ 48 := by
  refine ⟨?_, ?_, fun h => ?_, fun h => ?_, ?_, ?_⟩
  · simp [readSlot, writeSlot, writePooling, RegWrite.addr, hx.field]
    omega
  · simp [readSlot, writeSlot, writePooling, hx.field]
  · simp [writeSlot, writePooling, h]
  · simp [readSlot, writeSlot, writePooling, hx.field, hx.flag, h]
    omega
  · simp [readSlot, writeSlot, writePooling, RegWrite.addr, hx.field]
    omega
  · simp [readSlot, writeSlot, writePooling, hx.field]

end

theorem registerWrite_writes {s : State} {pa width : Nat} {v : BitVec 64} {r : RegSlot} (hr : s.sys.ready = true)
    (hw : width = 4 ∨ width = 8) (ha : pa % width = 0) (hs : regSlot s.sys (pa / 8 * 8) = some r) :
    let high := decide (pa % 8 = 4)
    let x : RegWrite :=
      { v := if high then v.toNat % 2 ^ 32 * 2 ^ 32 else v.toNat, lo := !high, hi := high || decide (width = 8) }
    ownRow x r = false → execRegisterWrite pa width v s = .next (writeSlot s x r) := by
  intro high x ho
  have hx : x = { v := if pa % 8 = 4 then v.toNat % 2 ^ 32 * 2 ^ 32 else v.toNat, lo := !decide (pa % 8 = 4),
                  hi := decide (pa % 8 = 4) || decide (width = 8) } := by simp [x, high]
  rw [hx] at ho ⊢
  rw [execRegisterWrite, if_neg (by rcases hw with rfl | rfl <;> simp [hr, ha])]
  simp only [hs, ho, Bool.false_eq_true, if_false]

end Sys2Proof.Machine

/-- 00 R5, 03 R33, 11 R133, R138 and R155, 27 R318 and 31 R347, R352, R353 and R356. -/
theorem Sys2Proof.Machine.registersReadBackWhatIsWritten : Sys2Proof.Claim.RegistersReadBackWhatIsWritten := by
  refine ⟨fun x hi lo old k h => ?_, fun s x hlo hhi hv => ?_⟩
  · rw [RegWrite.field_testBit, decide_eq_true (by omega : k < hi + 1 - lo), Bool.true_and]
  · have hx : x.Whole := ⟨hlo, hhi, hv⟩
    obtain ⟨hf0, hf8, hf18⟩ := flush_readsBack s hx
    obtain ⟨hh0, hh8, hh10⟩ := health_readsBack s hx
    exact ⟨ring_readsBack s hx, queue_readsBack s hx, context_readsBack s hx, window_readsBack s hx, event_readsBack s hx,
      fault_readsBack s hx, hf0, hf8, hf18, hh0, hh8, hh10, pooling_readsBack s hx⟩

namespace Sys2Proof.Machine

/-! ## A pre-emption leaves the module ready (31 R354)

A forced reset writes a free part of what its teams' commands and jobs still have to write, settles launches and sends events.
None of it takes READY away: one lemma for each function it goes through. -/

/-- The module is READY, so that its harts are released. -/
structure Ready (s : State) : Prop where
  ready : s.sys.ready = true

theorem foldl_holds {σ ι : Type} {P : σ → Prop} {f : σ → ι → σ} (h : ∀ s i, P s → P (f s i)) (is : List ι) {s : σ}
    (hs : P s) : P (is.foldl f s) := by
  induction is generalizing s with
  | nil => exact hs
  | cons i rest ih => exact ih (h s i hs)

section
variable {s : State} (h : Ready s)
include h

theorem Ready.setMem (m : MemSys) : Ready (s.setMem m) := ⟨h.ready⟩
theorem Ready.setNear (m : NearMem) : Ready (s.setNear m) := ⟨h.ready⟩
theorem Ready.setDisp (d : Dispatcher) : Ready (s.setDisp d) := ⟨h.ready⟩
theorem Ready.setCores (m : Map Core) : Ready (s.setCores m) := ⟨h.ready⟩
theorem Ready.setTeams (m : Map Team) : Ready (s.setTeams m) := ⟨h.ready⟩
theorem Ready.setTctxs (m : Map TeamCtx) : Ready (s.setTctxs m) := ⟨h.ready⟩
theorem Ready.setCrews (m : Map Crew) : Ready (s.setCrews m) := ⟨h.ready⟩
theorem Ready.setSleepers (m : Map Sleeper) : Ready (s.setSleepers m) := ⟨h.ready⟩
theorem Ready.setLaunches (m : Map Launch) : Ready (s.setLaunches m) := ⟨h.ready⟩
theorem Ready.emit (o : Output) : Ready (s.emit o) := ⟨h.ready⟩
theorem Ready.setContext (n : Nat) (c : Context) : Ready (s.setContext n c) := ⟨h.ready⟩
theorem Ready.setQueue (n : Nat) (q : JobQueue) : Ready (s.setQueue n q) := ⟨h.ready⟩
theorem Ready.setCore (n : Nat) (c : Core) : Ready (s.setCore n c) := ⟨h.ready⟩
theorem Ready.setEngine (n : Nat) (e : StackEngine) : Ready (s.setEngine n e) := ⟨h.ready⟩
theorem Ready.setFaultUnit (d : Nat) (u : FaultUnit) : Ready (s.setFaultUnit d u) := ⟨h.ready⟩
theorem Ready.setSys {d : SysDie} (hd : d.ready = s.sys.ready) : Ready (s.setSys d) := ⟨hd.trans h.ready⟩
theorem Ready.dropSpoiled (m : Map Unit) : Ready (s.setSys { s.sys with spoiled := m }) := h.setSys rfl
theorem Ready.dropReservations (m : Map Nat) : Ready (s.setSys { s.sys with reservations := m }) := h.setSys rfl

/-! ### Stores and messages -/

theorem Ready.sendMsi (hart id : Nat) : Ready (sendMsi s hart id) := by
  obtain ⟨files, out, he⟩ := sendMsi_files s hart id
  rw [he]
  exact ⟨h.ready⟩

theorem Ready.spoilRows (pa n : Nat) : Ready (spoilRows s pa n) := by
  unfold Machine.spoilRows
  split
  · exact h
  · exact h.setNear _

theorem Ready.spoilFrames (pa n : Nat) : Ready (spoilFrames s pa n) := by
  unfold Machine.spoilFrames
  extract_lets kept _ s1 pages ptes
  have h1 : Ready s1 := by
    unfold s1
    split
    · exact h
    · exact h.dropSpoiled _
  clear_value s1
  split
  · exact h1
  · split
    · exact h1
    · exact h1.dropSpoiled _

theorem Ready.noteStore (core pa n : Nat) : Ready (noteStore s core pa n) := by
  have h1 := (h.spoilRows pa n).spoilFrames pa n
  unfold Machine.noteStore
  generalize Machine.spoilFrames (Machine.spoilRows s pa n) pa n = t at h1 ⊢
  refine foldl_holds (fun s x hs => ?_) _ ?_
  · split
    · split
      · exact hs.setEngine _ _
      · exact hs
    · exact hs
  · split
    · exact h1
    · exact h1.dropReservations _

theorem Ready.storePhysical (core pa : Nat) (bs : List Byte) : Ready (storePhysical s core pa bs) :=
  (h.noteStore core pa bs.length).setMem _

theorem Ready.storeHome (core : Nat) (m : Mapped) (bs : List Byte) : Ready (storeHome s core m bs) := by
  have hf : ∀ f, f = @Machine.storeHome → Ready (f s core m bs) := by
    delta Machine.storeHome
    rintro _ rfl
    dsimp -zeta only
    generalize s.sys.target m.pa = x
    have hm := (h.noteStore core m.pa bs.length)
    cases x with
    | window p =>
      change Ready (deviceWrite s p m.pa bs)
      unfold deviceWrite
      split
      · exact h
      · exact h.emit _
    | _ => exact hm.setMem _
  exact hf _ rfl

theorem Ready.sendCtxIrq (ctx : Nat) : Ready (sendCtxIrq s ctx) := h.sendMsi _ _

theorem Ready.writeEvent (ctx : Nat) (ds : List Nat) : Ready (writeEvent s ctx ds) :=
  ((h.storePhysical _ _ _).setContext _ _).sendCtxIrq _

theorem Ready.contextEvent (ctx cause d1 d2 d3 team : Nat) : Ready (contextEvent s ctx cause d1 d2 d3 team) := by
  unfold Machine.contextEvent
  extract_lets
  split
  · exact h.setContext _ _
  · exact h.writeEvent _ _

theorem Ready.noticeEvent (ctx cause : Nat) : Ready (noticeEvent s ctx cause) := by
  unfold Machine.noticeEvent
  extract_lets
  split
  · exact (h.contextEvent _ _ _ _ _ _).sendCtxIrq _
  · exact h.contextEvent _ _ _ _ _ _

end

end Sys2Proof.Machine

namespace Sys2Proof.Machine

section
variable {s : State} (h : Ready s)
include h

/-! ### Accesses of engines, and the migrations they start -/

theorem Ready.noteAccess (core ctx va : Nat) (store : Bool) : Ready (noteAccess s core ctx va store) := by
  obtain ⟨m, he⟩ := noteAccess_eq s core ctx va store
  rw [he]
  exact h.setMem m

theorem Ready.noteRange (core ctx ea n : Nat) (store : Bool) : Ready (noteRange s core ctx ea n store) :=
  foldl_holds (fun _ e hs => hs.noteAccess core ctx e.1 store) _ h

theorem Ready.noteReads (core ctx : Nat) (addrs : List Nat) : Ready (noteReads s core ctx addrs) := by
  refine foldl_holds (P := fun x : State × Bool => Ready x.1) (fun x page hx => ?_) _ h
  split
  · exact hx
  · split
    · exact hx.noteAccess _ _ _ _
    · exact hx

theorem Ready.carry (x : Carried) (pa : Nat) : Ready (carry s x pa) := h.setMem _

theorem Ready.engineWrote (e pa : Nat) (release : Bool) : Ready (engineWrote s e pa release) := by
  unfold Machine.engineWrote AgentOrder.wrote
  split
  · exact h.carry _ _
  · split
    · exact h
    · exact h.carry _ _

theorem Ready.engineNote (e ctx ea n : Nat) (acquire : Bool) : Ready (engineNote s e ctx ea n acquire) :=
  (h.noteRange _ _ _ _ _).setEngine _ _

theorem Ready.forgetUnread (who : Agent) : Ready (forgetUnread s who) := by
  unfold Machine.forgetUnread
  split
  · exact h.setSys rfl
  · exact h

theorem Ready.setMigration (die pte : Nat) (f : Migration → Migration) : Ready (setMigration s die pte f) := h.setFaultUnit _ _

theorem Ready.grabFrames (die : Nat) : Ready (grabFrames s die) := by
  refine foldl_holds (fun s m hs => ?_) _ h
  split
  · exact hs
  · extract_lets u n r a frame s1
    split
    · split
      · exact hs
      · exact (hs.setFaultUnit _ _).noticeEvent _ _
    · exact (hs.setFaultUnit _ _).setMigration _ _ _

theorem Ready.startMigration (die ctx va : Nat) (pte : BitVec 64) (pteAt : Nat) (big : Bool) (who : Option Agent) :
    Ready (startMigration s die ctx va pte pteAt big who) := by
  unfold Machine.startMigration
  extract_lets
  split
  · exact h.setMigration _ _ _
  · exact (h.setFaultUnit _ _).grabFrames _

theorem Ready.engineWrite (who : Agent) (core ctx ea : Nat) (bs : List Byte) (plain : Bool) :
    Ready (engineWrite s who core ctx ea bs plain).1 := by
  unfold Machine.engineWrite
  split
  · exact h
  · next p a b _ => exact h.startMigration (faultDie s core) ctx ea p a b (some who)
  · exact foldl_holds (P := fun x : State × List Byte => Ready x.1) (fun x e hx => hx.storeHome _ _ _) _ (h.noteRange _ _ _ _ _)

theorem Ready.enginePoison (core ctx ea n : Nat) (plain : Bool) : Ready (enginePoison s core ctx ea n plain) := by
  unfold Machine.enginePoison
  split
  · exact h.setMem _
  · exact h

end

end Sys2Proof.Machine

namespace Sys2Proof.Machine

/-- A step on a state and more that leaves the state ready leaves it ready at its end. -/
theorem ready_of_foldl {σ ι : Type} {f : State × σ → ι → State × σ} {is : List ι} {s t : State} {a b : σ}
    (he : is.foldl f (s, a) = (t, b)) (hf : ∀ x i, Ready x.1 → Ready (f x i).1) (hs : Ready s) : Ready t := by
  have h := foldl_holds (P := fun x : State × σ => Ready x.1) hf is (s := (s, a)) hs
  rw [he] at h
  exact h

section
variable {s : State} (h : Ready s)
include h

/-! ### The work of a command that a kill cuts short (03 R51) -/

theorem Ready.putVirt (who : Agent) (core ctx : Nat) (plain : Bool) (ps : List Put) :
    Ready (putVirt s who core ctx plain ps).1 := by
  refine foldl_holds (P := fun x : State × Option (Nat × Nat) => Ready x.1) (fun x r hx => ?_) _ h
  split
  · exact hx
  · have hw := hx.engineWrite who core ctx (va57 r.at') r.vals plain
    split
    · next t c he => rw [he] at hw; exact hw
    · next t g _ he =>
      rw [he] at hw
      exact foldl_holds (fun _ a hs => hs.enginePoison core ctx (va57 a) 1 plain) _ hw

theorem Ready.spoilResult (core team : Nat) (d : MillDest) : Ready (spoilResult s core team d) := by
  cases d with
  | pad k n => exact h.setMem _
  | tile t first rows cols variance =>
    unfold Machine.spoilResult
    dsimp -zeta only
    extract_lets k s1 keys
    have h1 : Ready s1 := by
      unfold s1
      split
      · exact h.setCore _ _
      · exact h
    clear_value s1
    split
    · exact h1
    · exact h1.setMem _

theorem Ready.spoilFootprints (team k n : Nat) : Ready (spoilFootprints s team k n) := by
  refine foldl_holds (fun s e hs => ?_) _ h
  extract_lets hit overs s1 c
  split
  · exact hs
  · exact Ready.setCore (foldl_holds (fun _ f hs => hs.spoilResult _ _ _) _ hs) _ _

theorem Ready.scratchWrite (writers : List Nat) (team k : Nat) (bs : List Byte) : Ready (scratchWrite s writers team k bs) :=
  (h.setMem _).spoilFootprints _ _ _

theorem Ready.putPad (core team : Nat) (ps : List Put) : Ready (putPad s core team ps) := by
  refine foldl_holds (fun s r hs => ?_) _ h
  extract_lets s1
  have h1 : Ready s1 := hs.scratchWrite _ _ _ _
  clear_value s1
  split
  · exact h1
  · exact h1.setMem _

/-- Where a command's work ends, the module is ready. -/
def Done.Ready : Done → Prop
  | .ended s _ _ _ => Machine.Ready s
  | .waits _ => True

theorem Ready.performPlan (who : Agent) (core ctx : Nat) (toPad : Option Nat) (plain : Bool) (reads : List Nat)
    (plan : State → List (Except Stop (List Put))) : (performPlan s who core ctx toPad plain reads plan).Ready := by
  unfold Machine.performPlan
  extract_lets s1 pieces pageIn firstBad
  have h1 : Ready s1 := h.noteReads _ _ _
  clear_value s1
  split
  · trivial
  · split
    next t c bad he =>
    have ht : Ready t := by
      refine ready_of_foldl he (fun x piece hx => ?_) h1
      split
      · split
        · exact hx.putPad _ _ _
        · exact hx.putVirt _ _ _ _ _
      · exact hx
    extract_lets c
    clear_value c
    cases c <;> exact ht

theorem Ready.combineFold (core ctx win : Nat) : Ready (combineFold s core ctx win).1 := by
  refine foldl_holds (P := fun x : State × Nat × Nat => Ready x.1) (fun x pa hx => ?_) _ h
  obtain ⟨t, st, c⟩ := x
  dsimp only
  split
  · exact hx
  · split
    · exact hx
    · exact Ready.setMem (hx.noteStore _ _ _) _

theorem Ready.performWork (core : Nat) (c : Command) : (performWork s core c).Ready := by
  unfold Machine.performWork
  extract_lets who
  split
  · split
    · exact h
    · exact h.performPlan _ _ _ _ _ _ _
  · split
    · exact h
    · extract_lets sp dp toPad
      split
      · exact h
      · exact h.performPlan _ _ _ _ _ _ _
  · exact h.combineFold _ _ _
  · exact h

end

end Sys2Proof.Machine

namespace Sys2Proof.Machine

section
variable {s : State} (h : Ready s)
include h

/-! ### Killing a team (03 R51) -/

theorem Ready.chargeMill (core team clocks : Nat) : Ready (chargeMill s core team clocks) := by
  unfold Machine.chargeMill
  split
  · exact h.setCore _ _
  · exact h

theorem Ready.accrueMill (core : Nat) : Ready (accrueMill s core) := by
  unfold Machine.accrueMill
  split
  · exact h
  · exact (h.chargeMill _ _ _).setCore _ _

theorem Ready.leaveCore (team core : Nat) : Ready (leaveCore s team core) :=
  ((h.setMem _).setCore _ _).setTctxs _

/-- A command of a killed team, performed or not (log 49). -/
theorem Ready.performFreely (core : Nat) (go : Bool) (c : Command) :
    Ready (if go then (match Machine.performWork s core c with | .ended s _ _ _ => s | .waits _ => s) else s) := by
  have hw := h.performWork core c
  split
  · cases he : Machine.performWork s core c with
    | ended t st cause ea => rw [he] at hw; exact hw
    | waits e => exact h
  · exact h

theorem Ready.killTeam (team : Nat) : Ready (killTeam s team) := by
  unfold Machine.killTeam
  split
  · exact h
  · next t _ =>
    extract_lets size s1 keys s2 s3 s4
    have h1 : Ready s1 := by
      refine foldl_holds (fun s c hs => ?_) _ h
      extract_lets a1 mine a2 k a3 a4
      have h2 : Ready a2 := foldl_holds (fun _ x hx => hx.performFreely _ _ x) _ (hs.accrueMill c)
      have h4 : Ready a4 := by
        refine foldl_holds (fun s n hx => ?_) _ (h2.setCore _ _)
        split
        · exact hx.setMem _
        · exact hx
      clear_value a4
      split
      · exact h4.setMem _
      · exact h4
    exact Ready.setTeams (foldl_holds (fun _ c hx => hx.leaveCore _ _) _ ((h1.setSleepers _).setCrews _)) _

end

/-! ### The jobs of the stack engines (29 R335, R337) -/

/-- The module is ready in the state a job has reached. -/
structure JobRun.Ready (r : JobRun) : Prop where
  state : Machine.Ready r.s

section
variable {r : JobRun} (h : r.Ready)
include h

theorem JobRun.Ready.halted (x : Option Halt) : JobRun.Ready { r with halt := x } := ⟨h.state⟩

omit h in
theorem JobRun.ready_at {s : State} (hs : Machine.Ready s) : JobRun.Ready { r with s := s } := ⟨hs⟩

theorem JobRun.Ready.boundary : r.boundary.Ready := by
  unfold JobRun.boundary
  split
  · exact ⟨h.state⟩
  · exact ⟨h.state⟩
  · exact h

theorem JobRun.Ready.store (e ctx a : Nat) (bs : List Byte) (release : Bool) : (r.store e ctx a bs release).Ready := by
  unfold JobRun.store
  split
  · exact h
  · extract_lets ea
    split
    · exact h.halted _
    · exact h.halted _
    · have hw := h.state.engineWrite r.who (engineCore e) ctx ea bs false
      split
      · next s _ _ pa he => rw [he] at hw; exact JobRun.ready_at (hw.engineWrote e pa release)
      · next s _ _ he => rw [he] at hw; exact JobRun.ready_at hw

theorem JobRun.Ready.load (e ctx a n : Nat) (acquire : Bool) : (r.load e ctx a n acquire).1.Ready := by
  unfold JobRun.load
  split
  · exact h
  · extract_lets ea
    split
    · exact h.halted _
    · exact h.halted _
    · split
      · exact h.halted _
      · exact JobRun.ready_at (h.state.engineNote e ctx ea n acquire)

theorem JobRun.Ready.atomic (e ctx a : Nat) (store : Bool) : (r.atomic e ctx a store).Ready := by
  unfold JobRun.atomic
  split
  · exact h
  · extract_lets ea
    split
    · split
      · exact h.halted _
      · exact h
    · exact h

theorem JobRun.Ready.storeGen (e ctx a v : Nat) (release : Bool) : (r.storeGen e ctx a v release).Ready :=
  (h.atomic e ctx a true).store _ _ _ _ _

theorem JobRun.Ready.loadGen (e ctx a : Nat) : (r.loadGen e ctx a).1.Ready := (h.atomic e ctx a false).load _ _ _ _ _

theorem JobRun.Ready.endWith (status cause : Nat) : (r.endWith status cause).Ready := by
  unfold JobRun.endWith
  split
  · exact h.halted _
  · exact h

theorem JobRun.Ready.anyway {f : JobRun → JobRun} (hf : ∀ r : JobRun, r.Ready → (f r).Ready) : (r.anyway f).Ready :=
  JobRun.ready_at (hf _ (h.halted none)).state

theorem JobRun.Ready.swapGen (e ctx : Nat) (b : UpdateBlock) (gen : Nat) : (r.swapGen e ctx b gen).Ready := by
  unfold JobRun.swapGen
  have hl := h.loadGen e ctx b.gen
  split
  next t bs he =>
  rw [he] at hl
  split
  · exact hl.endWith _ _
  · exact hl.storeGen _ _ _ _ _

theorem JobRun.Ready.finishGen (e ctx : Nat) (b : UpdateBlock) (steps next : Nat) : (finishGen e ctx b steps next r).Ready := by
  unfold Machine.finishGen
  split
  · exact h.storeGen _ _ _ _ _
  · exact h
  · exact h.anyway fun _ hr => hr.storeGen _ _ _ _ _

theorem JobRun.Ready.loadStore (e ctx a n b : Nat) (f : List Byte → List Byte) :
    (let (r, bs) := r.boundary.load e ctx a n
     r.store e ctx b (f bs)).Ready := by
  have hl := h.boundary.load e ctx a n false
  exact hl.store _ _ _ _ _

theorem JobRun.Ready.copyWeights (e ctx : Nat) (b : UpdateBlock) : (copyWeights e ctx b r).Ready := by
  unfold Machine.copyWeights
  extract_lets n r1
  have h1 : r1.Ready := foldl_holds (fun r i hr => hr.loadStore e ctx (b.master + 4 * i) 4 (b.plain + 2 * i) fun bs =>
    natBytes 2 (bf16Rne (BitVec.ofNat 32 (bytesNat bs)))) _ h
  exact foldl_holds (fun r k hr => hr.loadStore e ctx (b.plain + 2 * (k % b.rows * b.cols + k / b.rows)) 2 (b.trans + 2 * k) id) _
    h1

theorem JobRun.Ready.pairfixJob (e ctx : Nat) (bs : List Byte) (gen : Nat) : (pairfixJob e ctx bs gen r).Ready := by
  unfold Machine.pairfixJob
  extract_lets b r1
  have h1 : r1.Ready := h.swapGen _ _ _ _
  clear_value r1
  split
  · exact h1
  · exact (h1.copyWeights _ _ _).finishGen _ _ _ _ _

end

end Sys2Proof.Machine

namespace Sys2Proof.Machine

/-! ### An UPDATE cut short (29 R335) -/

theorem JobRun.ready_of_eq {p : JobRun × List Byte} {r : JobRun} {bs : List Byte} (he : p = (r, bs)) (h : p.1.Ready) :
    r.Ready := by
  rw [he] at h
  exact h

theorem updateStep_ready {u : Updating} (h : u.run.Ready) (e ctx : Nat) (b : UpdateBlock) (scale : Word) (i : Nat) (g : Word) :
    (updateStep e ctx b scale u i g).run.Ready := by
  unfold updateStep
  have hb := h.boundary
  extract_lets run u1
  split
  · exact hb
  · split
    · exact hb
    · split
      next r1 mb he1 =>
      have h1 := JobRun.ready_of_eq he1 (hb.load _ _ _ _ _)
      split
      next r2 vb he2 =>
      have h2 := JobRun.ready_of_eq he2 (h1.load _ _ _ _ _)
      split
      next r3 wb he3 =>
      have h3 := JobRun.ready_of_eq he3 (h2.load _ _ _ _ _)
      extract_lets x r4
      split
      · exact h3
      · have h4 : r4.Ready := by
          unfold r4
          split
          · exact h3
          · exact ((h3.store _ _ _ _ _).store _ _ _ _ _).store _ _ _ _ _
        exact h4

section
variable {r : JobRun} (h : r.Ready)
include h

theorem JobRun.Ready.updateJob (e ctx a : Nat) (bs : List Byte) (gen : Nat) : (updateJob e ctx a bs gen r).Ready := by
  unfold Machine.updateJob
  extract_lets b n
  have hskip : (if b.step then r.load e ctx b.skipf 8 true else (r, [])).1.Ready := by
    split
    · exact h.load _ _ _ _ _
    · exact h
  split
  next r1 sb he1 =>
  have h1 := JobRun.ready_of_eq he1 hskip
  split
  · exact h1
  · split
    · exact h1.store _ _ _ _ _
    · split
      next r2 gs he2 =>
      have hgrad := JobRun.ready_of_eq he2 (h1.load _ _ _ _ _)
      split
      · exact hgrad
      · extract_lets g bad sum nrm scale r3 u write r4
        split
        · exact (hgrad.store _ _ _ _ _).store _ _ _ _ _
        · have hswap : r3.Ready := hgrad.swapGen _ _ _ _
          split
          · exact hswap
          · have hu : u.run.Ready := foldl_holds (P := fun u : Updating => u.run.Ready)
              (fun u i hu => updateStep_ready hu e ctx b scale i (g i)) _ hswap
            have hr4 : r4.Ready := by
              unfold r4
              split
              · exact hu.store _ _ _ _ _
              · exact hu.anyway fun _ hr => hr.store _ _ _ _ _
            exact (hr4.copyWeights _ _ _).finishGen _ _ _ _ _

theorem JobRun.Ready.blockWork (e : Nat) (j : Job) (bs : List Byte) (gen : Nat) : (blockWork e j bs gen r).Ready := by
  unfold Machine.blockWork
  split
  · exact h.updateJob _ _ _ _ _
  · exact h.pairfixJob _ _ _ _

end

section
variable {s : State} (h : Ready s)
include h

theorem Ready.stopSequences (e : Nat) : Ready (stopSequences s e) := h.setNear _

theorem Ready.resetJobs (ctx : Nat) : Ready (resetJobs s ctx) := by
  refine foldl_holds (fun s e hs => ?_) _ h
  extract_lets en
  split
  · exact hs
  · split
    · exact hs.setEngine _ _
    · next j _ =>
      extract_lets s1
      have h1 : Ready s1 := by
        unfold s1
        split
        · split
          · exact hs
          · next bs gen _ _ =>
            extract_lets r1
            have hr : r1.Ready := JobRun.Ready.blockWork ⟨hs⟩ e j bs gen
            split
            · exact hs
            · exact hr.state
        · exact hs
      exact (((h1.forgetUnread _).stopSequences _).setEngine _ _)

/-! ### Launches settled, teams chosen to be saved (03 R45, R49, R51) -/

/-- The state in which the attempt to write a launch's word ends is ready. -/
def Worded.Ready : Worded → Prop
  | .done s => Machine.Ready s
  | .waits s => Machine.Ready s

theorem Ready.writeLaunchWord (who : Agent) (ctx jobq : Nat) (addr : Addr) (seq : BitVec 48) (status : Nat) :
    (writeLaunchWord s who ctx jobq addr seq status).Ready := by
  unfold Machine.writeLaunchWord
  extract_lets ea drop
  have hdrop : Ready drop := h.contextEvent _ _ _ _ _ _
  split
  · exact hdrop
  · split
    · exact h.startMigration _ _ _ _ _ _ _
    · exact hdrop.forgetUnread _
    · have hw := h.engineWrite who dispCore ctx ea (natBytes 8 (completionWord 1 status seq)) false
      split
      · next t _ _ pa he => rw [he] at hw; exact hw.carry _ _
      · exact hdrop

theorem Ready.settleQueue (q : Nat) : Ready (settleQueue s q) := by
  unfold Machine.settleQueue
  extract_lets go s1 overNow jq gone s2
  have h1 : Ready s1 := by
    refine foldl_holds (P := fun x : State × Bool => Ready x.1) (fun x id hx => ?_) _ h
    split
    · exact hx
    · next l _ =>
      split
      · exact hx
      · split
        · have hw := hx.writeLaunchWord (.launch id) l.ctx q l.record.done l.record.seq l.status
          split
          · next t he => rw [he] at hw; exact Ready.setLaunches hw _
          · next t he => rw [he] at hw; exact hw
        · exact hx
  split
  · exact h1
  · exact (h1.setQueue _ _).setLaunches _

theorem Ready.settleAll : Ready (settleAll s) := foldl_holds (fun _ q hs => hs.settleQueue q) _ h

theorem Ready.forcedReset (ctx : Nat) : Ready (forcedReset s ctx) := by
  unfold Machine.forcedReset
  extract_lets teams s1 s2 _ s3 s4 s5
  have h1 : Ready s1 := Ready.resetJobs (foldl_holds (fun _ t hs => hs.killTeam t) _ h) _
  have h2 : Ready s2 := h1.setLaunches _
  have h3 : Ready s3 := h2.setMem _
  have h4 : Ready s4 := foldl_holds (fun _ q hs => hs.setQueue _ _) _ h3
  exact (h4.setContext _ _).settleAll.contextEvent _ _ _ _ _ _

theorem Ready.startRetrains : Ready (startRetrains s) := by
  refine foldl_holds (fun s e hs => ?_) _ h
  split
  · exact hs.setNear _
  · exact hs

theorem Ready.checkStopped (ctx : Nat) : Ready (checkStopped s ctx) := by
  unfold Machine.checkStopped
  extract_lets c
  split
  · exact (h.setContext _ _).noticeEvent _ _
  · exact h

theorem Ready.markSaving (team : Nat) (t : Team) : Ready (markSaving s team t) := by
  refine Ready.setTeams (foldl_holds (fun s c hs => ?_) _ h) _
  extract_lets k
  split
  · exact hs
  · exact hs.setCore _ _

theorem Ready.chooseSaves (ctx : Nat) : Ready (chooseSaves s ctx) := by
  refine foldl_holds (P := fun x : State × Nat => Ready x.1) (fun x e hx => ?_) _ h
  split
  · exact hx
  · extract_lets size
    split
    · exact hx
    · split
      · exact hx.markSaving _ _
      · exact hx

theorem Ready.preemptContext (ctx : Nat) : Ready (preemptContext s ctx) := by
  unfold Machine.preemptContext
  extract_lets c s1
  have h1 : Ready s1 := h.setContext _ _
  split
  · exact (h1.forcedReset ctx).startRetrains
  · exact (h1.chooseSaves ctx).checkStopped ctx

end

/-! ## CTXCTL (03 R33) -/

/-- A write of CTXCTL clears RESET, then pre-empts, then resumes, as its bits say (in the order of log 60). -/
theorem ctxctl_acts {s : State} {n : Nat} {x : RegWrite} (hr : s.sys.ready = true) (hn : n < 16) (hlo : x.lo = true) :
    let c := s.context n
    let s1 := s.setContext n { c with reset := c.reset && !x.v.testBit 3 }
    let t := writeSlot s x (.context n 0)
    (x.v.testBit 0 = false → x.v.testBit 1 = false → t = s1) ∧
      (x.v.testBit 0 = true → x.v.testBit 1 = false → execPreempt n s1 = .next t) ∧
      (x.v.testBit 0 = false → x.v.testBit 1 = true → execResume n s1 = .next t) ∧
      (x.v.testBit 0 = true → x.v.testBit 1 = true → ∃ s2, execPreempt n s1 = .next s2 ∧ execResume n s2 = .next t) := by
  intro c s1 t
  have h1 : Ready s1 := Ready.setContext ⟨hr⟩ _ _
  have ht : t = if x.v.testBit 1 then resumeContext (if x.v.testBit 0 then preemptContext s1 n else s1) n
      else if x.v.testBit 0 then preemptContext s1 n else s1 := by
    rw [← RegWrite.flag_written (x := x) 0 false hlo, ← RegWrite.flag_written (x := x) 1 false hlo]
    have hs1 : s1 = s.setContext n { c with reset := x.clear 3 c.reset } := by
      rw [RegWrite.clear_written (x := x) 3 c.reset hlo]
    rw [hs1]
    rfl
  have hp : ∀ {s : State}, Ready s → execPreempt n s = .next (preemptContext s n) := fun h => by
    rw [execPreempt, byHart, if_pos h.ready, if_neg (by omega)]
  have hres : ∀ {s : State}, Ready s → execResume n s = .next (resumeContext s n) := fun h => by
    rw [execResume, byHart, if_pos h.ready, if_neg (by omega)]
  rw [ht]
  refine ⟨fun b0 b1 => ?_, fun b0 b1 => ?_, fun b0 b1 => ?_, fun b0 b1 => ⟨preemptContext s1 n, hp h1, ?_⟩⟩ <;>
    simp only [b0, b1, if_true, Bool.false_eq_true, if_false]
  · exact hp h1
  · exact hres h1
  · exact hres (h1.preemptContext n)

end Sys2Proof.Machine

/-- 00 R5, 03 R33, 11 R137, R159 and R160, and 31 R345, R346 and R353. -/
theorem Sys2Proof.Machine.systemWritesActOnTlbsFlushesAndRegisters :
    Sys2Proof.Claim.SystemWritesActOnTlbsFlushesAndRegisters :=
  ⟨fun _ va asid hr hm hw => sfenceVma_invalidates va asid hr hm hw, fun _ hr hm hw => hfence_invalidates hr hm hw,
    fun _ _ hr hg => l2Flush_starts hr hg, fun _ hg hm => l2FlushDone_flushes hg hm, fun _ _ hr hv => revclr_clears hr hv,
    fun _ _ _ hd ht _ => forcedRelease_releases hd ht, fun _ _ _ _ _ hr hw ha hs => registerWrite_writes hr hw ha hs,
    fun _ _ _ hr hn hlo => ctxctl_acts hr hn hlo, fun s n _ hlo hhi hv => context_translation s ⟨hlo, hhi, hv⟩ n,
    fun s n _ hlo hhi hv => queue_fields s ⟨hlo, hhi, hv⟩ n, registersReadBackWhatIsWritten⟩

/-- Settles O45, by the rule of each sleep's end and of each write of the system. -/
theorem Sys2Proof.Machine.sleepsEndAndSystemWritesAct : Obligations.SleepsEndAndSystemWritesAct :=
  ⟨sleepsEndAsTheirInstructionsSay, systemWritesActOnTlbsFlushesAndRegisters⟩

namespace Sys2Proof.Machine
open Sys2Proof

/-! ## The state after module reset: no table lists an entry, so every unit reads its own reset record -/

theorem reset_context (n : Nat) : State.reset.context n = Context.atReset := rfl
theorem atReset_window (n : Nat) : Context.atReset.window n = Window.reset := rfl
theorem reset_subRing (n : Nat) : State.reset.subRing n = SubRing.reset := rfl
theorem reset_queue (n : Nat) : State.reset.queue n = JobQueue.reset := rfl
theorem reset_faultUnit (n : Nat) : State.reset.faultUnit n = FaultUnit.reset := rfl
theorem faultUnit_reset_ring (n : Nat) : FaultUnit.reset.ring n = FaultRing.reset := rfl
theorem reset_core (n : Nat) : State.reset.core n = Core.reset := rfl
theorem core_reset_part (n : Nat) : Core.reset.part n = Part.reset := rfl

end Sys2Proof.Machine

/-- Settles O56, by the reset record of each unit. -/
theorem Sys2Proof.Machine.resetHoldsTheSpecsValues : Obligations.ResetHoldsTheSpecsValues := by
  refine ⟨rfl, rfl, rfl, rfl, rfl, fun n => ?_, fun n => ?_, fun n => ?_, fun d => ?_, fun n => ?_, ?_⟩
  · rw [Sys2Proof.Machine.reset_context]
    simp [Sys2Proof.Machine.Context.atReset, Sys2Proof.Machine.Context.window, Sys2Proof.Machine.Window.reset]
  · simp [Sys2Proof.Machine.reset_subRing, Sys2Proof.Machine.SubRing.reset]
  · simp [Sys2Proof.Machine.reset_queue, Sys2Proof.Machine.JobQueue.reset]
  · simp [Sys2Proof.Machine.reset_faultUnit, Sys2Proof.Machine.FaultUnit.reset, Sys2Proof.Machine.FaultUnit.ring, Sys2Proof.Machine.FaultRing.reset]
  · simp [Sys2Proof.Machine.reset_core, Sys2Proof.Machine.Core.reset,  Sys2Proof.Machine.Core.part, Sys2Proof.Machine.Part.reset]
  · simp [Sys2Proof.Machine.State.reset]

namespace Sys2Proof.Machine

/-! ## The turns of a step (03 R23, R41) -/

/-- Where a turn that names what follows it comes from. -/
def Turn.From (s : State) : Turn → Prop
  | .agent s' => agentNext s = some s'
  | .stage s' => endStage s = some s'
  | .hart s' => hartNext s = some s'
  | .receivers s' => s' = serveClock s
  | _ => True

theorem nextTurn_from (s : State) : Turn.From s (nextTurn s) := by
  unfold nextTurn
  split
  · trivial
  split
  · trivial
  split
  · next h => exact h
  split
  · next h => exact h
  split
  · trivial
  split
  · next h => exact h
  split
  · trivial
  · rfl

/-- A turn that gives a next state makes the step, with what every step leaves behind. -/
theorem step_next {s u : State} {x : Turn} (hx : nextTurn s = x) (hu : takeTurn s x = .next u) :
    step s = .next (settle s u) := by
  rw [step, hx, hu]

/-! ### A grant -/

section
variable {s : State} {key : Nat} {c : Crew} {K : GroupKey} {a : Bool} (h : nextTurn s = .grant key c K a)
include h

/-- The step of a grant is what the issue of its group gives, its port marked when the group has issued. -/
theorem stepIs_of_issueGroup {u : State} (hu : issueGroup s key c K = .next u) : Claim.StepIs s key c a u := by
  have hg : takeTurn s (.grant key c K a) = .next (match u.crews.get key with
      | some c' =>
        if c'.issues = c.issues && (presented u key c').map Prod.fst ≠ some K then u else markPort u key a
      | none => markPort u key a) := by
    rw [takeTurn, grantIssue, hu]; rfl
  refine ⟨_, step_next h hg, ?_, fun d hd hi => ?_⟩
  · split
    · split
      · exact .inl rfl
      · exact .inr rfl
    · exact .inr rfl
  · rw [hd]; simp [hi]

theorem step_of_issueGroup_fault {f : Fault} (hf : issueGroup s key c K = .fault f) : step s = .fault f := by
  rw [step, h, takeTurn, grantIssue, hf]; rfl

theorem step_of_issueGroup_refused {r : Refusal} (hr : issueGroup s key c K = .refused r) : step s = .refused r := by
  rw [step, h, takeTurn, grantIssue, hr]; rfl

end

/-! ### The issue of a group (07 R78, R94) -/

section
variable {s : State} {key : Nat} {c : Crew} {K : GroupKey} {bs : List (Nat × Byte)}
  (hf : fetchInstr s (coreOf key) (ctxOf s c) K.pc = .ok bs)
include hf

theorem issueGroup_decoded {i : Instr} {rest : List Byte} (hd : decode (bs.map Prod.snd) = .ok (i, rest)) :
    issueGroup s key c K = runDecoded i (Claim.metBy s key c K bs) := by
  simp only [issueGroup, hf, hd, List.length_map, Claim.metBy]

/-- Refused bytes open the unit of a REP with a reserved bit, and raise their cause otherwise. -/
theorem issueGroup_refused {e : DecodeError} (hd : decode (bs.map Prod.snd) = .error e) :
    ∃ is, (Claim.metBy s key c K bs).cur = some is ∧
      (∀ f, e = .reservedBits (.rep f) → issueGroup s key c K = openRep f true is c (Claim.metBy s key c K bs)) ∧
      ((∀ f, e ≠ .reservedBits (.rep f)) →
        issueGroup s key c K = raiseGroup e.named is (Claim.metBy s key c K bs) (e.cause c.nregs K.handler)) := by
  refine ⟨_, rfl, ?_, fun hne => ?_⟩
  · rintro f rfl
    simp only [issueGroup, hf, hd, List.length_map, Claim.metBy]
  · simp only [issueGroup, hf, hd, List.length_map]
    rfl

end

theorem issueGroup_parks {s : State} {key : Nat} {c : Crew} {K : GroupKey}
    (hf : fetchInstr s (coreOf key) (ctxOf s c) K.pc = .error 0) :
    issueGroup s key c K = .next (parkFetch s (startIssue key c K) K.pc) := by
  simp only [issueGroup, hf]

theorem issueGroup_unfetched {s : State} {key : Nat} {c : Crew} {K : GroupKey} {cause : Nat}
    (hf : fetchInstr s (coreOf key) (ctxOf s c) K.pc = .error cause) (hc : cause ≠ 0) :
    issueGroup s key c K = raiseGroup (.unassignedEncoding false 0) (startIssue key c K) s cause := by
  simp only [issueGroup, hf]

/-! ### The other agents and the harts -/

/-- No row of a list is the turn of a stack engine's hart. -/
def NoHartRow (is : List Instr) : Prop := ∀ e, Instr.stackEngineInstruction e ∉ is

section
variable {α : Type} {xs ys : List Instr}

@[simp] theorem noHartRow_nil : NoHartRow [] := fun _ => List.not_mem_nil
@[simp] theorem noHartRow_cons (i : Instr) : NoHartRow (i :: xs) ↔ (∀ e, Instr.stackEngineInstruction e ≠ i) ∧ NoHartRow xs := by
  simp [NoHartRow, not_or, forall_and]
@[simp] theorem noHartRow_append : NoHartRow (xs ++ ys) ↔ NoHartRow xs ∧ NoHartRow ys := by
  simp [NoHartRow, not_or, forall_and]
@[simp] theorem noHartRow_map (f : α → Instr) (as : List α) :
    NoHartRow (as.map f) ↔ ∀ a ∈ as, ∀ e, f a ≠ Instr.stackEngineInstruction e := by
  simp only [NoHartRow, List.mem_map, not_exists, not_and]
  exact ⟨fun h a ha e => h e a ha, fun h e a ha => h a ha e⟩
@[simp] theorem noHartRow_flatMap (f : α → List Instr) (as : List α) :
    NoHartRow (as.flatMap f) ↔ ∀ a ∈ as, NoHartRow (f a) := by
  simp only [NoHartRow, List.mem_flatMap, not_exists, not_and]
  exact ⟨fun h a ha e => h e a ha, fun h e a ha => h a ha e⟩
@[simp] theorem noHartRow_filterMap (f : α → Option Instr) (as : List α) :
    NoHartRow (as.filterMap f) ↔ ∀ a ∈ as, ∀ e, f a ≠ some (Instr.stackEngineInstruction e) := by
  simp only [NoHartRow, List.mem_filterMap, not_exists, not_and]
  exact ⟨fun h a ha e => h e a ha, fun h e a ha => h a ha e⟩

end

@[simp] theorem poolSteps_noHart (s : State) (core : Nat) (c : Command) : NoHartRow (poolSteps s core c) := by
  unfold poolSteps
  split
  · simp
  · split <;> simp
  · simp

@[simp] theorem coreSteps_noHart (s : State) (core : Nat) (k : Core) : NoHartRow (coreSteps s core k) := by
  unfold coreSteps
  split <;> split <;> simp

@[simp] theorem engineSteps_noHart (e : Nat) (n : StackEngine) : NoHartRow (engineSteps e n) := by
  unfold engineSteps
  split <;> split <;> simp

@[simp] theorem dispatcherSteps_noHart (s : State) : NoHartRow (dispatcherSteps s) := by
  simp only [dispatcherSteps, noHartRow_append, noHartRow_map, noHartRow_flatMap]
  refine ⟨⟨by simp, fun q _ => ?_⟩, fun x _ => ?_⟩ <;> split <;> simp

@[simp] theorem rereads_noHart (s : State) : NoHartRow (rereads s) := by
  simp only [rereads, noHartRow_filterMap]
  intro x _ e
  split
  · split <;> simp
  · split <;> simp
  · simp

@[simp] theorem switchSteps_noHart (s : State) : NoHartRow (switchSteps s) := by
  unfold switchSteps
  split
  · simp
  · simp only [noHartRow_filterMap]
    intro p _ e
    split
    · simp
    · split <;> simp

/-- A stack engine's hart takes its turn by itself: no agent's list names it. -/
theorem agentSteps_noHart (s : State) : NoHartRow (agentSteps s) := by
  unfold agentSteps
  split
  · split <;> simp
  · have hresults (k : Nat) (p : Pending) (e : Nat) :
        (if p.memory then Instr.memoryReply k p.seq else Instr.resultWrite k p.seq) ≠ .stackEngineInstruction e := by
      split <;> simp
    have hteams (n : Nat) (x : Team) :
        NoHartRow (if x.saving then [Instr.teamSaveDone n, Instr.teamRetire n] else [Instr.teamRetire n]) := by
      split <;> simp
    simp [hresults, hteams]

/-- The turn of another agent is a row of the list that it may take (log 2). -/
theorem agentNext_row {s s' : State} (h : agentNext s = some s') : ∃ i ∈ agentSteps s, exec i s = .next s' := by
  obtain ⟨i, hi, hs⟩ := List.exists_of_findSome?_eq_some h
  refine ⟨i, hi, ?_⟩
  have ht : agentTurn s i = if (encode i).isSome then .refused (.notEnabled "scheduled") else exec i s := by
    unfold agentTurn
    split
    · next e => exact absurd hi (agentSteps_noHart s e)
    · rfl
  rw [ht] at hs
  split at hs
  · next he =>
    split at he
    · cases he
    · cases hs; exact he
  · cases hs

/-- A hart's turn runs the instruction it is at. -/
theorem hartNext_instr {s s' : State} (h : hartNext s = some s') : ∃ e i, hartInstr s e = some i ∧
    exec i ((noteHartFetch s e i).setNear { (noteHartFetch s e i).near with turn := some e }) = .next s' := by
  obtain ⟨e, -, hs⟩ := List.exists_of_findSome?_eq_some h
  split at hs
  · split at hs
    · next t ht =>
      cases hs
      unfold hartTurn at ht
      split at ht
      · cases ht
      · next i hi => exact ⟨e, i, hi, ht⟩
    · cases hs
  · cases hs

/-- A scheduled event takes its turn as the row it is. -/
theorem agentTurn_event {i : Instr} (s : State) (he : encode i = none) (hs : ∀ e, i ≠ .stackEngineInstruction e) :
    agentTurn s i = exec i s := by
  unfold agentTurn
  split
  · next e => exact absurd rfl (hs e)
  · simp [he]

/-! ### The passing of a clock -/

/-- Bringing the waits up to date touches the crews alone. -/
theorem refreshWaits_eq (s : State) : ∃ k, refreshWaits s = s.setCrews k := by
  refine foldl_holds (P := fun t => ∃ k, t = s.setCrews k) (fun t e ht => ?_) _ ⟨s.crews, rfl⟩
  obtain ⟨k, rfl⟩ := ht
  extract_lets c waits since yielded queued ready
  split
  · exact ⟨k, rfl⟩
  · exact ⟨_, rfl⟩

@[simp] theorem refreshWaits_clock (s : State) : (refreshWaits s).clock = s.clock := by
  obtain ⟨k, h⟩ := refreshWaits_eq s; rw [h]; rfl
@[simp] theorem refreshWaits_mem (s : State) : (refreshWaits s).mem = s.mem := by
  obtain ⟨k, h⟩ := refreshWaits_eq s; rw [h]; rfl

@[simp] theorem tick_clock (s : State) : (tick s).clock = s.clock + 1 := by
  unfold tick
  dsimp only
  split <;> simp

@[simp] theorem tick_mem (s : State) : (tick s).mem = s.mem := by
  unfold tick
  dsimp only
  split <;> simp

/-- Breaking reservations touches the stack engines alone. -/
theorem breakReservations_near (old new : State) : ∃ n, breakReservations old new = new.setNear n := by
  refine foldl_holds (P := fun s => ∃ n, s = new.setNear n) (fun s x hs => ?_) _ ⟨new.near, rfl⟩
  obtain ⟨n, rfl⟩ := hs
  split
  · split
    · exact ⟨n, rfl⟩
    · exact ⟨_, rfl⟩
  · exact ⟨n, rfl⟩

@[simp] theorem settle_clock (s t : State) : (settle s t).clock = t.clock := by
  obtain ⟨n, h⟩ := breakReservations_near s t
  simp [settle, h]

@[simp] theorem settle_mem (s t : State) : (settle s t).mem = t.mem := by
  obtain ⟨n, h⟩ := breakReservations_near s t
  simp [settle, h]

end Sys2Proof.Machine

/-- Settles O55, by what each turn gives: a grant the issue of its group, a hart and an agent their row. -/
theorem Sys2Proof.Machine.aStepRunsTheDecodedInstruction : Obligations.AStepRunsTheDecodedInstruction := by
  refine ⟨fun s key c K a bs i rest hg hf hd => ?_, fun s key c K a bs e hg hf hd => ?_, fun s key c K a hg hf => ?_,
    fun s key c K a cause hg hf hc => ?_, fun s s' ht => ?_, fun s k q s' ht hx => step_next ht hx, fun s s' ht => ?_,
    fun s i rest s' ht he hs hx => ?_, fun s s' ht => ?_, fun s s' ht => ?_, fun s ht => ?_⟩
  · have hrun := issueGroup_decoded hf hd
    refine ⟨fun u hu hcur => stepIs_of_issueGroup hg ?_, fun u j t u' hu hcur htarget hu' => stepIs_of_issueGroup hg ?_,
      fun f hx => step_of_issueGroup_fault hg ?_, fun r hx => step_of_issueGroup_refused hg ?_⟩
    · rw [hrun, runDecoded, hu]
      cases hj : u.cur with
      | none => simp [hj]
      | some j => simp [hj, hcur j hj]
    · rw [hrun, runDecoded, hu]
      simp only [hcur, htarget]
      exact hu'
    · rw [hrun, runDecoded, hx]
    · rw [hrun, runDecoded, hx]
  · obtain ⟨is, his, hrep, hraise⟩ := issueGroup_refused hf hd
    refine ⟨is, his, fun f u he hu => stepIs_of_issueGroup hg ((hrep f he).trans hu), fun hne =>
      ⟨_, e.named, _, rfl, stepIs_of_issueGroup hg (hraise hne), ?_⟩⟩
    cases e <;> simp [DecodeError.named, DecodeError.cause]
  · exact stepIs_of_issueGroup hg (issueGroup_parks hf)
  · exact ⟨_, rfl, stepIs_of_issueGroup hg (issueGroup_unfetched hf hc)⟩
  · have hfrom := nextTurn_from s
    rw [ht] at hfrom
    obtain ⟨e, i, hi, hx⟩ := hartNext_instr hfrom
    exact ⟨e, i, hi, hx, step_next ht rfl⟩
  · have hfrom := nextTurn_from s
    rw [ht] at hfrom
    obtain ⟨i, hi, hx⟩ := agentNext_row hfrom
    exact ⟨i, hi, hx, step_next ht rfl⟩
  · refine step_next ht ?_
    rw [takeTurn, agentTurn_event _ he hs, hx]
  · have hfrom := nextTurn_from s
    rw [ht] at hfrom
    exact ⟨hfrom, step_next ht rfl⟩
  · have hfrom := nextTurn_from s
    rw [ht] at hfrom
    exact ⟨hfrom, step_next ht rfl⟩
  · exact ⟨_, step_next ht rfl, by simp, by simp⟩

namespace Sys2Proof.Machine
open Sys2Proof

/-! ## Concrete states for the refutations: one crew on core 0, of which lane 0 issues -/

/-- The placed state: context 0 translates the low 2^48 bytes to themselves through the leaf at placeRoot. -/
def placedState : State := placeOnCrew State.reset 0

/-- A crew of it whose register pair v4, v5 of lane 0 holds 0x10000. -/
def pointingCrew : Crew :=
  { startCrew 0 placedRecord 0 0 0 [] with
    active := true
    regs := [(128, { val := 0x10000#32, live := true, poison := false, seq := 0 }),
             (160, { val := 0#32, live := true, poison := false, seq := 0 })] }

/-- The issue of lane 0 alone at the placed PC. -/
def laneZero : Issue :=
  { crew := 0, lanes := 1#32, pc := BitVec.ofNat 57 placePc, handler := false, rep := 0, count := 1, unit := false
    next := BitVec.ofNat 57 (placePc + 8), h5 := 0#32, h6 := 0#32, target := none }

/-- That issue in progress, in crew slot 0. -/
def issuingLaneZero (s : State) (c : Crew) : State := { s with crews := [(0, c)], cur := some laneZero }

/-- The bytes given from an address on, in memory itself. -/
def State.withBytes (s : State) (at' : Nat) (bs : List Byte) : State := s.setMem (writeSeq MemSys.putThrough s.mem at' bs)

/-- The operands of a 64-bit form: vd and va. -/
def vdVa (vd va : BitVec 6) : F64 :=
  { s := 0, vd, va, vb := 0, vc := 0, la := false, lb := false, lc := false, gb := false, imm := 0, mod := 0 }

/-- The state an outcome leaves, where it leaves one. -/
def stateAfter : Out → Option State
  | .next t => some t
  | _ => none

theorem stateAfter_next {o : Out} {t : State} (h : o = .next t) : stateAfter o = some t := by rw [h]; rfl

/-- What an outcome leaves of the part of a state that f reads. -/
theorem stateAfter_map {α : Type} {o : Out} {t : State} {a : α} (f : State → α) (h : o = .next t) (ha : (stateAfter o).map f = some a) :
    f t = a := by
  rw [stateAfter_next h] at ha
  exact Option.some.inj ha

end Sys2Proof.Machine

namespace Sys2Proof.Machine
open Sys2Proof

/-! ## A REGROUP of a crew that holds a cause and has no handler writes an event, whose store breaks a reservation -/

/-- A crew with no thread in handler mode that holds cause 1. -/
def holdingCrew : Crew := { pointingCrew with held := [(1, BitVec.ofNat 57 placePc)] }

/-- A hart of a stack engine that holds the reservation of the 64 bytes at address 0, where the event ring of context 0 is. -/
def reservingEngine : StackEngine :=
  { StackEngine.reset with hart := { Hart.reset with reservation := some 0 } }

/-- Lane 0 of that crew issues while stack engine 0 has that hart. -/
def regroupingState : State :=
  { issuingLaneZero placedState holdingCrew with near := { placedState.near with engines := [(0, reservingEngine)] } }

def regroupFields : F64 := { vdVa 0 4 with vb := 4 }

theorem regroup_ready :
    Claim.ReadyAs (.regroup regroupFields) { Instr.form (.regroup regroupFields) with a := .no } regroupingState laneZero
      holdingCrew :=
  ⟨rfl, rfl, by decide +kernel, by decide +kernel⟩

/-- The reservations of the harts of the stack engines. -/
def hartReservations (s : State) : List (Option Nat) := s.near.engines.map fun e => e.2.hart.reservation

theorem regroupingState_reserved : hartReservations regroupingState = [some 0] := by decide +kernel

theorem exec_regroup_reserved :
    (stateAfter (exec (.regroup regroupFields) regroupingState)).map hartReservations = some [none] := by decide +kernel

end Sys2Proof.Machine

/-- Refutes O13: the threads that a REGROUP ends leave causes held, whose event is stored over a reserved granule, so the
near-memory units do not stay as they were. -/
theorem Sys2Proof.Machine.not_regroupAndTransfersMoveTheirValues : ¬ Obligations.RegroupAndTransfersMoveTheirValues := by
  unfold Obligations.RegroupAndTransfersMoveTheirValues Claim.RegroupSubmitsPayloadsAndEndsThreads
  rintro ⟨h, -, -⟩
  obtain ⟨t, hx, -, hkept, -⟩ :=
    h regroupFields regroupingState laneZero holdingCrew regroup_ready rfl (fun hs => absurd hs (by decide +kernel))
      (by decide +kernel) (by decide) (fun e he => nomatch he) (by decide +kernel)
  have ht := stateAfter_map hartReservations hx exec_regroup_reserved
  have hts : hartReservations t = hartReservations regroupingState := by unfold hartReservations; rw [hkept.near]
  exact absurd (ht.symm.trans (hts.trans regroupingState_reserved)) (by decide)

namespace Sys2Proof.Machine
open Sys2Proof

/-! ## LAUNCH notes the read of its record: the dispatcher's translation of it is cached -/

/-- A launch record of job queue 0 at device scope, with entry 0. -/
def queuedRecord : List Byte := List.replicate 20 0 ++ [5] ++ List.replicate 107 0

/-- Queue 0 is enabled for context 0, the record stands at 0x10000, and lane 0 issues a LAUNCH of it. -/
def launchingState : State :=
  let s := (issuingLaneZero placedState pointingCrew).withBytes 0x10000 queuedRecord
  s.setQueue 0 { s.queue 0 with en := true }

def launchV4 : Instr := .launch (vdVa 8 4)

def launchTurns : Option (State × List (Nat × Word)) :=
  Claim.launchInTurn 0 (ctxOf launchingState pointingCrew) (.check 0 laneZero.pc.toNat) (Claim.parts launchV4 laneZero pointingCrew)
    launchingState

theorem launchV4_ready : Claim.Ready launchV4 launchingState laneZero pointingCrew :=
  ⟨rfl, rfl, by decide +kernel, by decide +kernel⟩

theorem launchTurns_some :
    (launchTurns.map fun r => (r.1.mem.tlb.length, (r.1.crews.get 0).isSome)) = some (0, true) := by decide +kernel

theorem exec_launchV4_tlb : (stateAfter (exec launchV4 launchingState)).map (fun t => t.mem.tlb.length) = some 1 := by decide +kernel

end Sys2Proof.Machine

/-- Refutes O27: the record's read by the dispatcher is noted, so that the LAUNCH leaves one more TLB entry than the queues' turns. -/
theorem Sys2Proof.Machine.not_launchPostsRecordsInLaneOrder : ¬ Obligations.LaunchPostsRecordsInLaneOrder := by
  unfold Obligations.LaunchPostsRecordsInLaneOrder
  rintro ⟨h, -, -⟩
  obtain ⟨⟨s', ws⟩, hs, hr⟩ := Option.map_eq_some_iff.1 launchTurns_some
  obtain ⟨hlen, hcrew⟩ := Prod.mk.inj hr
  obtain ⟨t, _, _, _, hx, -, -, -, -, -, -, hk⟩ :=
    h _ _ _ _ _ _ launchV4_ready (by decide : (1#32 : Lanes) ≠ 0#32) hs (Option.isSome_iff_ne_none.1 hcrew)
  have ht : t.mem.tlb.length = 1 := stateAfter_map (fun t => t.mem.tlb.length) hx exec_launchV4_tlb
  rw [hk.mem] at ht
  exact absurd (hlen.symm.trans ht) (by decide)

namespace Sys2Proof.Machine
open Sys2Proof

/-! ## VPIN of a count at its limit reads the block's line, and its crew takes what the line carries -/

/-- A version block whose buffer CUR = 0 has as many readers as it can count. -/
def fullBlock : List Byte := List.replicate 8 0 ++ List.replicate 4 0xFF ++ List.replicate 4 0

/-- What a release has carried to the block's line. -/
def releasedOnce : Carried := { sig := 1#512, know := [] }

/-- The full block stands at 0x10000, its line carries a release, the handler is enabled, and lane 0 issues a VPIN of it. -/
def pinningState : State :=
  let s := (issuingLaneZero placedState pointingCrew).withBytes 0x10000 fullBlock
  let s := s.setContext 0 { s.context 0 with hen := true }
  s.setMem { s.mem with carried := [(0x10000 / 128, releasedOnce)] }

def vpinV4 : Instr := .vpin (vdVa 8 4)

theorem vpinV4_ready : Claim.Ready vpinV4 pinningState laneZero pointingCrew :=
  ⟨rfl, rfl, by decide +kernel, by decide +kernel⟩

/-- The reads of the version block by the participants. -/
def pinTurns : State × List (Nat × Got) :=
  Claim.inTurn (fun s p => threadAtomic s laneZero.crew (ctxOf s pointingCrew) (Claim.pairOf p.a).toNat 16 Claim.pinnedBlock)
    (Claim.parts vpinV4 laneZero pointingCrew) pinningState

theorem pinTurns_reads : pinTurns.2 = [(0, .bytes fullBlock [] 0x10000)] := by decide +kernel

theorem exec_vpinV4_reads :
    (stateAfter (exec vpinV4 pinningState)).map (fun t => (t.crews.get 0).map Crew.reads) = some (some releasedOnce) := by
  decide +kernel

end Sys2Proof.Machine

/-- Refutes O40: the crew of a VPIN that raises 0x0CB has taken what the line of the block carries. -/
theorem Sys2Proof.Machine.not_versionsAndBudgetsCountTheirReaders : ¬ Obligations.VersionsAndBudgetsCountTheirReaders := by
  unfold Obligations.VersionsAndBudgetsCountTheirReaders Claim.VersionBlocksCountTheirReaders
  rintro ⟨⟨h, -, -, -⟩, -⟩
  have hperf : Claim.AllPerformed pinTurns.2 := by
    rw [pinTurns_reads]
    intro e he
    exact ⟨_, _, _, congrArg Prod.snd (List.mem_singleton.1 he)⟩
  have hfull : ∀ l ∈ lanesOf laneZero.lanes, Claim.pinnedBlock (Claim.bytesOf pinTurns.2 l) = none := by
    rw [pinTurns_reads]; decide +kernel
  obtain ⟨-, hraise⟩ := h (vdVa 8 4) pinningState laneZero pointingCrew vpinV4_ready (by decide) hperf
  obtain ⟨t, d, hx, hd, -, -, -, hout, -⟩ := hraise hfull (by unfold Claim.OneGroup; decide +kernel) (.inr (by decide +kernel))
  have ht := stateAfter_map (fun t => (t.crews.get 0).map Crew.reads) hx exec_vpinV4_reads
  obtain ⟨hkept, -⟩ := hout rfl
  have hd0 : t.crews.get 0 = some d := hd
  rw [hd0, Option.map_some, hkept.reads] at ht
  exact absurd ht (by decide +kernel)

namespace Sys2Proof.Machine
open Sys2Proof

/-! ## A ring's record that lies over the page table entry of its own page: reading it sets the entry's A bit -/

/-- A record of job queue 0 at device scope whose bitmap word, at 0x38, is entry 7 of the root table: a leaf of 2^48 bytes
with V, R, W, X and U, and A = 0. -/
def tableRecord : List Byte :=
  List.replicate 20 0 ++ [5] ++ List.replicate 35 0 ++ natBytes 8 0x1F ++ List.replicate 64 0

/-- Ring 0 of context 0 has one record, the start of the root table through the page of its entry 7; queue 0 is enabled. -/
def ringState : State :=
  let s := placedState.withBytes (placeRoot * 4096) tableRecord
  let s := s.setQueue 0 { s.queue 0 with en := true }
  s.setSubRing 0 { s.subRing 0 with base := BitVec.ofNat 57 (7 * 2 ^ 48 + placeRoot * 4096), head := 1, en := true }

/-- The effective address of that record. -/
def tableRecordAt : Nat :=
  let r := ringState.subRing 0
  canonical (r.base + BitVec.ofNat 57 (128 * (r.tail.toNat % 2 ^ ringLog r.log.toNat)))

theorem tableRecord_read : engineRead ringState 256 (ringState.subRing 0).ctx.toNat tableRecordAt 128 = .ok tableRecord false := by
  decide +kernel

/-- The bitmaps of the launches of a state. -/
def bitmaps (s : State) : List (BitVec 57) := s.launches.map fun e => e.2.record.pbmap

/-- The state in which the record's bytes before the read are taken. -/
def takenAs : Taken → Option State
  | .taken s => some s
  | _ => none

theorem tableRecord_taken :
    (takenAs (takeRecord ringState (.ring 0) (ringState.subRing 0).ctx.toNat tableRecord)).map bitmaps = some [0x1F#57] := by
  decide +kernel

theorem exec_ringEntryRead_bitmaps : (stateAfter (exec (.ringEntryRead 0) ringState)).map bitmaps = some [0x5F#57] := by
  decide +kernel

theorem takenAs_some {x : Taken} {s : State} (h : takenAs x = some s) : x = .taken s := by
  cases x <;> simp_all [takenAs]

end Sys2Proof.Machine

/-- Refutes O41: the note of the read sets A in a page table entry that is part of the record, so the record taken has it set. -/
theorem Sys2Proof.Machine.not_dispatcherRegistersAndRingsMove : ¬ Obligations.DispatcherRegistersAndRingsMove := by
  unfold Obligations.DispatcherRegistersAndRingsMove
  rintro ⟨-, -, -, -, -, h, -⟩
  obtain ⟨s', hs, hb⟩ := Option.map_eq_some_iff.1 tableRecord_taken
  obtain ⟨t, hx, -, hl, -⟩ :=
    h ringState 0 tableRecord s' (by decide) (by decide +kernel) (by decide +kernel) (by decide +kernel) (by decide +kernel)
      tableRecord_read (takenAs_some hs)
  have hts : bitmaps t = bitmaps s' := by unfold bitmaps; rw [hl]
  have ht := stateAfter_map bitmaps hx exec_ringEntryRead_bitmaps
  exact absurd (ht.symm.trans (hts.trans hb)) (by decide)

namespace Sys2Proof.Machine
open Sys2Proof

/-! ## The placement of a team with group constants notes the read of their table -/

/-- A launch of one team with one group constant, whose table stands at 0x10000. -/
def constLaunch : Launch :=
  { record := { placedRecord with constn := 1, const := 0x10000 }
    ctx := 0, bad := false, next := 0, retired := 0, killed := false, placed := false
    faulted := false, halted := false, reset := false, done := false }

/-- Queue 0 of context 0 holds that launch alone, and no crew is on any core. -/
def servingState : State :=
  let s := { placedState with crews := [], tctxs := [], teams := [], launches := [(0, constLaunch)] }
  s.setQueue 0 { s.queue 0 with en := true, launches := [0] }

/-- The group constants of the next team, where they can be read. -/
def constsOf : Reads → Option (List Word)
  | .ready ws => some ws
  | _ => none

theorem constsOf_some {x : Reads} {ws : List Word} (h : constsOf x = some ws) : x = .ready ws := by
  cases x <;> simp_all [constsOf]

theorem servingState_reads : teamReads servingState 0 constLaunch = .ready [0#32] :=
  constsOf_some (by decide +kernel)

theorem servingState_fits : (fits servingState constLaunch.record [0]).isSome = true := by decide +kernel

theorem servingState_tlb : servingState.mem.tlb.length = 0 := by decide +kernel

theorem exec_teamPlacement_tlb :
    (stateAfter (exec (.teamPlacement 0 [0]) servingState)).map (fun t => t.mem.tlb.length) = some 1 := by decide +kernel

end Sys2Proof.Machine

/-- Refutes O42: a placement notes the read of the group constants, which leaves a TLB entry, so memory does not stay as it was. -/
theorem Sys2Proof.Machine.not_teamsArePlacedRunAndRetire : ¬ Obligations.TeamsArePlacedRunAndRetire := by
  unfold Obligations.TeamsArePlacedRunAndRetire Claim.TeamsArePlacedAndRetire
  rintro ⟨⟨h, -⟩, -⟩
  obtain ⟨rooms, hrooms⟩ := Option.isSome_iff_exists.1 servingState_fits
  obtain ⟨t, _, hx, -, -, -, -, -, -, -, -, hmem, -⟩ :=
    h servingState 0 [0] 0 constLaunch [0#32] rooms (by decide +kernel) (by decide +kernel) servingState_reads
      (by decide +kernel) (fun hdet => absurd hdet (by decide)) hrooms
  have ht := stateAfter_map (fun t => t.mem.tlb.length) hx exec_teamPlacement_tlb
  rw [hmem] at ht
  exact absurd (servingState_tlb.symm.trans ht) (by decide)

namespace Sys2Proof.Machine
open Sys2Proof

/-! ## A physical core whose running logical core has an accepted command in its checks does not pass to another -/

/-- Slots 0 and 1 of physical cluster 0 are retired, so that slot 2 serves the logical cores 1 and 2. -/
def twoRetired : Map PhysCore :=
  [(0, { retired := true, retiring := false, running := 0, since := 0 }),
   (1, { retired := true, retiring := false, running := 1, since := 0 })]

/-- A command that has been accepted and waits for its checks' page. -/
def checkingWaiter : Waiter :=
  { crew := 192, pc := 0#57, lanes := 1#32, queue := 0, entries := 1, token := none, accepted := some 0, was := .idle
    page := none, ring := none }

/-- Logical core 1 runs on slot 2, long enough to be switched out, and that command waits on it. -/
def checkingState : State :=
  { State.reset with
    clock := 65536
    sys := { State.reset.sys with phys := twoRetired }
    cores := [(1, { Core.reset with waiters := [checkingWaiter] })] }

/-- The switch does not happen. -/
theorem exec_logicalCoreSwitch_checking : (stateAfter (exec (.logicalCoreSwitch 2 2) checkingState)).isNone = true := by
  decide +kernel

end Sys2Proof.Machine

/-- Refutes O43: a logical-core switch is not enabled while a command that has been accepted waits for its checks. -/
theorem Sys2Proof.Machine.not_contextsStopResumeAndEscalate : ¬ Obligations.ContextsStopResumeAndEscalate := by
  unfold Obligations.ContextsStopResumeAndEscalate Claim.ContextsStopSaveAndResume
  rintro ⟨⟨-, -, -, -, -, -, -, h⟩, -⟩
  obtain ⟨t, hx, -⟩ :=
    h checkingState 2 2 1 (by decide +kernel) (by decide) (by decide +kernel) (by decide +kernel) (by decide +kernel)
  have hnone := exec_logicalCoreSwitch_checking
  rw [stateAfter_next hx] at hnone
  cases hnone
